-- ==== Sys2Proof/Word.lean ====
section
/-! DEFINITION. The word types of the machine: bytes, 32-bit lane registers, 64-bit scalar registers. -/

namespace Sys2Proof

/-- One byte of memory, scratchpad, tile or code (00 R6: everything is little-endian bytes). -/
abbrev Byte := BitVec 8

/-- A lane's vector register, or a mask register (01 R17). -/
abbrev W32 := BitVec 32

/-- A scalar register, a CSR or a virtual address (01 R17, 05 R106). -/
abbrev W64 := BitVec 64

end Sys2Proof
end

