-- ==== Sys2Proof/Config.lean ====
section
/-! DEFINITION. What the implementation fixes (00 R1, R2), and the free values: constants without a body, of which
nothing can be proved, for what the spec leaves open. -/

namespace Sys2Proof.Config

/-- Cores of a die, of a cluster; clusters of a die (00 R1). -/
def coresPerDie : Nat := 96
def coresPerCluster : Nat := 8
/-- Compute cores of the device; pan units follow (00 R1, 01 R12). -/
def cores : Nat := 768
def panPerStack : Nat := 16
def units : Nat := 896
def stackNum : Nat := 8
/-- Strike hold, in core cycles (05 R137). -/
def holdCycles : Nat := 512
/-- Cycles after which the data of a late `LDG` lane have arrived; 09 R226 gives no bound. Log entry 15. -/
def lateCycles : Nat := 64
/-- Entries of a command queue, a task deque, a queue channel (12 R286, 01 R35, 12 R300). -/
def cmdQueue : Nat := 64
def dequeSize : Nat := 256
def channelSize : Nat := 16
/-- Slots of a trap sequence's window (16 R314). -/
def trapWindow : Nat := 1024
/-- First byte of the host window within a device's memory (21 R399). -/
def hostWindow : Nat := 0xC000000000
/-- Package power limit in watts (23 R433). -/
def packageWatts : Nat := 3200

/-- The byte that a read under a key other than the writer's returns (23 R420): reading key, writing key, address, and the 16 bytes stored in its
granule, which are ciphered together. Log entry 6. -/
opaque foreignByte : Nat → Nat → Nat → List Byte → Byte
/-- A candidate result of a special function (08 R213): function number and operand bits. Log entry 7. -/
opaque special : Nat → Nat → Nat
/-- The depth and the node count of a PREFIX index (10 R242): from its live and dead rows. Log entry 8. -/
opaque pfxDepth : Nat → Nat → Nat
opaque pfxNodes : Nat → Nat → Nat
/-- A cursor record that a rake unit would take (10 R248): from the counter `fresh`. Log entry 17. -/
opaque cursorRecord : Nat → Nat
/-- The errors that a block has corrected since they were counted last (19 R374): from the counter `fresh`. Log entry 74. -/
opaque correctedErrors : Nat → Nat
/-- The cluster that the hash of 05 R119 gives for a line, below 96. Log entry 9. -/
opaque lineOwner : Nat → Nat
/-- The next free value of the device: which one is the counter `fresh`. Log entry 3. -/
opaque freeValue : Nat → Nat
/-- The 16 MiB region of IPAs in which a rake unit puts a block of a sequence (18 R352). Log entry 10. -/
opaque blockIpa : Nat → Nat
/-- The bytes of a queued command and of a queued task in a save area (16 R318), which gives only their sizes. Log entry 22. -/
opaque cmdImage : Nat → Nat → Byte
opaque taskImage : Nat → Nat → Nat → Byte
/-- Signatures, keys and digests of the SMC (23 R421, R425, R429). Log entry 11. -/
opaque signBytes : List Byte → List Byte
opaque keyBytes : Nat → List Byte
opaque digest : List Byte → List Byte
/-- The fused key hash and rollback counter, and whether a signature verifies: public key, message, signature (23 R425). Log entry 11. -/
opaque fusedHash : List Byte
opaque fusedSvn : Nat
opaque verifies : List Byte → List Byte → List Byte → Bool

end Sys2Proof.Config
end

