-- ==== Sys2Proof/Machine/Bits.lean ====
section
/-! DEFINITION. Bit fields, two's complement and byte order on natural numbers (00 R6). -/

namespace Sys2Proof

/-- Bits `lo … lo+n-1` of `w`. -/
def bitsAt (w lo n : Nat) : Nat := w / 2 ^ lo % 2 ^ n

/-- Bit `i` of `w`. -/
def bitAt (w i : Nat) : Bool := w / 2 ^ i % 2 == 1

/-- 1 for true, 0 for false. -/
def flagNat (b : Bool) : Nat := if b then 1 else 0

/-- The two's complement value of the low `w` bits of `a` (07 R180, sx). -/
def sxInt (w a : Nat) : Int :=
  let a := a % 2 ^ w
  if a < 2 ^ (w - 1) then (a : Int) else (a : Int) - (2 ^ w : Nat)

/-- `x` modulo `2 ^ w`, as a natural number. -/
def wrapInt (w : Nat) (x : Int) : Nat := (x % ((2 ^ w : Nat) : Int)).toNat

/-- The `n` low bytes of `w`, low byte first. -/
def leBytes : Nat → Nat → List Byte
  | 0, _ => []
  | n + 1, w => BitVec.ofNat 8 w :: leBytes n (w / 256)

/-- The number whose bytes, low byte first, are these. -/
def ofLe : List Byte → Nat
  | [] => 0
  | b :: bs => b.toNat + 256 * ofLe bs

/-- The lanes 0–31, ascending. -/
def allLanes : List Nat := List.range 32

/-- The mask with exactly the bits of these lanes set. -/
def maskOf (ls : List Nat) : Nat := ls.foldl (fun m l => m ||| 2 ^ l) 0

/-- The lanes whose bit is set in `m`, ascending. -/
def lanesOf (m : Nat) : List Nat := allLanes.filter fun l => bitAt m l

/-- The number of set bits among bits 0 … n-1. -/
def popCount : Nat → Nat → Nat
  | 0, _ => 0
  | n + 1, w => w % 2 + popCount n (w / 2)

/-- Ceiling of `a / b`. -/
def ceilDiv (a b : Nat) : Nat := (a + b - 1) / b

end Sys2Proof
end

