-- ==== Sys2Proof/Machine/Sparse.lean ====
section
/-! DEFINITION. Finite maps from numbers, held as lists sorted by key without repeats. A map of values with a
default lists no entry equal to the default, so that equal maps are equal lists. -/

namespace Sys2Proof.Machine

/-- The entry under `k`. -/
def find {α : Type} (k : Nat) : List (Nat × α) → Option α
  | [] => none
  | (j, x) :: t => if k = j then some x else find k t

/-- The value under `k`, `d` where nothing is listed. -/
def getD {α : Type} (d : α) (m : List (Nat × α)) (k : Nat) : α := (find k m).getD d

/-- Insert or replace the entry under `k`, keeping the keys rising. -/
def insert {α : Type} (k : Nat) (x : α) : List (Nat × α) → List (Nat × α)
  | [] => [(k, x)]
  | (j, y) :: t => if k < j then (k, x) :: (j, y) :: t else if k = j then (k, x) :: t else (j, y) :: insert k x t

/-- Remove the entry under `k`. -/
def erase {α : Type} (k : Nat) (m : List (Nat × α)) : List (Nat × α) := m.filter fun e => e.1 != k

/-- Write `x` under `k` in a map whose default is `d`: the default is not listed. -/
def put {α : Type} [DecidableEq α] (d : α) (k : Nat) (x : α) (m : List (Nat × α)) : List (Nat × α) :=
  if x = d then erase k m else insert k x m

/-- Change the entry under `k`, where there is one. -/
def adjust {α : Type} (k : Nat) (f : α → α) (m : List (Nat × α)) : List (Nat × α) :=
  m.map fun e => if e.1 = k then (e.1, f e.2) else e

/-- The canonical form of a map whose default is `d`: keys rise strictly and no entry equals the default. -/
abbrev Canonical {α : Type} (d : α) (m : List (Nat × α)) : Prop :=
  m.Pairwise (fun a b => a.1 < b.1) ∧ ∀ e ∈ m, e.2 ≠ d

end Sys2Proof.Machine
end

