-- ==== Sys2Proof/Syntax.lean ====
section
/-! DEFINITION. The instructions: one constructor per row of the opcode table, over operand structures
that hold the decoded fields of each family's format (02 R51, 07 R165, R178, 08 R200, 09 R217, 10 R237,
11 R267, 12 R284, 16 R320). Rows of the table that are events of the machine (a dispatch, a completion,
an arrival) are constructors too; no words decode to them. -/

namespace Sys2Proof

/-- The predicate of an instruction (02 R51, R52): `pm` 0–11 names a mask, 12 means always; `pn` negates. -/
structure Pred where
  pm : Nat
  pn : Bool
  deriving DecidableEq, Repr

/-- Overflow handling of the integer class (07 R178 OV). -/
inductive Ov | wrap | sat | usat
  deriving DecidableEq, Repr

/-- Rounding modes (08 R200 RM): nearest even, to zero, up, down, nearest even with error feedback. -/
inductive Rm | rne | rz | rup | rdn | ef
  deriving DecidableEq, Repr

/-- Element formats (04 R87; codes 0–9 of 08 R200). -/
inductive Fmt | f32 | f16 | bf16 | f8a | f8b | i32 | i8 | i4 | i8a | i4a
  deriving DecidableEq, Repr

/-- Access sizes (09 R217 SZ). -/
inductive Size | b8 | b16 | b32 | b64 | b128
  deriving DecidableEq, Repr

/-- Memory orders (05 R121). -/
inductive Order | rlx | acq | rel | ar | sc
  deriving DecidableEq, Repr

/-- Memory scopes (05 R121). -/
inductive Scope | none | warp | group | core | cluster | die | device | system
  deriving DecidableEq, Repr

/-- Full/empty qualifier (09 R217 FE): no qualifier; `q1` is `FW` of a load and `SF` of a store; `q2` is `FC`. -/
inductive FeQual | plain | q1 | q2
  deriving DecidableEq, Repr

/-- Fields of the integer class (07 R178, R179). `fn` is the function of `BOOL`, `ICMP` and `REDW`. -/
structure IntF where
  p : Pred
  u : Bool := false
  bs : Bool := false
  w : Bool := false
  ov : Ov := .wrap
  uns : Bool := false
  x : Nat := 0
  d : Nat := 0
  a : Nat := 0
  b : Nat := 0
  c : Nat := 0
  imm : W32 := 0
  fn : Nat := 0
  deriving DecidableEq, Repr

/-- Fields of `CSRR` and `CSRW` (07 R195). `r` is the register (D of `CSRR`, A of `CSRW`). -/
structure CsrF where
  p : Pred
  u : Bool := false
  w : Bool := false
  csrn : Nat
  r : Nat
  fn : Nat := 0
  deriving DecidableEq, Repr

/-- Fields of the floating-point class (08 R200, R201). -/
structure FpF where
  p : Pred
  u : Bool := false
  bs : Bool := false
  rm : Rm := .rne
  fmt : Fmt := .f32
  src : Fmt := .f32
  na : Bool := false
  nb : Bool := false
  nc : Bool := false
  fin : Bool := false
  d : Nat := 0
  a : Nat := 0
  b : Nat := 0
  c : Nat := 0
  imm : W32 := 0
  fn : Nat := 0
  deriving DecidableEq, Repr

/-- Fields of the memory class (09 R217, R218). `fn` is the operation of `ATOM` and `RED`. -/
structure MemF where
  p : Pred
  u : Bool := false
  sz : Size := .b8
  sx : Bool := false
  fe : FeQual := .plain
  ord : Order := .rlx
  scp : Scope := .none
  yh : Bool := false
  x : Bool := false
  d : Nat := 0
  a : Nat := 0
  b : Nat := 0
  c : Nat := 0
  imm : W32 := 0
  fn : Nat := 0
  deriving DecidableEq, Repr

/-- Fields of the table and sequence class (10 R237, R238). -/
structure TabF where
  p : Pred
  nf : Bool := false
  img : Bool := false
  desc : Bool := false
  kw : Bool := false
  item : Nat := 0
  d : Nat := 0
  a : Nat := 0
  b : Nat := 0
  c : Nat := 0
  tbl : Nat := 0
  th : Nat := 0
  sr : Nat := 0
  xr : Nat := 0
  deriving DecidableEq, Repr

/-- Fields of the tile class (11 R267, R268). -/
structure TileF where
  p : Pred
  ord : Order := .rlx
  scp : Scope := .none
  sp : Bool := false
  x : Bool := false
  pat : Nat := 0
  d : Nat := 0
  a : Nat := 0
  b : Nat := 0
  c : Nat := 0
  imm : W32 := 0
  fn : Nat := 0
  deriving DecidableEq, Repr

/-- Fields of the engine class (12 R284, R285). -/
structure EngF where
  p : Pred
  acq : Bool := false
  rel : Bool := false
  scp : Scope := .none
  det : Bool := false
  x : Nat := 0
  d : Nat := 0
  a : Nat := 0
  b : Nat := 0
  c : Nat := 0
  imm : W32 := 0
  deriving DecidableEq, Repr

/-- Fields of the system class (16 R320). `long` marks a 12-byte `CINV.ALL` or `CWB.ALL`. -/
structure SysF where
  p : Pred
  act : Nat := 0
  kw : Bool := false
  long : Bool := false
  d : Nat := 0
  a : Nat := 0
  b : Nat := 0
  c : Nat := 0
  imm : W32 := 0
  deriving DecidableEq, Repr

/-- The parameters that another member of a communicator brings to a collective (21 R409). -/
structure CollParams where
  rank : Nat
  fn : Nat
  dt : Nat
  red : Nat
  count : Nat
  chunk : Nat
  det : Bool
  /-- CRC-64 of its member array -/
  crc : Nat
  /-- ROWLG of its receive sequence, of `ATOA` -/
  rowlg : Nat
  deriving DecidableEq, Repr

/-- What another member contributes to a chunk: its send bytes of the chunk; of an all-gather the part of the chunk that
its block covers (21 R411). -/
structure ChunkIn where
  rank : Nat
  chunk : Nat
  data : List Byte
  /-- EPOCH of its flits (21 R414) -/
  epoch : Nat := 0
  deriving DecidableEq, Repr

/-- A block of an all-to-all as it arrives, with the EPOCH of its flits (21 R414, R416). -/
structure BlockIn where
  data : List Byte
  epoch : Nat := 0
  deriving DecidableEq, Repr

/-- What another member shows in the final exchange (21 R413): its EPOCH, the chunks whose mark is 1, and whether it refused this member's block
(12 R297). -/
structure PeerMarks where
  rank : Nat
  epoch : Nat
  marks : List Nat
  refused : Bool := false
  deriving DecidableEq, Repr

/-- The digest of its edges and the marks that another member sends after a settling (21 R414). -/
structure PeerDigest where
  rank : Nat
  digest : Nat
  marks : List Nat
  deriving DecidableEq, Repr

/-- What a second-stage fault service acts on. -/
inductive FaultTarget
  | frag (warp frag : Nat)
  | command (id : Nat)
  /-- the read-duplicate page of a context's IPA, to which another device has written -/
  | page (ctx ipa : Nat)
  deriving DecidableEq, Repr

/-- What the SMC does (18 R366): it writes entries of the second stage, by their physical addresses; it collapses a
read-duplicate page onto its owner's copy, with free pages for the new tables (18 R373); it forwards, or kills. -/
inductive SmcAct
  | repair (entries : List (Nat × W64))
  /-- a write of this device to a read-duplicate page: free pages for the tables of the split -/
  | collapse (tables : Nat)
  /-- the same for a write of another device, which owns the page at this physical address -/
  | surrender (owner tables : Nat)
  | forward
  | kill
  deriving DecidableEq, Repr

/-- Where an uncorrectable error strikes (19 R374, R375): a 32-byte code word of memory, a granule of a scratchpad or pan
buffer, the index pages of a table, a granule of a warp's registers (class 0 V, 1 S, 2 M; a register in it; of a V
register the four lanes), a granule of a tile, the granule of a physical address as a cache of a block holds it (the L1 of
a core, an L2 slice), what a queue of a block holds under a number (a command or a request), or a granule of another array of
a block (a TLB). Blocks are numbered as in 23 R431. -/
inductive PoisonLoc
  | word (pa : Nat)
  | scratch (unit off : Nat)
  | index (ctx tbl : Nat)
  | reg (warp cls num lanes : Nat)
  | tile (node core tile granule : Nat)
  | line (block pa : Nat)
  | queue (block id : Nat)
  | array (block granule : Nat)
  deriving DecidableEq, Repr

/-- A link-state entry as it arrives (21 R402). -/
structure LinkEntry where
  ver : Nat
  up : Bool
  deva : Nat
  porta : Nat
  devb : Nat
  portb : Nat
  deriving DecidableEq, Repr

/-- What a request from another device asks for (21 R404, R406): accesses under an owner key slot of this device, and
operations on a shard that it holds. -/
inductive RemoteOp
  | read (pa n okey : Nat)
  | write (pa : Nat) (data : List Byte) (okey : Nat)
  | atomic (pa size op b c okey : Nat) (home : Option Nat)
  | lookup (ctx tbl key : Nat)
  | insert (ctx tbl key : Nat) (row : List Byte)
  | delete (ctx tbl key : Nat)
  deriving DecidableEq, Repr

/-- A request from another device: its source, its number, and what it asks for (21 R404). -/
structure RemoteReq where
  src : Nat
  num : Nat
  op : RemoteOp
  deriving DecidableEq, Repr

/-- What a request of the host asks for (21 R398, 17 R329, 23 R428). -/
inductive HostOp
  | read (va n : Nat)
  | write (va : Nat) (data : List Byte)
  | reserve (tbl n : Nat)
  | commit (tbl pos n : Nat)
  | smc (service arg : Nat)
  deriving DecidableEq, Repr

/-- A request of one of the host's queues, in a context (21 R398). -/
structure HostReq where
  queue : Nat
  ctx : Nat
  ord : Order
  op : HostOp
  deriving DecidableEq, Repr

/-- What the outside supplies to a reset (23 R425, R426): the images of the four stages, the physical stacks that fail to
train, the device's identifier, the world of the host attachment and of the blocks, whether stage 4 succeeds, and whether some Milrov port comes up in
stage 5. -/
structure BootInput where
  smcImage : List Byte
  images : List (List Byte)
  badStacks : List Nat
  devid : Nat
  hostSec : Bool
  worlds : List (Nat × Bool)
  stage4 : Bool
  links : Bool := false
  deriving DecidableEq, Repr

/-- The instructions and events of the opcode table, in its order. -/
inductive Instr
  /-- `PAD` (R47): Pad word; counts as an issue and advances the PCs of the active path by 4. -/
  | pad
  /-- `NOP` (R177): Advances the PCs of the active path by 8 with no other effect. -/
  | nop (p : Pred)
  /-- `BRA` (R166): Per-lane branch by predicate to the instruction address plus the displacement. -/
  | bra (p : Pred) (disp : BitVec 32)
  /-- `BRA_NZ` (R166): Warp-uniform branch taken if the named s register is non-zero. -/
  | braNz (p : Pred) (a : Nat) (disp : BitVec 32)
  /-- `BRA_Z` (R166): Warp-uniform branch taken if the named s register is zero. -/
  | braZ (p : Pred) (a : Nat) (disp : BitVec 32)
  /-- `BRX` (R167): Per-lane jump to the 32-bit target held in vA. -/
  | brx (p : Pred) (a : Nat)
  /-- `CALL` (R167): Per-lane call by displacement, writing the return address to vD. -/
  | call (p : Pred) (d : Nat) (disp : BitVec 32)
  /-- `CALLX` (R167): Per-lane call to the target in vA, writing the return address to vD. -/
  | callx (p : Pred) (d a : Nat)
  /-- `RET` (R167): Per-lane return to the address in vA; same effect as BRX. -/
  | ret (p : Pred) (a : Nat)
  /-- `EXIT` (R169): Makes each executing lane Exited, clears its mask bits and closes its cursors. -/
  | exit (p : Pred)
  /-- `JOIN` (R170): Sets the executing lanes' bits in mask mD. -/
  | join (p : Pred) (d : Nat)
  /-- `LEAVE` (R170): Clears the executing lanes' bits in mask mD. -/
  | leave (p : Pred) (d : Nat)
  /-- `WAITM` (R30): Makes each executing lane whose bit is set in mA wait until every member of the mask waits.
  -/
  | waitm (p : Pred) (a : Nat)
  /-- `BAR` (R171): Makes each executing lane wait at the barrier of group B. -/
  | bar (p : Pred) (g : Nat)
  /-- `ELECT` (R172): Writes mD with only the lowest executing lane's bit set. -/
  | elect (p : Pred) (d : Nat)
  /-- `YIELD` (R173): Stops the warp at a pre-emption point when PREQ.REQ is set, else acts as NOP. -/
  | yield (p : Pred)
  /-- `TRAP` (R174): Traps each executing lane with cause USER and the FN as subcode. -/
  | trap (p : Pred) (n : Nat)
  /-- `BKPT` (R174): Traps each executing lane with cause BKPT and the FN as subcode. -/
  | bkpt (p : Pred) (n : Nat)
  /-- `URET_RETRY` (R175): Returns each handler lane to UEPC. -/
  | uretRetry (p : Pred)
  /-- `URET_SKIP` (R175): Returns each handler lane to UEPC plus the length of the instruction there. -/
  | uretSkip (p : Pred)
  /-- `TRMP` (R176): Trampoline: writes the return address to v239 and transfers each executing lane. -/
  | trmp (p : Pred) (slot : Nat) (disp : BitVec 32)
  /-- `IADD_8` (R181): Integer add with wrap or saturation, register form. -/
  | iadd8 (f : IntF)
  /-- `IADD_12` (R181): Integer add with wrap or saturation, immediate form. -/
  | iadd12 (f : IntF)
  /-- `ISUB_8` (R181): Integer subtract, register form. -/
  | isub8 (f : IntF)
  /-- `ISUB_12` (R181): Integer subtract, immediate form. -/
  | isub12 (f : IntF)
  /-- `IMUL_8` (R181): Integer multiply, register form. -/
  | imul8 (f : IntF)
  /-- `IMUL_12` (R181): Integer multiply, immediate form. -/
  | imul12 (f : IntF)
  /-- `IMULH_8` (R182): High half of the exact product, register form. -/
  | imulh8 (f : IntF)
  /-- `IMULH_12` (R182): High half of the exact product, immediate form. -/
  | imulh12 (f : IntF)
  /-- `IMAD` (R181): Integer multiply-add of A, B and C. -/
  | imad (f : IntF)
  /-- `IDIV_8` (R182): Truncating integer quotient, register form. -/
  | idiv8 (f : IntF)
  /-- `IDIV_12` (R182): Truncating integer quotient, immediate form. -/
  | idiv12 (f : IntF)
  /-- `IDIV_REM_8` (R182): Integer remainder, register form. -/
  | idivRem8 (f : IntF)
  /-- `IDIV_REM_12` (R182): Integer remainder, immediate form. -/
  | idivRem12 (f : IntF)
  /-- `IMIN_8` (R183): Lesser operand, register form. -/
  | imin8 (f : IntF)
  /-- `IMIN_12` (R183): Lesser operand, immediate form. -/
  | imin12 (f : IntF)
  /-- `IMAX_8` (R183): Greater operand, register form. -/
  | imax8 (f : IntF)
  /-- `IMAX_12` (R183): Greater operand, immediate form. -/
  | imax12 (f : IntF)
  /-- `IABS` (R183): Absolute value, optionally saturating. -/
  | iabs (f : IntF)
  /-- `SHL_8` (R184): Left shift, register count. -/
  | shl8 (f : IntF)
  /-- `SHL_12` (R184): Left shift, immediate count. -/
  | shl12 (f : IntF)
  /-- `SHR_8` (R184): Logical right shift, register count. -/
  | shr8 (f : IntF)
  /-- `SHR_12` (R184): Logical right shift, immediate count. -/
  | shr12 (f : IntF)
  /-- `SHR_SX_8` (R184): Arithmetic right shift, register count. -/
  | shrSx8 (f : IntF)
  /-- `SHR_SX_12` (R184): Arithmetic right shift, immediate count. -/
  | shrSx12 (f : IntF)
  /-- `ROT_8` (R184): Left rotate, register count. -/
  | rot8 (f : IntF)
  /-- `ROT_12` (R184): Left rotate, immediate count. -/
  | rot12 (f : IntF)
  /-- `BOOL_8` (R185): Bitwise function of A and B chosen by FN, register form. -/
  | bool8 (f : IntF)
  /-- `BOOL_12` (R185): Bitwise function of A and an immediate chosen by FN. -/
  | bool12 (f : IntF)
  /-- `BOOL_16` (R185): Three-input bitwise function of A, B and C chosen by FN. -/
  | bool16 (f : IntF)
  /-- `POPC` (R186): Population count of A. -/
  | popc (f : IntF)
  /-- `CLZ` (R186): Leading zero count of A. -/
  | clz (f : IntF)
  /-- `BREV` (R186): Bit reversal of A. -/
  | brev (f : IntF)
  /-- `BFX_8` (R186): Bit-field extract, register position and length. -/
  | bfx8 (f : IntF)
  /-- `BFX_12` (R186): Bit-field extract, immediate position and length. -/
  | bfx12 (f : IntF)
  /-- `BFI` (R186): Bit-field insert of A into C. -/
  | bfi (f : IntF)
  /-- `ICMP_8` (R187): Integer compare into a mask or s register, register form. -/
  | icmp8 (f : IntF)
  /-- `ICMP_12` (R187): Integer compare into a mask or s register, immediate form. -/
  | icmp12 (f : IntF)
  /-- `SEL` (R187): Selects A or B per lane by the predicate. -/
  | sel (f : IntF)
  /-- `MOV` (R188): Register move. -/
  | mov (f : IntF)
  /-- `MOVI` (R188): Move of a 32-bit immediate. -/
  | movi (f : IntF)
  /-- `MOVS` (R188): Broadcasts an s register into a v register. -/
  | movs (f : IntF)
  /-- `MOVS_FIRST` (R188): Copies the lowest executing lane's value into an s register. -/
  | movsFirst (f : IntF)
  /-- `MSK_AND` (R188): Mask AND. -/
  | mskAnd (f : IntF)
  /-- `MSK_OR` (R188): Mask OR. -/
  | mskOr (f : IntF)
  /-- `MSK_XOR` (R188): Mask XOR. -/
  | mskXor (f : IntF)
  /-- `MSK_ANDN` (R188): Mask AND NOT. -/
  | mskAndn (f : IntF)
  /-- `MSK_NOT` (R188): Mask complement. -/
  | mskNot (f : IntF)
  /-- `MSK_FROMS` (R188): Mask from the low bits of an s register. -/
  | mskFroms (f : IntF)
  /-- `MSK_TOS` (R188): Mask copied into an s register. -/
  | mskTos (f : IntF)
  /-- `MSK_PATH` (R188): Mask of the executing lanes. -/
  | mskPath (f : IntF)
  /-- `MPOP` (R189): Each lane's rank among the members of mA. -/
  | mpop (f : IntF)
  /-- `MPOP_TOT` (R189): Number of set bits of mA in every executing lane. -/
  | mpopTot (f : IntF)
  /-- `SHFL_IDX_8` (R191): Lane exchange from an indexed source lane, register operand. -/
  | shflIdx8 (f : IntF)
  /-- `SHFL_IDX_12` (R191): Lane exchange from an indexed source lane, immediate operand. -/
  | shflIdx12 (f : IntF)
  /-- `SHFL_UP_8` (R191): Lane exchange from a lower lane, register operand. -/
  | shflUp8 (f : IntF)
  /-- `SHFL_UP_12` (R191): Lane exchange from a lower lane, immediate operand. -/
  | shflUp12 (f : IntF)
  /-- `SHFL_DOWN_8` (R191): Lane exchange from a higher lane, register operand. -/
  | shflDown8 (f : IntF)
  /-- `SHFL_DOWN_12` (R191): Lane exchange from a higher lane, immediate operand. -/
  | shflDown12 (f : IntF)
  /-- `SHFL_XOR_8` (R191): Lane exchange by XOR of the lane number, register operand. -/
  | shflXor8 (f : IntF)
  /-- `SHFL_XOR_12` (R191): Lane exchange by XOR of the lane number, immediate operand. -/
  | shflXor12 (f : IntF)
  /-- `VOTE_ALL` (R192): 1 if every executing lane has A non-zero. -/
  | voteAll (f : IntF)
  /-- `VOTE_ANY` (R192): 1 if some executing lane has A non-zero. -/
  | voteAny (f : IntF)
  /-- `VOTE_EQ` (R192): 1 if every executing lane holds the same A. -/
  | voteEq (f : IntF)
  /-- `VOTE_BALLOT` (R192): Mask of executing lanes with A non-zero. -/
  | voteBallot (f : IntF)
  /-- `MATCH_ANY` (R193): Mask of executing lanes whose A equals this lane's A. -/
  | matchAny (f : IntF)
  /-- `MATCH_ALL` (R193): Mask of all executing lanes if all hold the same A, else 0. -/
  | matchAll (f : IntF)
  /-- `REDW` (R194): Warp reduction of A over the executing lanes, operator chosen by FN. -/
  | redw (f : IntF)
  /-- `CSRR` (R195): Reads a CSR into D. -/
  | csrr (f : CsrF)
  /-- `CSRW` (R195): Writes a CSR from A. -/
  | csrw (f : CsrF)
  /-- `CSRW_SET` (R195): ORs A into a CSR. -/
  | csrwSet (f : CsrF)
  /-- `CSRW_CLR` (R195): Clears the bits of A in a CSR. -/
  | csrwClr (f : CsrF)
  /-- `PARKCEIL_WRITE` (R312): Write of PARKCEIL, clamped to 64 to 16,777,216 core cycles. -/
  | parkceilWrite (f : CsrF)
  /-- `FADD_8` (R203): FP32 add, register form. -/
  | fadd8 (f : FpF)
  /-- `FADD_12` (R203): FP32 add, immediate form. -/
  | fadd12 (f : FpF)
  /-- `FMUL_8` (R203): FP32 multiply, register form. -/
  | fmul8 (f : FpF)
  /-- `FMUL_12` (R203): FP32 multiply, immediate form. -/
  | fmul12 (f : FpF)
  /-- `FFMA` (R203): FP32 fused multiply-add with one rounding. -/
  | ffma (f : FpF)
  /-- `FMIN_8` (R204): FP32 minimum, register form. -/
  | fmin8 (f : FpF)
  /-- `FMIN_12` (R204): FP32 minimum, immediate form. -/
  | fmin12 (f : FpF)
  /-- `FMAX_8` (R204): FP32 maximum, register form. -/
  | fmax8 (f : FpF)
  /-- `FMAX_12` (R204): FP32 maximum, immediate form. -/
  | fmax12 (f : FpF)
  /-- `FCMP_8` (R205): FP32 compare into a mask or s register, register form. -/
  | fcmp8 (f : FpF)
  /-- `FCMP_12` (R205): FP32 compare, immediate form. -/
  | fcmp12 (f : FpF)
  /-- `FCLASS` (R206): Writes the one-hot class mask of A. -/
  | fclass (f : FpF)
  /-- `FCVT_SCALAR` (R210): Per-lane conversion between element formats. -/
  | fcvtScalar (f : FpF)
  /-- `FCVT_BLOCK` (R211): Narrows the executing lanes' values as one block under a format word and record. -/
  | fcvtBlock (f : FpF)
  /-- `FRND` (R207): Rounds A to an integral FP32 value. -/
  | frnd (f : FpF)
  /-- `FRCP` (R212): Correctly rounded reciprocal. -/
  | frcp (f : FpF)
  /-- `FSQRT` (R212): Correctly rounded square root. -/
  | fsqrt (f : FpF)
  /-- `FRSQ` (R213): Reciprocal square root within 2 ulp. -/
  | frsq (f : FpF)
  /-- `FEX2` (R213): Base-2 exponential. -/
  | fex2 (f : FpF)
  /-- `FLG2` (R213): Base-2 logarithm. -/
  | flg2 (f : FpF)
  /-- `FSIN` (R213): Sine. -/
  | fsin (f : FpF)
  /-- `FCOS` (R213): Cosine. -/
  | fcos (f : FpF)
  /-- `FTANH` (R213): Hyperbolic tangent. -/
  | ftanh (f : FpF)
  /-- `PFMA` (R208): Packed 16-bit fused multiply-add on both halves. -/
  | pfma (f : FpF)
  /-- `AMRG` (R214): Merges two attention triples, optionally normalising with FIN. -/
  | amrg (f : FpF)
  /-- `LD_8` (R220): Load with register displacement. -/
  | ld8 (f : MemF)
  /-- `LD_12` (R220): Load with immediate displacement. -/
  | ld12 (f : MemF)
  /-- `ST_8` (R220): Store with register displacement, held under the strike hold. -/
  | st8 (f : MemF)
  /-- `ST_12` (R220): Store with immediate displacement. -/
  | st12 (f : MemF)
  /-- `LDS_8` (R222): Scratchpad load, optionally waiting on or consuming a full/empty bit, register offset. -/
  | lds8 (f : MemF)
  /-- `LDS_12` (R222): Scratchpad load, immediate offset. -/
  | lds12 (f : MemF)
  /-- `STS_8` (R222): Scratchpad store, optionally setting the full/empty bit, register offset. -/
  | sts8 (f : MemF)
  /-- `STS_12` (R222): Scratchpad store, immediate offset. -/
  | sts12 (f : MemF)
  /-- `FEM_SET_8` (R225): Sets a granule's full/empty bit as a CORE release, register offset. -/
  | femSet8 (f : MemF)
  /-- `FEM_SET_12` (R225): Sets a granule's full/empty bit, immediate offset. -/
  | femSet12 (f : MemF)
  /-- `FEM_CLR_8` (R225): Clears a granule's full/empty bit, register offset. -/
  | femClr8 (f : MemF)
  /-- `FEM_CLR_12` (R225): Clears a granule's full/empty bit, immediate offset. -/
  | femClr12 (f : MemF)
  /-- `FEM_TEST_8` (R225): Reads a granule's full/empty bit into vD, register offset. -/
  | femTest8 (f : MemF)
  /-- `FEM_TEST_12` (R225): Reads a granule's full/empty bit, immediate offset. -/
  | femTest12 (f : MemF)
  /-- `LDG` (R226): Divergent gather that lets lanes whose data arrive first run ahead. -/
  | ldg (f : MemF)
  /-- `SCT` (R228): Scatter store that picks one winner per coinciding address. -/
  | sct (f : MemF)
  /-- `PREF_8` (R229): Prefetch hint, register displacement. -/
  | pref8 (f : MemF)
  /-- `PREF_12` (R229): Prefetch hint, immediate displacement. -/
  | pref12 (f : MemF)
  /-- `FENCE` (R230): Orders the lane's accesses at a scope, draining held stores for release orders. -/
  | fence (f : MemF)
  /-- `ATOM` (R232): Read-modify-write at the atomic service warp returning the old value. -/
  | atom (f : MemF)
  /-- `ATOM_CAS` (R232): Compare-and-swap at the atomic service warp. -/
  | atomCas (f : MemF)
  /-- `RED_8` (R232): Reduction at the atomic service warp with no result, register operand. -/
  | red8 (f : MemF)
  /-- `RED_12` (R232): Reduction with an immediate operand. -/
  | red12 (f : MemF)
  /-- `POLL` (R234): Makes each lane wait until a location equals or differs from a reference. -/
  | poll (f : MemF)
  /-- `TINFO` (R242): Reads a descriptor item or system information item. -/
  | tinfo (f : TabF)
  /-- `KGET` (R243): Looks up a key and returns the row address and status. -/
  | kget (f : TabF)
  /-- `KINS` (R244): Inserts a row in the lowest free slot. -/
  | kins (f : TabF)
  /-- `KDEL` (R245): Removes an index entry, leaving the slot dead. -/
  | kdel (f : TabF)
  /-- `KSEEK` (R248): Opens a cursor on an ordered table. -/
  | kseek (f : TabF)
  /-- `KNEXT` (R249): Steps an ascending cursor. -/
  | knext (f : TabF)
  /-- `KPREV` (R249): Steps a descending cursor. -/
  | kprev (f : TabF)
  /-- `KCLOSE` (R250): Closes a cursor and frees its record. -/
  | kclose (f : TabF)
  /-- `KPFX` (R251): Finds the longest stored prefix of a token query. -/
  | kpfx (f : TabF)
  /-- `KPFXI` (R252): Inserts a prefix entry. -/
  | kpfxi (f : TabF)
  /-- `KRECL` (R246): Reclaims every dead slot of a table. -/
  | krecl (f : TabF)
  /-- `SQRES` (R253): Reserves n positions of a sequence. -/
  | sqres (f : TabF)
  /-- `SQCMT` (R254): Marks a range of reserved positions committed. -/
  | sqcmt (f : TabF)
  /-- `SQABN` (R254): Marks a range of reserved positions void. -/
  | sqabn (f : TabF)
  /-- `SQLEN` (R255): Reads the committed length as an acquire. -/
  | sqlen (f : TabF)
  /-- `SQWAIT` (R255): Waits until the committed length reaches a target. -/
  | sqwait (f : TabF)
  /-- `SQFORK` (R256): Forks a source sequence at p into an empty destination. -/
  | sqfork (f : TabF)
  /-- `SQDROP` (R256): Releases a sequence's blocks. -/
  | sqdrop (f : TabF)
  /-- `SQLOC` (R257): Translates a position to an address and status. -/
  | sqloc (f : TabF)
  /-- `TCFG_8` (R262): Writes a tile shape from an s register. -/
  | tcfg8 (f : TileF)
  /-- `TCFG_12` (R262): Writes a tile shape from an immediate. -/
  | tcfg12 (f : TileF)
  /-- `TRDC` (R263): Reads a tile shape into vD. -/
  | trdc (f : TileF)
  /-- `TLD` (R269): Loads tile rows from memory or scratchpad. -/
  | tld (f : TileF)
  /-- `TST` (R269): Stores tile rows to memory or scratchpad. -/
  | tst (f : TileF)
  /-- `TZERO` (R270): Zeroes a tile. -/
  | tzero (f : TileF)
  /-- `TMOV` (R270): Copies or transposes a tile. -/
  | tmov (f : TileF)
  /-- `MMA` (R273): Dense matrix product on the matrix array. -/
  | mma (f : TileF)
  /-- `MMAS` (R274): Structured-sparse matrix product on the matrix array. -/
  | mmas (f : TileF)
  /-- `TCOMP` (R276): Compresses tile rows into kept values and metadata. -/
  | tcomp (f : TileF)
  /-- `TQNT` (R277): Narrows a tile under a format word and record. -/
  | tqnt (f : TileF)
  /-- `TDQ` (R278): Widens a tile with row and column scales. -/
  | tdq (f : TileF)
  /-- `TRED` (R279): Reduces each row of an FP32 tile by sum, max, min or sum of squares. -/
  | tred (f : TileF)
  /-- `TSCL` (R280): Scales and offsets an FP32 tile by row or column vectors. -/
  | tscl (f : TileF)
  /-- `VTOPK` (R282): Top-k selection over each row of a tile. -/
  | vtopk (f : TileF)
  /-- `VTOPK_LN` (R282): Top-k ranking over the lanes of the active path. -/
  | vtopkLn (f : TileF)
  /-- `CPY` (R289): Issues a copy command between memory and scratchpad. -/
  | cpy (f : EngF)
  /-- `CWAIT` (R290): Makes each lane wait until a completion word is non-zero. -/
  | cwait (f : EngF)
  /-- `DEC` (R292): Issues a Huffman decode command into the scratchpad. -/
  | dec (f : EngF)
  /-- `DTLD` (R291): Installs a Huffman code table in the next generation slot. -/
  | dtld (f : EngF)
  /-- `GPOOL` (R293): Issues a weighted gather over a hashed table. -/
  | gpool (f : EngF)
  /-- `ATTN` (R294): Issues decode attention over a key-value sequence to the pan units. -/
  | attn (f : EngF)
  /-- `COLL_ALLRED` (R296): Issues an all-reduce to Sluice. -/
  | collAllred (f : EngF)
  /-- `COLL_REDSC` (R296): Issues a reduce-scatter to Sluice. -/
  | collRedsc (f : EngF)
  /-- `COLL_ALLGATH` (R296): Issues an all-gather to Sluice. -/
  | collAllgath (f : EngF)
  /-- `COLL_ATOA` (R416): Issues an all-to-all into receive sequences. -/
  | collAtoa (f : EngF)
  /-- `EFORK` (R38): Starts the named engine sequencers together. -/
  | efork (f : EngF)
  /-- `ERDV` (R40): Rendezvous of the forking warp with its sequencers. -/
  | erdv (f : EngF)
  /-- `TFORK` (R301): Pushes one task per lane onto the core's deque. -/
  | tfork (f : EngF)
  /-- `TJOIN` (R302): Waits until a task counter reads 0. -/
  | tjoin (f : EngF)
  /-- `RBEG` (R303): Opens a redundant region and takes a checkpoint. -/
  | rbeg (f : EngF)
  /-- `RCHK` (R303): Compares signatures of both copies and checkpoints or rolls back. -/
  | rchk (f : EngF)
  /-- `REND` (R303): As RCHK, then closes the redundant region. -/
  | rend (f : EngF)
  /-- `ERET_RETRY` (R321): Resolves a held record, resuming its fragment at EPC. -/
  | eretRetry (f : SysF)
  /-- `ERET_SKIP` (R321): Resolves a held record, resuming its fragment after EPC. -/
  | eretSkip (f : SysF)
  /-- `ERET_KILL` (R321): Resolves a held record by killing the node. -/
  | eretKill (f : SysF)
  /-- `TLBI_CTX` (R323): Removes all first-stage translations of the context. -/
  | tlbiCtx (f : SysF)
  /-- `TLBI_TBL` (R323): Removes all first-stage translations of one table. -/
  | tlbiTbl (f : SysF)
  /-- `TLBI_VA` (R323): Removes the translation of one page. -/
  | tlbiVa (f : SysF)
  /-- `TLBI_S2` (R323): Removes all second-stage translations of the context. -/
  | tlbiS2 (f : SysF)
  /-- `GCALL` (R326): Escalates the executing lanes as a held fragment to the guest. -/
  | gcall (f : SysF)
  /-- `CINV_LINE_8` (R324): Writes back and invalidates one line, register displacement. -/
  | cinvLine8 (f : SysF)
  /-- `CINV_LINE_12` (R324): Writes back and invalidates one line, immediate displacement. -/
  | cinvLine12 (f : SysF)
  /-- `CINV_ALL` (R324): Writes back and invalidates every line of the context. -/
  | cinvAll (f : SysF)
  /-- `CWB_LINE_8` (R324): Writes back one line, register displacement. -/
  | cwbLine8 (f : SysF)
  /-- `CWB_LINE_12` (R324): Writes back one line, immediate displacement. -/
  | cwbLine12 (f : SysF)
  /-- `CWB_ALL` (R324): Writes back every line of the context. -/
  | cwbAll (f : SysF)
  /-- `CTXS` (R322): Asks Saltern to force-save a named node into an area. -/
  | ctxs (f : SysF)
  /-- `CTXL` (R322): Asks Saltern to resume a node from a saved area. -/
  | ctxl (f : SysF)
  /-- `KMIG` (R327): Moves a row of a sharded hashed table to another shard. -/
  | kmig (f : SysF)
  /-- `INJ` (R328): Arms one bit flip in a copy of a redundant warp. -/
  | inj (f : SysF)
  /-- `SMCALL` (R320, R428): the words of every SMC service; the service number is an operand. -/
  | smcall (f : SysF)
  /-- `VERSION` (R428): SMC service returning the accepted SMC image's SVN. -/
  | version (f : SysF)
  /-- `CTXCREATE` (R428): SMC service installing a translation base record as a new context. -/
  | ctxcreate (f : SysF)
  /-- `CTXDESTROY` (R428): SMC service killing a context's nodes and retiring its key. -/
  | ctxdestroy (f : SysF)
  /-- `KEYRETIRE` (R422): SMC service writing back lines of a key slot and regenerating it. -/
  | keyretire (f : SysF)
  /-- `ECCCOUNT` (R428): SMC service returning a block's ECC counts. -/
  | ecccount (f : SysF)
  /-- `LOOKUPS` (R432): SMC service writing a shard's lookup counts. -/
  | lookups (f : SysF)
  /-- `SETGET` (R427): SMC service reading a hub setting. -/
  | setget (f : SysF)
  /-- `SETPUT` (R427): SMC service writing a hub setting. -/
  | setput (f : SysF)
  /-- `ATTEST` (R429): SMC service writing a signed attestation report. -/
  | attest (f : SysF)
  /-- `ATTKEY` (R429): SMC service writing the attestation key and its endorsement. -/
  | attkey (f : SysF)
  /-- `POWERCAP` (R433): SMC service setting the package power cap. -/
  | powercap (f : SysF)
  /-- `THERMAL` (R428): SMC service returning temperature and throttle state. -/
  | thermal (f : SysF)
  /-- `LAUNCH_ACCEPT` (R329): Saltern acquires a committed submission position and accepts or rejects the
  launch. -/
  | launchAccept (ctx : Nat)
  /-- `RESOURCE_REPORT` (R335): A die reports its free counts to Saltern. -/
  | resourceReport (die : Nat)
  /-- `NODE_DISPATCH` (R336): Saltern dispatches the head or a backfill entry of the ready pool in a hub cycle.
  -/
  | nodeDispatch (backfill : Bool)
  /-- `STARVE_PROMOTION` (R336): A node that has waited STARVE hub cycles rises one level. -/
  | starvePromotion (n : Nat)
  /-- `HEAD_BLOCKED` (R336): The head blocks after STARVE cycles at level 7 and pre-empts the holders of its
  placement. -/
  | headBlocked
  /-- `NODE_RETIRE` (R44): A node whose warps, tasks, commands and forks are all finished retires and completes
  done. -/
  | nodeRetire (n : Nat)
  /-- `TASK_START` (R36): A core with an empty slot pops or steals a task and starts it as a warp. -/
  | taskStart (core : Nat)
  /-- `TASK_STEAL_RETRY` (R36): After 64 core cycles a core probes the deques again. -/
  | taskStealRetry (core : Nat)
  /-- `HELD_STORE_RELEASE` (R137): A store or atomic request leaves its core after 512 core cycles of hold. -/
  | heldStoreRelease (id : Nat)
  /-- `ATOMIC_SERVICE` (R119): The owning atomic service warp performs an arriving atomic request. -/
  | atomicService (agent : Nat)
  /-- `ATOMIC_RESULT_RETURN` (R231): An atomic result leaves the service warp after its hold and is written to
  D. -/
  | atomicResultReturn (id : Nat)
  /-- `HOME_MOVE` (R371): The SMC moves a page's atomic home to another agent. -/
  | homeMove (page : Nat) (agent : Nat)
  /-- `RAKE_OPERATION` (R145): The home rake unit linearizes an arriving table or sequence request. -/
  | rakeOperation (id : Nat)
  /-- `TABLE_REPLY` (R240): A rake unit's reply writes the pending registers and resumes suspended fetch. -/
  | tableReply (id : Nat)
  /-- `FULL_EMPTY_LOAD_SERVE` (R224): A pending LDS.FW or LDS.FC is served when its granule's bit is set. -/
  | fullEmptyLoadServe (unit : Nat) (granule : Nat)
  /-- `POLL_REREAD` (R341): A waiting POLL lane re-reads its location when its interval expires. -/
  | pollReread (r : Nat) (lane : Nat)
  /-- `SQWAIT_RELEASE` (R255): A SQWAIT lane is released when the committed length reaches its target. -/
  | sqwaitRelease (r : Nat) (lane : Nat)
  /-- `CWAIT_RELEASE` (R290): A CWAIT lane is released when its completion word becomes non-zero. -/
  | cwaitRelease (r : Nat) (lane : Nat)
  /-- `TJOIN_RELEASE` (R302): A TJOIN lane is released when its counter reads 0. -/
  | tjoinRelease (r : Nat) (lane : Nat)
  /-- `LDG_LATE_ARRIVAL` (R226): A late LDG fragment's data arrive and its lanes run on. -/
  | ldgLateArrival (r : Nat) (frag : Nat)
  /-- `CAST_DELIVERY` (R43): A cast value is accepted by a consumer once its cast-full bit is clear. -/
  | castDelivery (id : Nat)
  /-- `ERDV_RENDEZVOUS` (R40): The forking warp and every sequencer have reached ERDV and are released. -/
  | erdvRendezvous (r : Nat)
  /-- `CPY_COMPLETE` (R289): A copy command finishes and writes its completion word. -/
  | cpyComplete (id : Nat)
  /-- `DEC_COMPLETE` (R292): A decode command finishes and writes its completion word. -/
  | decComplete (id : Nat)
  /-- `GPOOL_COMPLETE` (R293): A weighted gather finishes, writing its result and completion word. -/
  | gpoolComplete (id : Nat)
  /-- `ATTN_COMPLETE` (R295): The pan units write the attention records and the completion word. -/
  | attnComplete (id : Nat)
  /-- `COLL_START` (R297): Sluice compares parameters across members and starts the chunks. -/
  | collStart (id : Nat) (peers : List CollParams)
  /-- `ATOA_BLOCK_DELIVERY` (R416): Sluice reserves, writes and commits an arriving all-to-all block. -/
  | atoaBlockDelivery (id : Nat) (src : Nat) (block : BlockIn)
  /-- `COLL_COMPLETE` (R413): The final exchange shows every mark set and each member writes its completion
  word. -/
  | collComplete (id : Nat) (chunks : List ChunkIn) (peers : List PeerMarks)
  /-- `TREE_RECOMPUTE` (R414): With identical digests from all members, Sluice adopts a new tree set and
  restarts unmarked chunks. -/
  | treeRecompute (id : Nat) (peers : List PeerDigest)
  /-- `PARK_RETRY` (R361): A parked fragment's retry timer expires and its lanes reissue the faulting
  instruction. -/
  | parkRetry (r : Nat) (frag : Nat)
  /-- `COMMAND_FAULT_RETRY` (R362): A faulting engine command retries on its timer. -/
  | commandFaultRetry (id : Nat)
  /-- `SMC_FAULT_SERVICE` (R366): The SMC repairs, forwards or kills on a second-stage fault or RD write. -/
  | smcFaultService (t : FaultTarget) (act : SmcAct)
  /-- `PAGE_MOVE` (R372): System software or the SMC moves a page to a new PA. -/
  | pageMove (ctx : Nat) (ipa : Nat) (pa : Nat)
  /-- `PREEMPT_REQUEST` (R342): A pre-emption request reaches a core, setting PREQ and loading PDLEFT. -/
  | preemptRequest (n : Nat) (area : Option Nat)
  /-- `FORCED_STOP` (R343): PDLEFT reaches 0 and the core stops every remaining warp of the node. -/
  | forcedStop (unit : Nat)
  /-- `SUMP_SAVE` (R344): The sump engine saves a stopped node's state into its save area. -/
  | sumpSave (n : Nat)
  /-- `SAVE_COMMIT` (R344): Every core has written its part; the save commits and resources are freed. -/
  | saveCommit (n : Nat)
  /-- `NODE_RESUME` (R345): A saved node is restored, its commands reissued and its warps restarted. -/
  | nodeResume (n : Nat)
  /-- `NODE_MOVE` (R346): A saved node's partition is copied to a new core set. -/
  | nodeMove (node : Nat) (place : List (Nat × Nat)) (mates : List (Nat × List (Nat × Nat)))
  /-- `WATCHDOG_EXPIRY` (R348): A unit's idle count reaches WDLIM and reports expired. -/
  | watchdogExpiry (unit : Nat) (ctx : Nat)
  /-- `EXTWAIT_EXPIRY` (R349): A unit's external-wait count reaches EXTLIM. -/
  | extwaitExpiry (unit : Nat) (ctx : Nat)
  /-- `CHECKPOINT` (R377): A core or pan unit takes a checkpoint every 512 cycles. -/
  | checkpoint (zone : Nat)
  /-- `STRIKE_REPORT` (R378): A zone receives a strike report and rolls back to its older checkpoint. -/
  | strikeReport (zone : Nat)
  /-- `UNCORRECTABLE_ERROR` (R375): An uncorrectable ECC error poisons a granule or code word. -/
  | uncorrectableError (loc : PoisonLoc)
  /-- `LINK_UP` (R401): A Milrov port completes training and an update is originated. -/
  | linkUp (port : Nat) (dev : Nat) (peerPort : Nat)
  /-- `LINK_RETRANSMIT_FAIL` (R401): A flit fails 16 retransmissions and the port goes down. -/
  | linkRetransmitFail (port : Nat)
  /-- `LINK_IDLE_TIMEOUT` (R401): No flit arrives for 65,536 hub cycles and the port goes down. -/
  | linkIdleTimeout (port : Nat)
  /-- `IDLE_FLIT` (R401): A port sends an idle flit at least every 512 hub cycles. -/
  | idleFlit (port : Nat)
  /-- `LINK_STATE_UPDATE` (R403): A device receives a link-state update, applying and forwarding it if newer. -/
  | linkStateUpdate (port : Nat) (e : LinkEntry)
  /-- `DRAIN_ROUND` (R403): A period of 16,384 hub cycles without an application raises the drain counter. -/
  | drainRound
  /-- `REMOTE_REQUEST` (R404): A numbered request from another device is performed in number order. -/
  | remoteRequest (q : RemoteReq)
  /-- `HOST_REQUEST` (R398): A host request is translated and performed. -/
  | hostRequest (q : HostReq)
  /-- `INTERRUPT_MESSAGE` (R400): The device sends an interrupt message after a commit is performed for the
  host. -/
  | interruptMessage (ctx : Nat) (vector : Nat)
  /-- `RUN_REASSIGN` (R423): An idle scratchpad run changes owner and is zero-filled. -/
  | runReassign (unit : Nat) (run : Nat) (owner : Option Nat)
  /-- `RESET` (R426): The SMC brings the device up through its boot stages. -/
  | reset (b : BootInput)
  /-- `THROTTLE_CHANGE` (R433): The SMC lowers or raises clocks on a temperature or power change. -/
  | throttleChange (st : Nat) (temp : Nat)
  /-- `THERMAL_TRIP` (R433): At 115 °C the SMC removes power from the package. -/
  | thermalTrip (temp : Nat)
  /-- `TILE_INSTRUCTION_COMPLETE` (R98): A tile instruction handed to the matrix or vector engine completes,
  writing its destination tile and ORing its flags into the elected lane's FFLAGS. -/
  | tileInstructionComplete (id : Nat)
  /-- `ENGINE_COMMAND_START` (R286): An engine command leaves the core's command queue in issue order and starts
  at its engine, performing its ACQ acquire and, for ATTN, its read of C and of the queries. -/
  | engineCommandStart (unit : Nat)
  /-- `PORT_TAKEN_DOWN` (R401): The SMC takes a Milrov port down and an update is originated. -/
  | portTakenDown (port : Nat)
  deriving DecidableEq, Repr

end Sys2Proof
end

