-- ==== Sys2Proof/Machine/State.lean ====
section
/-! DEFINITION. The state of the device, as plain data, and the state right after reset.
Objects that come and go (contexts, launches, nodes, warps, requests, commands) stand in maps under numbers that
the model gives out (`nextId`). A compute core is unit `die * 96 + cluster * 8 + core` (0–767), a pan unit is unit
`768 + stack * 16 + number` (768–895). -/

namespace Sys2Proof.Machine

/-! ### Lanes, fragments and warps -/

/-- The five lane states (01 R24). -/
inductive LaneSt | running | waiting | parked | exited | never
  deriving DecidableEq, Repr

/-- What a Waiting lane waits for (01 R24, 16 R318, R319). -/
inductive Wait
  | none
  | mask (m : Nat)
  | bar (g : Nat)
  | poll (va ref size : Nat) (eq : Bool) (d : Nat) (acq : Bool) (yh : Bool) (ival due : Nat)
  | cwait (va d : Nat)
  | sqwait (tbl target d : Nat)
  | tjoin (va : Nat)
  deriving DecidableEq, Repr

/-- One lane of a warp. -/
structure Lane where
  st : LaneSt := .running
  pc : Nat := 0
  age : Nat := 0
  frag : Nat := 0
  inHandler : Bool := false
  ucause : Nat := 0
  uepc : W32 := 0
  fflags : Nat := 0
  wait : Wait := .none
  deriving DecidableEq, Repr

/-- A fault of an access (18 R359, R363): code, level of the walk, kind of access (0 read, 1 write, 2 fetch, 3 atomic or
table), address, the page the failing step concerns (base and size, as a number of bytes), and the IPA at fault. -/
structure FaultInfo where
  code : Nat
  level : Nat
  kind : Nat
  va : Nat
  page : Nat
  pageSize : Nat
  ipa : Nat := 0
  /-- no route leads to the device that holds the address (21 R404) -/
  noRoute : Bool := false
  deriving DecidableEq, Repr

/-- A record in a trap sequence: the table (8 or 9) and its position (16 R314). -/
structure RecRef where
  tbl : Nat
  pos : Nat
  deriving DecidableEq, Repr

/-- The timed retry of a parked fragment or of a stalled command (18 R361, R362). -/
structure Park where
  d : Nat
  due : Nat
  fault : FaultInfo
  /-- faulting byte address of each parked lane -/
  vas : List (Nat × Nat) := []
  open_ : Option RecRef := none
  deriving DecidableEq, Repr

/-- An escalation: what the record carries (16 R315), and whether it is appended yet. -/
structure Escalation where
  cause : Nat
  sub : Nat
  epc : Nat
  dbl : Bool
  gcallD : Option Nat
  args : List (Nat × Nat)
  ref : Option RecRef
  /-- the timer of an escalation that waits for room in the sequence -/
  d : Nat := 64
  due : Nat := 0
  deriving DecidableEq, Repr

/-- The load that the late lanes of an `LDG` wait for (09 R226): the rejoin mask, the destination, the size, the
extension, and each lane's address. -/
structure LateLoad where
  mask : Nat
  d : Nat
  size : Nat
  sx : Bool
  vas : List (Nat × Nat)
  /-- when the data arrive at the latest -/
  due : Nat
  deriving DecidableEq, Repr

/-- A fragment other than the root (01 R32). -/
structure Frag where
  id : Nat
  parent : Nat
  trap : Bool := false
  rejoin : Option Nat := none
  park : Option Park := none
  esc : Option Escalation := none
  late : Option LateLoad := none
  /-- the action stored by an `ERET` while the node was saved (16 R316, R318) -/
  action : Option Nat := none
  deriving DecidableEq, Repr

/-- What a warp record is: a launched or task warp, or a sequencer of a fork (01 R38). -/
inductive Role
  | warp
  /-- a task: its counter's physical address and key, and the first byte of its page where that has a home (18 R370) -/
  | task (counter tag : Nat) (home : Option Nat)
  | seq (kind : Nat) (parent : Nat)
  deriving DecidableEq, Repr

/-- Whether a warp has stopped at a pre-emption (17 R343). -/
inductive Stop | running | yield | forced
  deriving DecidableEq, Repr

/-- A register that a write is pending to (02 R48): class 0 V, 1 S, 2 M, 3 the flags of the warp; its number; the lanes;
and the request it waits for. -/
structure Pend where
  cls : Nat
  num : Nat
  lanes : List Nat
  req : Nat
  deriving DecidableEq, Repr

/-- An open fork (01 R38, R39): the sequencers' warp records, the lane that takes their flags, their flags so far,
and the cause and subcode of an abort. -/
structure Fork where
  seqs : List Nat
  lane : Nat
  flags : Nat := 0
  fail : Option (Nat × Nat) := none
  /-- the predicate and address of the `ERDV` at which the forking warp waits -/
  reached : Option (Pred × Nat) := none
  deriving DecidableEq, Repr

/-- A warp, or a sequencer of a fork. -/
structure Warp where
  node : Nat
  idx : Nat
  unit : Nat
  slot : Nat := 0
  role : Role := .warp
  /-- the copy of a REDUNDANT node (19 R382): 0 leading, 1 trailing, 2 third -/
  copy : Nat := 0
  lanes : List Lane
  v : List (Nat × W32) := []
  s : List (Nat × W64) := []
  m : List (Nat × W32) := []
  frags : List Frag := []
  utvec : W32 := 0
  agelim : Nat := 64
  grps : W64 := 0
  preq : Bool := false
  pdleft : Nat := 0
  stop : Stop := .running
  pend : List Pend := []
  /-- the table request whose reply fetch waits for (10 R240) -/
  suspended : Option Nat := none
  fork : Option Fork := none
  /-- this sequencer has reached its `ERDV` -/
  atErdv : Bool := false
  /-- registers that casts deliver to, with their cast-full bit (01 R43) -/
  castFull : List (Nat × Bool) := []
  /-- quadrant cycles for which this warp has been a lowered candidate without issuing (17 R341) -/
  lowered : Nat := 0
  /-- requests of the context that must be performed before this warp issues again (16 R323) -/
  drain : List Nat := []
  deriving DecidableEq, Repr

/-! ### Nodes and launches -/

inductive NodeSt | waiting | ready | running | saved | done | failed | cancelled
  deriving DecidableEq, Repr

/-- A declared tile operand (17 R331). -/
structure TileOp where
  tbl : Nat
  wr : Bool
  lo : Nat
  hi : Nat
  deriving DecidableEq, Repr

/-- A node descriptor (17 R331, R332). -/
structure NodeDesc where
  pan : Bool := false
  entry : Nat := 0
  c : Nat := 1
  w : Nat := 1
  l : Nat := 1
  n : Nat := 16
  t : Nat := 0
  scr : Nat := 0
  prio : Nat := 0
  lvl : Nat := 0
  spill : Bool := false
  spilla : Nat := 0
  red : Bool := false
  cast : Bool := false
  age : Nat := 64
  pred : Nat := 0
  params : List W64 := []
  qbind : List Nat := []
  casts : List W64 := []
  tileOps : List TileOp := []
  succ : List Nat := []
  deriving DecidableEq, Repr

/-- Progress of a pre-emption (17 R342–R347). -/
structure Preempt where
  /-- the area that a `CTXS` named: a virtual address of that context -/
  area : Option Nat := none
  ctx : Nat := 0
  /-- the completion word of that `CTXS`, and the key it is written under -/
  done : Option Nat := none
  doneTag : Nat := 0
  forced : Bool := false
  /-- the area is written -/
  written : Bool := false
  deriving DecidableEq, Repr

/-- The decompression state of a node on a core (12 R291): the generation, and the code lengths by slot. -/
structure Decomp where
  gen : Nat := 0
  tables : List (Nat × List Byte) := []
  deriving DecidableEq, Repr

/-- The lane an action belongs to. -/
structure LaneRef where
  warp : Nat
  lane : Nat
  deriving DecidableEq, Repr

/-- A task on a deque (01 R35), the pushing node, the counter's physical address and key, and the first byte of its page where that has a home
(18 R370). -/
structure Task where
  entry : Nat
  args : List Byte
  node : Nat
  counter : Nat
  tag : Nat
  home : Option Nat := none
  deriving DecidableEq, Repr

/-- An atomic request (09 R231, R232). -/
structure AtomReq where
  pa : Nat
  tag : Nat := 0
  /-- the first byte of the page, where its combined AC is 1 (18 R370) -/
  home : Option Nat := none
  size : Nat
  /-- the `ATOM` function number; `RED` uses the same numbers after translation -/
  op : Nat
  b : Nat
  c : Nat
  /-- destination register of an `ATOM` -/
  d : Option Nat
  /-- its order carries an acquire (05 R121, R123) -/
  acq : Bool := false
  /-- the requests of one instruction share a number -/
  grp : Nat := 0
  /-- the task that is pushed once a `TFORK`'s increment is performed (12 R301) -/
  task : Option Task := none
  /-- its service warp has served it: the agent, and the cycle from which its result and write may leave (05 R137, 19 R380) -/
  served : Option (Nat × Nat) := none
  deriving DecidableEq, Repr

/-- One lane's part of a table or sequence request (10 R240). -/
structure TabLane where
  lane : Nat
  /-- table number: a cursor's, or that of the handle -/
  tbl : Nat
  a : Nat := 0
  b : Nat := 0
  c : Nat := 0
  /-- bytes read at issue: an image, or tokens -/
  data : List Byte := []
  toks : List Nat := []
  deriving DecidableEq, Repr

/-- A table or sequence request: the instruction and the lanes' operands, ascending. -/
structure TabReq where
  instr : Instr
  at_ : Nat
  lanes : List TabLane
  deriving DecidableEq, Repr

/-- An armed bit flip (16 R328, 20 R394): its warp index, copy and selector; a flip of store data is pending once the copy
has issued. -/
structure Flip where
  warp : Nat
  copy : Nat
  sel : Nat
  pending : Bool := false
  deriving DecidableEq, Repr

/-- What a lane's part of a table reply writes and raises. -/
structure TabOut where
  lane : Nat
  d : Option Nat := none
  b : Option Nat := none
  sr : Option Nat := none
  xr : Option Nat := none
  /-- HINT of a cursor quad (10 R249) -/
  hint : Option Nat := none
  trap : Option (Nat × Nat) := none
  /-- a fault of the rake unit's write to a row -/
  fault : Option FaultInfo := none
  deriving DecidableEq, Repr

/-- A value that the leading copy received (19 R386, R387). -/
inductive LogVal
  | data (v : Nat)
  | atom (v flags : Nat)
  | tab (o : TabOut)
  /-- an engine command, by its number -/
  | cmd (id : Nat)
  | done
  deriving DecidableEq, Repr

/-- An entry of the load log or of the once-log: the lane, the request that brings the value, and the value. -/
structure LogEnt where
  lane : Nat
  req : Nat
  val : Option LogVal
  deriving DecidableEq, Repr

/-- The snapshot of a copy of a warp at a checkpoint (19 R377, 20 R395): its registers and lanes, the pairs that its held `GCALL` lanes await, what
it has taken of the load log and how long that was, the instructions it had issued, and whether the region is open. -/
structure Ckpt where
  v : List (Nat × W32)
  s : List (Nat × W64)
  m : List (Nat × W32)
  lanes : List Lane
  frags : List Frag
  utvec : W32
  pend : List Pend := []
  taken : List (Nat × Nat) := []
  logLen : Nat := 0
  steps : Nat := 0
  open_ : Bool := true
  deriving DecidableEq, Repr

/-- What a copy of a warp waits to have compared: a once-operation, an `RCHK`, a `REND`, an `EXIT`, or its stop at a pre-emption (19 R387, R392;
12 R303). -/
inductive Meet | none | once | rchk | rend | exit | stop
  deriving DecidableEq, Repr

/-- A held request to memory (09, 05 R137): a write of bytes under a key, an atomic, or a table request. -/
inductive ReqKind
  | store (tag : Nat) (bytes : List (Nat × Byte))
  | atomic (a : AtomReq)
  | table (t : TabReq)
  deriving DecidableEq, Repr

/-- A request that its core still holds (05 R137), in order of issue. -/
structure Req where
  id : Nat
  who : LaneRef
  ctx : Nat
  node : Nat
  unit : Nat
  issued : Nat
  /-- the hold that was in force at issue -/
  hold : Nat
  /-- it goes to a device or strongly ordered page (05 R136) -/
  dev : Bool := false
  kind : ReqKind
  deriving DecidableEq, Repr

/-- One copy of a warp of a REDUNDANT node (19 R382–R389). -/
structure CopySt where
  warp : Nat
  open_ : Bool := false
  /-- signature and count of the running chunk -/
  sig : Nat := 0
  cnt : Nat := 0
  /-- signatures and counts of the chunks closed since the checkpoint -/
  chunks : List (Nat × Nat) := []
  /-- buffered requests with the number of their chunk -/
  buf : List (Nat × Req) := []
  /-- entries of the load log and of the once-log that each lane has taken -/
  taken : List (Nat × Nat) := []
  takenOnce : List (Nat × Nat) := []
  /-- scratchpad bytes and full/empty bits as they were before this copy's writes since the checkpoint, newest first -/
  undo : List (Nat × Byte) := []
  undoFe : List (Nat × Bool) := []
  /-- instructions issued since the pair last met -/
  steps : Nat := 0
  meet : Meet := .none
  /-- the meeting has been compared and let through -/
  pass : Bool := false
  ck : Option Ckpt := none
  /-- a strike that cannot be recovered has reached it since the checkpoint (19 R388) -/
  struck : Bool := false
  deriving DecidableEq, Repr

/-- A scratchpad write of an engine command in a REDUNDANT node: the offset in the partition, the bytes, and whether it is the last write of its
granules, which sets their full/empty bits (05 R112). -/
structure EngWrite where
  cmd : Nat
  off : Nat
  bytes : List Byte
  last : Bool := true
  deriving DecidableEq, Repr

/-- The copies of one warp index (19). -/
structure Pair where
  idx : Nat
  copies : List CopySt
  log : List LogEnt := []
  once : List LogEnt := []
  /-- scratchpad writes of engine commands since the checkpoint -/
  writes : List EngWrite := []
  /-- chunks since the checkpoint that have been decided -/
  decided : Nat := 0
  mismatch : Nat := 0
  /-- requests from this number on have been issued since the checkpoint (19 R390) -/
  since : Nat := 0
  deriving DecidableEq, Repr

/-- A group of a launch (01 R20): its flags and its members (node index, warp index). -/
structure Group where
  bar : Bool
  win : Bool
  pair : Bool
  members : List (Nat × Nat)
  deriving DecidableEq, Repr

/-- A queue channel of a launch (12 R300): its entries, oldest first, each of 32 lanes. -/
structure Channel where
  entries : List (List W32) := []
  deriving DecidableEq, Repr

/-- A launch (17 R329–R334). -/
structure Launch where
  ctx : Nat
  id : Nat
  tag : Nat := 0
  pdl : Nat := 65536
  codesz : Nat := 0
  /-- where the code image begins in its first page, and the IPA of each of its 8 KiB pages -/
  codeOff : Nat := 0
  codePages : List (Option Nat) := []
  nodes : List Nat := []
  groups : List Group := []
  channels : List (Nat × Channel) := []
  doneN : Nat := 0
  failN : Nat := 0
  cancN : Nat := 0
  firstFail : Option Nat := none
  reason : Nat := 0
  cause : Nat := 0
  sub : Nat := 0
  /-- its own record has been appended -/
  closed : Bool := false
  deriving DecidableEq, Repr

/-! ### Tables -/

inductive TableKind | dense | hashed | ordered | prefix_ | sequence | matrix | other
  deriving DecidableEq, Repr

/-- The software fields of a descriptor (06 R138), decoded once when it is installed; `raw` keeps the 128 bytes. -/
structure Desc where
  kind : Nat := 0
  valid : Bool := false
  rowlg : Nat := 0
  k16 : Bool := false
  uniq : Bool := false
  scope : Nat := 0
  pl : Bool := false
  lcap : Nat := 0
  home : Nat := 0
  cap : Nat := 0
  shard : Nat := 0
  idxb : Nat := 0
  sink : Nat := 0
  win : Nat := 0
  pool : Nat := 0
  bmap : Nat := 0
  rlen : Nat := 0
  clen : Nat := 0
  /-- reserved bits that are not 0 -/
  rsvd : Bool := false
  deriving DecidableEq, Repr

/-- An index entry of a keyed table: the key and the slot. -/
structure Entry where
  key : Nat
  slot : Nat
  deriving DecidableEq, Repr

/-- The B+tree of an ORDERED table (06 R146): the leaves in order, the separators between adjacent leaves, and the
child counts of each interior level from the level above the leaves upward. -/
structure Tree where
  leaves : List (List Entry) := []
  seps : List Entry := []
  levels : List (List Nat) := []
  deriving DecidableEq, Repr

/-- A prefix entry (06 R153): the tokens, the slot and its SEQ value. -/
structure PfxEntry where
  tokens : List Nat
  slot : Nat
  seq : Nat
  deriving DecidableEq, Repr

/-- A cursor record (06 R147, 10 R247): its generation, the opening lane, the position and the end key. -/
structure Cursor where
  num : Nat
  gen : Nat
  open_ : Bool
  node : Nat
  warp : Nat
  lane : Nat
  desc : Bool
  pos : Entry
  first : Bool
  end_ : Nat
  deriving DecidableEq, Repr

/-- States of a sequence position (06 R156). -/
inductive PosSt | reserved (node : Nat) | committed | void
  deriving DecidableEq, Repr

/-- A table of a context. -/
structure Table where
  desc : Desc := {}
  /-- index entries of a HASHED table, by insertion -/
  entries : List Entry := []
  tree : Tree := {}
  pfx : List PfxEntry := []
  /-- slots once occupied and now dead -/
  dead : List Nat := []
  /-- slots live -/
  live : List Nat := []
  cursors : List Cursor := []
  /-- positions at and above C that are not free -/
  pos : List (Nat × PosSt) := []
  r : Nat := 0
  c : Nat := 0
  /-- blocks of a SEQUENCE, by block index -/
  blocks : List (Nat × Nat) := []
  /-- keys whose row has moved from this first shard, with the index of the shard that holds it (21 R406) -/
  forward : List (Nat × Nat) := []
  /-- lookup counts of a shard (21 R407): key, requesting device, count -/
  lookups : List (Nat × Nat × Nat) := []
  deriving DecidableEq, Repr

/-- A context (18 R351, 16 R312, 17 R329). -/
structure Ctx where
  s1root : Nat := 0
  s2root : Nat := 0
  sec : Bool := false
  owner : Nat := 0
  grecs : Nat := 0
  /-- records of the hypervisor trap sequence not yet resolved (16 R314) -/
  hrecs : Nat := 0
  parkceil : Nat := 65536
  hold : Bool := true
  wdlim : Nat := 0x01000000
  extlim : Nat := 0
  tables : List (Nat × Table) := []
  nextLaunch : Nat := 1
  /-- the next submission position, and the level of the submitter of each committed one -/
  subPos : Nat := 0
  subLvl : List (Nat × Nat) := []
  serialG : Nat := 0
  serialH : Nat := 0
  dispatched : Bool := false
  /-- destroyed (23 R428): its number names no context any more -/
  dead : Bool := false
  deriving DecidableEq, Repr

/-! ### Requests, commands and engine work in flight -/

/-- An atomic result that waits for the others of its instruction, or for room in the port that they go to (09 R231). -/
structure AtomRes where
  id : Nat
  who : LaneRef
  size : Nat
  d : Option Nat
  grp : Nat
  val : Nat
  flags : Nat
  deriving DecidableEq, Repr

/-- A reply of a rake unit on its way back (10 R240). -/
structure TabRes where
  id : Nat
  warp : Nat
  instr : Instr
  at_ : Nat
  outs : List TabOut
  deriving DecidableEq, Repr

/-- A full/empty load that its granule's bit does not serve yet (09 R223). -/
structure FePend where
  id : Nat
  who : LaneRef
  unit : Nat
  /-- offset in the unit's scratchpad -/
  off : Nat
  size : Nat
  sx : Bool
  consume : Bool
  d : Nat
  at_ : Nat
  /-- the loads of one instruction share a number -/
  grp : Nat
  /-- its granule's bit has served it: the value waits for the others of the instruction, whose results go to one port -/
  got : Option Nat := none
  /-- the lanes whose results make that one entry -/
  all : List Nat := []
  deriving DecidableEq, Repr

/-- A tile shape (11 R260): element width in bits, rows and columns. -/
structure Shape where
  w : Nat
  rows : Nat
  cols : Nat
  deriving DecidableEq, Repr

/-- A tile as an instruction found it at issue: its number and shape. -/
structure TileRef where
  t : Nat
  sh : Shape
  deriving DecidableEq, Repr

/-- Scales and zero points that an instruction read at issue, by row and group (04 R91): group size 0 stands for none. -/
structure GroupVals where
  g : Nat := 0
  perRow : Nat := 1
  sc : Bool := false
  zp : Bool := false
  scales : List Nat := []
  zeros : List Nat := []
  deriving DecidableEq, Repr

/-- What a product read at issue (11 R271). -/
structure Product where
  a : TileRef
  b : TileRef
  c : Option TileRef
  d : TileRef
  m : Option TileRef
  /-- sparsity pattern: kept and group, (1, 1) where dense -/
  keep : Nat
  of_ : Nat
  fa : Fmt
  fb : Fmt
  cd : Fmt
  rnd : Rm
  ga : GroupVals
  gb : GroupVals
  deriving DecidableEq, Repr

/-- The work of a tile instruction on its engine, with everything that it read at issue. -/
inductive TileWork
  | load (d : TileRef) (rows : List (List Byte))
  | zero (d : TileRef)
  | move (d a : TileRef) (tr : Bool)
  | product (p : Product)
  | compress (d a m : TileRef) (keep of_ : Nat) (fa : Fmt)
  | quantise (d a : TileRef) (fa cd : Fmt) (rm : Rm) (bound : Nat) (g : GroupVals)
  | widen (d a : TileRef) (fa cd : Fmt) (rnd : Rm) (rowS colS : List Nat) (g : GroupVals)
  | reduce (d a : TileRef) (fn : Nat)
  | scale (d a : TileRef) (col : Bool) (s : Nat) (mul add : List Nat)
  | topk (d a v : TileRef) (k : Nat)
  deriving DecidableEq, Repr

/-- A tile instruction handed to its engine and not complete (11 R264, R265). -/
structure TileTask where
  id : Nat
  unit : Nat
  node : Nat
  warp : Nat
  /-- the elected lane -/
  lane : Nat
  work : TileWork
  deriving DecidableEq, Repr

/-- A collective in Sluice's hands (21 R408–R419): what its issue read, and how far it has come. -/
structure Coll where
  comm : Nat
  p : Nat
  rank : Nat
  marka : Nat
  members : List Nat
  fn : Nat
  det : Bool
  send : Nat
  recv : Nat
  cnta : Nat
  dlva : Nat
  chunk : Nat
  count : Nat
  red : Nat
  dt : Nat
  rowlg : Nat := 0
  /-- the parameters have been compared -/
  agreed : Bool := false
  /-- the marks are 0 and the chunks started -/
  running : Bool := false
  epoch : Nat := 0
  /-- chunks whose mark is 1 -/
  marks : List Nat := []
  /-- edges of the member graph of the tree set in use: device, port, device, port -/
  edges : List (Nat × Nat × Nat × Nat) := []
  /-- edges whose link has been applied as down since the tree set was adopted (22 R419) -/
  deadEdges : List (Nat × Nat × Nat × Nat) := []
  /-- settlings of the table that it has acted on; the digest that it has sent since it last adopted a tree set, with the edges; and the settlings
  since the last reply of a member, by rank (21 R414, R415) -/
  seen : Nat := 0
  asked : Option (Nat × List (Nat × Nat × Nat × Nat)) := none
  silent : List (Nat × Nat) := []
  /-- the newest digest of each other member since the tree set was adopted (21 R414) -/
  digests : List PeerDigest := []
  /-- the adoption of a tree set under way: its edges, and the chunks that are complete (21 R414) -/
  adopt : Option (List (Nat × Nat × Nat × Nat) × List Nat) := none
  /-- chunks that have arrived and are not written; blocks that have arrived and are not delivered, by source; each under its epoch -/
  inbox : List ChunkIn := []
  blocks : List (Nat × BlockIn) := []
  /-- slots delivered from each source rank -/
  delivered : List (Nat × Nat) := []
  /-- a block that it received or sent was refused -/
  refused : Bool := false
  /-- what the other members have shown in the final exchange (21 R413) -/
  shown : List PeerMarks := []
  deriving DecidableEq, Repr

/-- An engine command (12 R286). -/
structure Cmd where
  id : Nat := 0
  instr : Instr
  unit : Nat
  node : Nat
  ctx : Nat
  launch : Nat
  lvl : Nat
  warp : Nat
  /-- the warp's index in its node -/
  widx : Nat
  lane : Nat
  /-- the issuing active path -/
  lanes : List Nat
  at_ : Nat
  acq : Bool
  started : Bool := false
  issued : Nat := 0
  /-- operands read at issue: destination, source, count, and the completion word's address -/
  d : Nat := 0
  a : Nat := 0
  b : Nat := 0
  doneVa : Nat := 0
  donePa : Nat := 0
  doneTag : Nat := 0
  /-- the block or descriptor, as a number -/
  block : Nat := 0
  /-- keys and weights, queries, a copy's source bytes, or decoded elements -/
  data : List Byte := []
  /-- code lengths and their generation, of a `DEC` -/
  table : List Byte := []
  gen : Nat := 0
  /-- the source or the queries have been read -/
  ready : Bool := false
  /-- progress: the bit position of a `DEC`; the next index, the misses and the sums of a `GPOOL`; the next stack of an
  `ATTN` -/
  vals : List Nat := []
  /-- the code that the command will complete with: 0 is done -/
  code : Option Nat := none
  /-- the command has written some byte (19 R379) -/
  wrote : Bool := false
  park : Option Park := none
  aborted : Bool := false
  coll : Option Coll := none
  deriving DecidableEq, Repr

/-- A node of a launch, on its units. -/
structure Node where
  ctx : Nat
  launch : Nat
  idx : Nat
  desc : NodeDesc
  st : NodeSt := .waiting
  pending : Nat := 0
  level : Nat := 0
  entered : Nat := 0
  blocked : Bool := false
  /-- entries of each compare buffer, as RSLACK stood at dispatch (23 R427) -/
  slack : Nat := 1024
  units : List Nat := []
  /-- the units of the trailing and of the third copy of a REDUNDANT node (19 R382, R389) -/
  units2 : List Nat := []
  units3 : List Nat := []
  /-- the first run of its partition on each unit -/
  banks : List (Nat × Nat) := []
  /-- physical slot of each local slot (17 R340): `unit * 64 + local` -/
  slots : List (Nat × Nat) := []
  tiles : List (Nat × Byte) := []
  tcfg : List (Nat × W32) := []
  /-- by unit -/
  decomp : List (Nat × Decomp) := []
  pre : Option Preempt := none
  /-- a saved node's area: its address, and the context it is an address of -/
  area : Option (Nat × Nat) := none
  /-- word 3 of the header of its area, which a move leaves as it was written (16 R317) -/
  areaWord : Option Nat := none
  /-- queued commands and deque tasks, by unit, of a node that has stopped (12 R304) -/
  savedCmds : List Cmd := []
  savedTasks : List (Nat × Task) := []
  /-- forks left open by warps that have retired (01 R44) -/
  openForks : Nat := 0
  flips : List Flip := []
  pairs : List Pair := []
  deriving DecidableEq, Repr

/-- A cast delivery not yet accepted (01 R43, 12 R299). -/
structure Cast where
  id : Nat
  warp : Nat
  node : Nat
  unit : Nat
  /-- consumer bit 0–7 -/
  consumer : Nat
  entry : W64
  lanes : List (Nat × W32)
  elected : Nat
  deriving DecidableEq, Repr

/-! ### The device around the cores -/

/-- State of a Milrov port (21 R401). -/
structure Port where
  up : Bool := false
  peer : Nat := 0
  peerPort : Nat := 0
  /-- hub cycles of the last flit that arrived and of the last one sent -/
  heard : Nat := 0
  lastSent : Nat := 0
  deriving DecidableEq, Repr

/-- An access-counter hint that the SMC has not acknowledged (18 R370): the page, its home, the agent that asks for it, and both counts. -/
structure Hint where
  page : Nat
  home : Nat
  agent : Nat
  count : Nat
  homeCount : Nat
  deriving DecidableEq, Repr

/-- What a node has on one core: its tiles, tile shapes and decompression state. -/
structure NodePart where
  node : Nat
  tiles : List (Nat × Byte)
  tcfg : List (Nat × W32)
  decomp : Option Decomp
  deriving DecidableEq, Repr

/-- A copy of a warp of a REDUNDANT node, by its node, warp index and number. -/
structure CopyAt where
  node : Nat
  idx : Nat
  copy : Nat
  st : CopySt
  deriving DecidableEq, Repr

/-- What came into a zone (19 R378): the result of an atomic, a table reply, or a task for the deque. -/
inductive Arrival
  | atom (warp lane req d size v flags : Nat)
  | tab (warp : Nat) (r : TabRes)
  | task (req : Nat) (t : Task)
  deriving DecidableEq, Repr

/-- The state of a zone at a moment of its execution (19 R377): a unit's warps, scratchpad and full/empty bits, the loads, tile instructions and casts
under way in it, its command queue and deque, and what its nodes and copies have on it; for a cluster's shared logic the request queue of its service
warp. -/
structure Snap where
  /-- the cycle of the zone -/
  at_ : Nat
  /-- requests and commands with lower numbers had been issued -/
  upTo : Nat
  warps : List (Nat × Warp) := []
  cells : List (Nat × Byte) := []
  bits : List (Nat × Bool) := []
  loads : List FePend := []
  work : List TileTask := []
  casts : List Cast := []
  cmds : List Cmd := []
  deque : List Task := []
  parts : List NodePart := []
  copies : List CopyAt := []
  queue : List Req := []
  /-- entries of the zone's log -/
  logged : Nat := 0
  deriving DecidableEq, Repr

/-- The checkpoints of a zone (19 R377): the cycles of the two newest; the states of the zone since the older of them, oldest first, those of the two
checkpoints among them; the one at which a replay from the older checkpoint ends (19 R378); and the zone's log of what came into it. -/
structure ZoneCk where
  newer : Nat
  older : Nat
  snaps : List Snap := []
  ends : Nat := 0
  log : List Arrival := []
  /-- checkpoints and rollbacks so far -/
  gen : Nat := 0
  deriving DecidableEq, Repr

/-- Hub settings (23 R427). -/
structure Settings where
  repstep : Nat := 4
  starve : Nat := 262144
  acth : Nat := 4096
  rslack : Nat := 1024
  devid : Nat := 0
  deriving DecidableEq, Repr

/-- A reply to a request from outside: 0, or why it was not performed, and its data. -/
structure Reply where
  code : Nat
  data : List Byte
  deriving DecidableEq, Repr

/-- The SMC's own state (23 R425–R433). -/
structure Smc where
  stage : Nat := 0
  svn : Nat := 0
  measurements : List (List Byte) := []
  stacksOut : List Nat := []
  keySlots : List (Nat × Nat) := []
  keyGen : Nat := 256
  powercap : Nat := 3200
  temp : Nat := 0
  throttle : Nat := 0
  off : Bool := false
  hostSec : Bool := false
  deriving DecidableEq, Repr

/-- The whole device. -/
structure State where
  /-- memory, by physical address: unlisted bytes read 0 (23 R426 stage 3) -/
  mem : List Host.Cell
  /-- owner-key tag of each 32-byte sector: unlisted sectors carry tag 0 -/
  keys : List (Nat × Nat)
  /-- scratchpads and pan buffers: `unit * 2^20 + offset` -/
  scratch : List (Nat × Byte)
  /-- full/empty bits: `unit * 2^16 + granule` -/
  fe : List (Nat × Bool)
  /-- owner context of each run of 16 banks, or 16 KiB unit of a pan buffer: `unit * 16 + run` (23 R423) -/
  runOwner : List (Nat × Nat)
  /-- requests to give a run to an owner, by run, that wait until it is idle (23 R423) -/
  reassign : List (Nat × Option Nat)
  /-- key slots that the SMC retires, with the requests whose writes it waits for (23 R422) -/
  retiring : List (Nat × List Nat)
  /-- world of a block, under its number (`rakeBlock`, `engineBlock`, `sluiceBlock`; a unit's own): secure unless listed false -/
  world : List (Nat × Bool)
  poison : List PoisonLoc
  ctxs : List (Nat × Ctx)
  launches : List (Nat × Launch)
  nodes : List (Nat × Node)
  warps : List (Nat × Warp)
  held : List Req
  atomQ : List Req
  atomRes : List AtomRes
  rakeQ : List Req
  tabRes : List TabRes
  fePend : List FePend
  tileQ : List TileTask
  cmds : List Cmd
  deques : List (Nat × List Task)
  probeDue : List (Nat × Nat)
  casts : List Cast
  /-- issue pointer of a quadrant: `unit * 4 + quadrant` -/
  ptrs : List (Nat × Nat)
  /-- idle and external counts: `ctx * 1024 + unit` -/
  idle : List (Nat × Nat)
  ext : List (Nat × Nat)
  /-- the limit in force when the count under a key began (16 R311) -/
  idleLim : List (Nat × Nat)
  extLim : List (Nat × Nat)
  views : List (Nat × List Nat)
  settings : Settings
  /-- the live link table, by row: the 128-bit entries (21 R402) -/
  links : List (Nat × Nat)
  ports : List (Nat × Port)
  drainRound : Nat
  drainDue : Nat
  /-- times that the link table has settled (21 R403) -/
  settlings : Nat
  remoteNext : List (Nat × Nat)
  remoteWait : List RemoteReq
  /-- agent that is the home of a page, by its first byte, where it has moved (18 R370): clusters 0–95, stacks 96–103,
  104 for all fabric peers -/
  homes : List (Nat × Nat)
  /-- requests to a page by agent: `page * 128 + agent` -/
  access : List (Nat × Nat)
  /-- hints that wait for the SMC: the counts of their pages are frozen (18 R370) -/
  hints : List Hint
  /-- reference count and stack of each allocated sequence block (06 R160, 10 R307) -/
  blockRef : List (Nat × Nat × Nat)
  /-- the 16 MiB region of IPAs that a rake unit has given a block (18 R352) -/
  blockIpas : List (Nat × Nat)
  /-- blocks that a pool has lent: context, pool and index within it (06 R164) -/
  lent : List (Nat × Nat × Nat × Nat)
  ecc : List (Nat × Nat × Nat)
  ckpts : List (Nat × ZoneCk)
  interrupts : List (Nat × Nat)
  /-- the last reply to each queue of the host, and under 16 and above to each other device (21 R398, R404) -/
  replies : List (Nat × Reply)
  /-- the SMC's event sequence, which hypervisor contexts map as table 7 (23 R430) -/
  events : Table
  smc : Smc
  /-- cycles of the compute cores, of the hub, and of the pan units -/
  now : Nat
  hub : Nat
  pan : Nat
  inputs : List Instr
  late : List W32
  fresh : Nat
  cur : Option Nat
  /-- the issue slots that have issued in this cycle, each with the context it issued for -/
  acted : List (Nat × Nat)
  nextId : Nat
  /-- the hub cycle after that of Saltern's last dispatch: at most one entry in each cycle (17 R336) -/
  nextDispatch : Nat
  /-- the latest cycle of issue of an access of a context that has left a zone: `ctx * 1024 + unit`, and the latest cycle at
  which a service warp let out a result or write for a node: `node * 128 + agent` (19 R381) -/
  lastOut : List (Nat × Nat)
  lastServed : List (Nat × Nat)
  /-- instructions issued so far: tells a stalled issue from one that happened -/
  issues : Nat
  /-- arrivals of copies at a meeting so far (12 R303): tells an arrival, which is not yet an issue, from a stalled issue -/
  meets : Nat
  deriving DecidableEq, Repr

/-- Why a step stops without a next state. -/
inductive Fault
  /-- Raised by `exec` of an instruction when no warp is issuing: no machine state runs into it through `step`. Safe. -/
  | noIssuer
  deriving DecidableEq, Repr

/-- Why the model gives an instruction no meaning. -/
inductive Refusal
  /-- Raised by an arm of `exec` whose instruction has no meaning yet. Safe. -/
  | notModelled (mnemonic : String)
  deriving DecidableEq, Repr

/-- The device right after reset, before the boot stages of 23 R426 run: no context, no launch, no node. -/
def State.reset : State :=
  { mem := [], keys := [], scratch := [], fe := [], runOwner := [], reassign := [], retiring := [], world := [], poison := [], ctxs := [],
    launches := [], nodes := [], warps := [], held := [], atomQ := [], atomRes := [], rakeQ := [], tabRes := [],
    fePend := [], tileQ := [], cmds := [], deques := [], probeDue := [], casts := [], ptrs := [], idle := [],
    ext := [], idleLim := [], extLim := [], views := [], settings := {}, links := [], ports := [], drainRound := 4, drainDue := 0, settlings := 0,
    remoteNext := [], remoteWait := [], homes := [], access := [], hints := [], blockRef := [], blockIpas := [], lent := [], ecc := [], ckpts := [],
    interrupts := [], replies := [], events := {}, smc := {}, now := 0, hub := 0, pan := 0, inputs := [], late := [], fresh := 0, cur := none, acted := [], nextId := 1, nextDispatch := 0, lastOut := [], lastServed := [], issues := 0, meets := 0 }

end Sys2Proof.Machine
end

