-- ==== Sys2Proof/Machine/Mem.lean ====
section
/-! DEFINITION. Memory by physical address, with the owner keys of its sectors (23 R420), the scratchpads and
pan buffers with their full/empty bits (05 R110–R112), and the storage that the model gives to the SMC's event sequence and to
code images: keys at and above `2 ^ 52` of the same memory. -/

namespace Sys2Proof.Machine

abbrev Memory := List Host.Cell

/-- The canonical form of memory: addresses rise strictly and no listed byte is 0, as unlisted bytes read. -/
abbrev Memory.wf (m : Memory) : Prop := Canonical (0 : Byte) m

/-- The byte at an address. -/
def memGet (m : Memory) (a : Nat) : Byte := getD 0 m a
/-- Write one byte. -/
def memSet (m : Memory) (a : Nat) (b : Byte) : Memory := put 0 a b m

/-- Where the slots of a block of the SMC's own event sequence lie (23 R430): storage that the spec gives no physical address. -/
def blockBase (id : Nat) : Nat := 2 ^ 52 + id * 2 ^ 24
/-- Where the code image of a launch lies as Saltern took it (02 R50). -/
def codeBase (launch : Nat) : Nat := 2 ^ 100 + launch * 2 ^ 32

/-- Where the rows of the live link table lie (21 R402). -/
def linkBase : Nat := 2 ^ 101

/-- The address is one of HBM of some device, whose sectors are encrypted (23 R420, 21 R399). -/
def encrypted (pa : Nat) : Bool := decide (pa < 2 ^ 52) && decide (pa % 2 ^ 40 < Config.hostWindow)

/-- The key now in a key slot (23 R421): a number that no other key has had; at first the slot's own. -/
def State.keyTag (s : State) (slot : Nat) : Nat := (find slot s.smc.keySlots).getD slot

/-- Read one byte under a key (23 R420). -/
def State.rdByte (s : State) (tag pa : Nat) : Byte :=
  if linkBase ≤ pa then BitVec.ofNat 8 (getD 0 s.links ((pa - linkBase) / 16) / 256 ^ ((pa - linkBase) % 16)) else
  let b := memGet s.mem pa
  if encrypted pa then
    let t := getD 0 s.keys (pa / 32)
    if t = tag then b else Config.foreignByte tag t pa ((List.range 16).map fun i => memGet s.mem (pa / 16 * 16 + i))
  else b

/-- The 32 addresses of a sector. -/
def sectorAddrs (pa : Nat) : List Nat := (List.range 32).map fun i => pa / 32 * 32 + i

/-- Write one byte under a key; the rest of a sector of another key is written back under the new one (23 R420). -/
def State.wrByte (s : State) (tag pa : Nat) (b : Byte) : State :=
  if encrypted pa && getD 0 s.keys (pa / 32) != tag then
    let m := (sectorAddrs pa).foldl (fun m a => memSet m a (s.rdByte tag a)) s.mem
    { s with mem := memSet m pa b, keys := put 0 (pa / 32) tag s.keys }
  else { s with mem := memSet s.mem pa b }

/-- Read `n` bytes from an address on. -/
def State.rdBytes (s : State) (tag pa n : Nat) : List Byte := (List.range n).map fun i => s.rdByte tag (pa + i)

/-- The 32-byte code word of an address is poisoned (19 R375; its size is log entry 13). -/
def State.poisonedPa (s : State) (pa : Nat) : Bool := s.poison.contains (.word (pa / 32 * 32))
/-- A block number is that of an L2 slice (23 R431). -/
def isSlice (block : Nat) : Bool := block / 4096 == 2
/-- The granule of an address is poisoned in an L2 slice, through which every reader goes (19 R375). -/
def State.poisonedLine (s : State) (pa : Nat) : Bool :=
  s.poison.any fun p => match p with | .line b a => isSlice b && a == pa / 16 * 16 | _ => false
/-- Some code word or cached granule of the `n` bytes at an address is poisoned. -/
def State.poisonedMem (s : State) (pa n : Nat) : Bool := (List.range n).any fun i => s.poisonedPa (pa + i) || s.poisonedLine (pa + i)
/-- Some of these bytes is poisoned in the L1 of a core. -/
def State.poisonedL1 (s : State) (unit pa n : Nat) : Bool :=
  s.poison.any fun p => match p with | .line b a => b == unit && decide (unit < Config.cores) && decide (a < pa + n) && decide (pa < a + 16) | _ => false

/-- What a queue holds under a number is poisoned. -/
def State.poisonedEntry (s : State) (id : Nat) : Bool := s.poison.any fun p => match p with | .queue _ q => q == id | _ => false

/-- The 16 addresses of a granule. -/
def granuleAddrs (pa : Nat) : List Nat := (List.range 16).map fun i => pa / 16 * 16 + i

/-- The poison that is left when one write has covered these addresses: it clears that of each code word and cached granule it covers whole (19
R375). -/
def unpoisoned (ps : List PoisonLoc) (covered : Nat → Bool) : List PoisonLoc :=
  ps.filter fun p => match p with
    | .word pa => !(sectorAddrs pa).all covered
    | .line _ pa => !(granuleAddrs pa).all covered
    | _ => true

/-- Write bytes, each with its key and address, as one write. -/
def State.wrAll (s : State) (l : List (Nat × Nat × Byte)) : State :=
  let u := l.foldl (fun u e => u.wrByte e.1 e.2.1 e.2.2) s
  { s with mem := u.mem, keys := u.keys, poison := unpoisoned s.poison fun a => l.any fun e => e.2.1 == a }

/-- Write bytes at the addresses given with them under one key. -/
def State.wrCells (s : State) (tag : Nat) (l : List (Nat × Byte)) : State := s.wrAll (l.map fun e => (tag, e))

/-- Write bytes from an address on. -/
def State.wrBytes (s : State) (tag pa : Nat) (bs : List Byte) : State :=
  s.wrCells tag (bs.zipIdx.map fun e => (pa + e.2, e.1))

/-- Read an 8-byte entry of a second-stage table, whose walker reads it as it was written. -/
def State.rdEntry (s : State) (pa : Nat) : Nat :=
  ofLe ((List.range 8).map fun i => memGet s.mem (pa + i))

/-! ### Clocks (00 R5) -/

/-- The cycle count of a unit's clock: a core's, or a pan unit's. -/
def State.clock (s : State) (unit : Nat) : Nat := if unit < Config.cores then s.now else s.pan

/-- The cycle count of the party that services atomic requests under an agent's number: a cluster's cores, a stack's pan units, or the hub
for the fabric peers (05 R119, 18 R370). -/
def State.agentClock (s : State) (agent : Nat) : Nat := if agent < 96 then s.now else if agent < 104 then s.pan else s.hub

/-! ### Scratchpad -/

/-- The key of a scratchpad byte. -/
def spKey (unit off : Nat) : Nat := unit * 2 ^ 20 + off
/-- The key of a granule's full/empty bit. -/
def feKey (unit off : Nat) : Nat := unit * 2 ^ 16 + off / 16

def State.spByte (s : State) (unit off : Nat) : Byte := getD 0 s.scratch (spKey unit off)
def State.spBytes (s : State) (unit off n : Nat) : List Byte := (List.range n).map fun i => s.spByte unit (off + i)
/-- Write scratchpad bytes as one write; a granule covered whole is poisoned no more (19 R375). -/
def State.spWrite (s : State) (unit off : Nat) (bs : List Byte) : State :=
  { s with
    scratch := bs.zipIdx.foldl (fun m e => put 0 (spKey unit (off + e.2)) e.1 m) s.scratch
    poison := s.poison.filter fun p => match p with
      | .scratch u o => !(u == unit && decide (off ≤ o / 16 * 16) && decide (o / 16 * 16 + 16 ≤ off + bs.length))
      | _ => true }
/-- Some granule of these scratchpad bytes is poisoned. -/
def State.spPoisoned (s : State) (unit off n : Nat) : Bool :=
  s.poison.any fun p => match p with
    | .scratch u o => u == unit && decide (o / 16 * 16 < off + n) && decide (off < o / 16 * 16 + 16)
    | _ => false
def State.feBit (s : State) (unit off : Nat) : Bool := getD false s.fe (feKey unit off)
def State.setFe (s : State) (unit off : Nat) (b : Bool) : State :=
  { s with fe := put false (feKey unit off) b s.fe }
/-- Set the bits of every granule that these bytes touch, as an engine write does (05 R112). -/
def State.setFeRange (s : State) (unit off n : Nat) : State :=
  if n = 0 then s
  else (List.range ((off + n - 1) / 16 - off / 16 + 1)).foldl (fun s i => s.setFe unit ((off / 16 + i) * 16) true) s

/-- Bytes of one aligned run of a core's scratchpad (16 banks), and of one unit of a pan buffer (01 R16, 23 R423). -/
def runBytes (unit : Nat) : Nat := if unit < Config.cores then 65536 else 16384
/-- The first run of a node's partition on a unit (17 R340). -/
def Node.bankOn (n : Node) (u : Nat) : Nat := getD 0 n.banks u
/-- Where a node's partition begins on a unit, and its size (05 R110, 17 R332). -/
def Node.partBase (n : Node) (u : Nat) : Nat := n.bankOn u * (if n.desc.pan then 16384 else 65536)
def Node.partSize (n : Node) : Nat := n.desc.scr * (if n.desc.pan then 16384 else 65536)

end Sys2Proof.Machine
end

