-- ==== Sys2Proof/Machine/Trans.lean ====
section
/-! DEFINITION. Table descriptors (06 R138, R139), two-stage translation (18 R350–R356), and the checks of an access
in their order (09 R235, 18 R359). -/

namespace Sys2Proof.Machine

/-! ### Descriptors -/

/-- The context of a number. -/
def State.ctx (s : State) (k : Nat) : Ctx := (find k s.ctxs).getD {}
def State.setCtx (s : State) (k : Nat) (c : Ctx) : State := { s with ctxs := insert k c s.ctxs }

/-- The installed table of a number: none where the descriptor has VALID = 0 (05 R106). -/
def Ctx.table (c : Ctx) (t : Nat) : Option Table := (find t c.tables).filter fun x => x.desc.valid
def Ctx.setTable (c : Ctx) (t : Nat) (x : Table) : Ctx := { c with tables := insert t x c.tables }

/-- Bytes of a key (06 R143). -/
def Desc.keyBytes (d : Desc) : Nat := if d.k16 then 16 else 8
/-- Bytes of a row or slot (05 R107). -/
def Desc.rowBytes (d : Desc) : Nat := 2 ^ d.rowlg
/-- Bytes at the start of a row that no program writes: the key column (06 R143, R153). -/
def Desc.keyCol (d : Desc) : Nat :=
  if d.kind = 1 ∨ d.kind = 2 then d.keyBytes else if d.kind = 3 then 8 else 0

/-- R139, but for the pool. -/
def Desc.fieldsOk (d : Desc) : Bool :=
  !d.rsvd && decide (d.kind ≤ 4) && decide (4 ≤ d.rowlg) && decide (d.rowlg ≤ 16)
    && (if d.kind = 1 ∨ d.kind = 3 then decide (4 ≤ d.lcap) && decide (d.lcap ≤ 64) else d.lcap == 0)
    && (!d.k16 || d.kind == 1 || d.kind == 2)
    && (if d.kind = 2 ∨ d.kind = 3 then d.uniq else !d.uniq || d.kind == 1)
    && (!d.pl || (d.kind == 4 && d.win == 0 && d.pool == 0))
    && (d.kind == 4 || (d.sink == 0 && d.win == 0 && d.pool == 0 && d.bmap == 0))
    && (d.idxb == 0 || d.kind == 1 || d.kind == 2 || d.kind == 3)
    && (if d.kind = 4 then
          if d.win = 0 then d.sink == 0 && d.cap % 256 == 0 && decide (1 ≤ d.cap) && decide (d.cap * 2 ^ d.rowlg ≤ 2 ^ 50)
          else d.cap == 0 && d.win % 256 == 0 && decide (256 ≤ d.win) && decide (d.win ≤ 2 ^ 24)
            && decide (d.sink ≤ 65536) && d.pool == 0
        else decide (1 ≤ d.cap) && decide (d.cap * 2 ^ d.rowlg ≤ 2 ^ 50))
    && (d.shard == 0 || ((d.kind == 0 || d.kind == 2) && d.scope == 1))

/-- A valid descriptor (06 R139). -/
def Ctx.descOk (c : Ctx) (d : Desc) : Bool :=
  d.fieldsOk && (d.pool == 0 || match c.table d.pool with
    | some p => p.desc.fieldsOk && p.desc.kind == 4 && p.desc.pl && p.desc.rowlg == d.rowlg
    | none => false)

/-- Slots that addresses may name (05 R106, 06 R161, R164). -/
def Table.capacity (t : Table) : Nat :=
  if t.desc.kind = 4 then
    if t.desc.win ≠ 0 then t.desc.sink + t.desc.win
    else t.desc.cap + 256 * (t.blocks.filter fun e => decide (t.desc.cap ≤ e.1 * 256)).length
  else t.desc.cap

/-! ### Page walks -/

/-- A page entry (18 R355). -/
structure Pte where
  v : Bool
  leaf : Bool
  rsvd2 : Bool
  s64 : Bool
  mt : Nat
  prop : Bool
  ext : Bool
  w : Bool
  x : Bool
  rd : Bool
  sec : Bool
  ac : Bool
  oa : Nat
  rsvd52 : Nat
  okey : Nat
  deriving DecidableEq, Repr

def Pte.ofNat (e : Nat) : Pte :=
  { v := bitAt e 0, leaf := bitAt e 1, rsvd2 := bitAt e 2, s64 := bitAt e 3, mt := bitsAt e 4 2, prop := bitAt e 6,
    ext := bitAt e 7, w := bitAt e 8, x := bitAt e 9, rd := bitAt e 10, sec := bitAt e 11, ac := bitAt e 12,
    oa := bitsAt e 13 39 * 2 ^ 13, rsvd52 := bitsAt e 52 4, okey := bitsAt e 56 8 }

/-- The lowest input bit and the number of input bits that a level indexes (18 R353). -/
def levelShift : Nat → Nat | 0 => 40 | 1 => 30 | 2 => 21 | _ => 13
def levelBits : Nat → Nat | 0 => 10 | 1 => 10 | 2 => 9 | _ => 8

/-- The entry breaks R353–R355 as an entry of this level and stage. `group` holds the eight entries of its 64 KiB group. -/
def Pte.malformed (p : Pte) (stage2 : Bool) (level : Nat) (group : List Nat) : Bool :=
  p.rsvd2 || p.rsvd52 != 0 || (!stage2 && (p.okey != 0 || p.sec || p.ac || decide (2 ^ 50 ≤ p.oa)))
    || (if p.leaf then
          level == 0 || (p.s64 && level != 3)
            || (level == 1 && p.oa % 2 ^ 30 != 0) || (level == 2 && p.oa % 2 ^ 21 != 0)
            || (p.s64 && (p.oa % 2 ^ 16 != 0 || !(group.all fun g => g == group.headD 0)))
        else
          level == 3 || p.s64 || p.mt != 0 || p.prop || p.ext || p.w || p.x || p.rd || p.sec || p.ac || p.okey != 0)

/-- A leaf that a walk reached: the output address and the page's size in address bits. -/
structure Leaf where
  out : Nat
  bits : Nat
  pte : Pte
  deriving DecidableEq, Repr

/-- How a walk of one stage ends: a leaf, or the failing level and whether the entry was invalid or malformed. -/
inductive Walk
  | leaf (l : Leaf)
  | inval (level : Nat)
  | bad (level : Nat)
  | inner (f : FaultInfo)
  deriving DecidableEq, Repr

/-- The leaf for an input. -/
def Pte.toLeaf (p : Pte) (level input : Nat) : Leaf :=
  let bits := if level = 3 then (if p.s64 then 16 else 13) else levelShift level
  { out := p.oa / 2 ^ bits * 2 ^ bits + input % 2 ^ bits, bits := bits, pte := p }

/-- One stage's walk from a level-0 table at `base`. `rd` translates and reads an entry by its address in that stage's
output space, and may fault; it gives none where the entry is poisoned, as a malformed one (19 R375). -/
def walkFrom (stage2 : Bool) (rd : Nat → Except FaultInfo (Option Nat)) (input : Nat) : Nat → Nat → Nat → Walk
  | 0, _, level => .bad level
  | fuel + 1, base, level =>
    let idx := bitsAt input (levelShift level) (levelBits level)
    match rd (base + 8 * idx) with
    | .error f => .inner f
    | .ok none => .bad level
    | .ok (some e) =>
      let p := Pte.ofNat e
      if !p.v then .inval level
      else
        let group := if p.s64 && level == 3 then (List.range 8).map fun i =>
            match rd (base + 8 * (idx / 8 * 8 + i)) with | .ok (some x) => x | _ => 0
          else []
        if p.malformed stage2 level group then .bad level
        else if p.leaf then .leaf (p.toLeaf level input)
        else walkFrom stage2 rd input fuel p.oa (level + 1)

/-- A leaf of a second-stage table leads to another device (21 R404); `fuel` levels remain below the table. -/
def State.leadsAway (s : State) : Nat → Nat → Nat → Bool
  | 0, _, _ => false
  | fuel + 1, base, level => (List.range (2 ^ levelBits level)).any fun i =>
    let p := Pte.ofNat (s.rdEntry (base + 8 * i))
    p.v && (if p.leaf then p.oa / 2 ^ 40 != s.settings.devid else s.leadsAway fuel p.oa (level + 1))

/-- The context holds a fabric mapping: a leaf of its second stage exports the memory of another device to it (21 R402, R404). -/
def State.fabricMapped (s : State) (ck : Nat) : Bool := s.leadsAway 4 (s.ctx ck).s2root 0

/-- The system tables that a program of a level reaches (16 R439, 05 R106): the live link table where the context holds a fabric mapping (21
R402). -/
def State.sysMapped (s : State) (ck lvl t : Nat) : Bool :=
  ((s.ctx ck).table t).isSome &&
    (t == 3 || t == 4 || (t == 6 && s.fabricMapped ck) || (t == 5 && decide (1 ≤ lvl)) || (t == 7 && decide (2 ≤ lvl))
      || (t == 8 && decide (1 ≤ lvl)) || (t == 9 && decide (2 ≤ lvl)))

/-- The region that an entry of a level concerns (18 R363). -/
def regionBits : Nat → Nat := levelShift

/-- The physical address belongs to no memory of the device (21 R399): a stack retired at bring-up, or the host window of
another device. -/
def State.absentPa (s : State) (pa : Nat) : Bool :=
  let dev := pa / 2 ^ 40
  let off := pa % 2 ^ 40
  if off < Config.hostWindow then dev == s.settings.devid && s.smc.stacksOut.contains (off / 0x1800000000)
  else dev != s.settings.devid

/-- A link between two devices: device and port of its lower end, device and port of its higher end. -/
abbrev Edge := Nat × Nat × Nat × Nat

/-- The link of an entry of the live table (21 R402): whether it is valid and up, and its ends. -/
def linkEdge (e : Nat) : Bool × Edge := (bitAt e 0 && bitAt e 35, (bitsAt e 1 12, bitsAt e 13 5, bitsAt e 18 12, bitsAt e 30 5))

/-- The links that are up. -/
def State.upLinks (s : State) : List Edge := ((s.links.map fun r => linkEdge r.2).filter (·.1)).map (·.2)

/-- The devices that links join to some of a list, in `fuel` rounds. -/
def reach (es : List Edge) : Nat → List Nat → List Nat
  | 0, ds => ds
  | fuel + 1, ds =>
    let more := es.foldl (fun (l : List Nat) e =>
      let l := if ds.contains e.1 && !l.contains e.2.2.1 then e.2.2.1 :: l else l
      if ds.contains e.2.2.1 && !l.contains e.1 then e.1 :: l else l) ds
    if more.length = ds.length then ds else reach es fuel more

/-- A route leads to a device (21 R404). -/
def State.routed (s : State) (dev : Nat) : Bool :=
  dev == s.settings.devid || (reach s.upLinks 4096 [s.settings.devid]).contains dev

/-- The second stage (18 R353): an IPA to a leaf, or the fault. `kind` is the kind of access for the record. -/
def State.walk2 (s : State) (c : Ctx) (kind va ipa : Nat) : Except FaultInfo Leaf :=
  let flt (code level : Nat) : FaultInfo :=
    { code := code, level := level, kind := kind, va := va, page := ipa / 2 ^ regionBits level * 2 ^ regionBits level,
      pageSize := 2 ^ regionBits level, ipa := ipa }
  match walkFrom true (fun a => .ok (if s.poisonedMem a 8 then none else some (s.rdEntry a))) ipa 4 c.s2root 0 with
  | .leaf l => if s.absentPa l.out then .error (flt 0x1B (if l.bits = 30 then 1 else if l.bits = 21 then 2 else 3))
    else if !s.routed (l.out / 2 ^ 40) then .error { flt 0x18 (if l.bits = 30 then 1 else if l.bits = 21 then 2 else 3) with noRoute := true }
    else .ok l
  | .inval k => .error (flt 0x18 k)
  | .bad k => .error (flt 0x1B k)
  | .inner f => .error f

/-- The attributes of an access, combined from the two leaves (18 R356). -/
structure Attr where
  w1 : Bool := true
  w2 : Bool := true
  mt : Nat := 0
  loc : Bool := false
  rd : Bool := false
  ext : Bool := false
  sec : Bool := false
  ac : Bool := false
  tag : Nat := 0
  bits1 : Nat := 13
  bits2 : Nat := 13
  ipa : Nat := 0
  deriving DecidableEq, Repr

/-- The size of the page: the smaller of the two leaves (18 R356). -/
def Attr.pageSize (a : Attr) : Nat := 2 ^ min a.bits1 a.bits2

/-- How the translation of a byte ends: the address and its attributes, a fault, or a secure page reached from the
non-secure world. -/
inductive Tr
  | ok (pa : Nat) (a : Attr)
  | fault (f : FaultInfo)
  | world
  deriving DecidableEq, Repr

/-- A level-3 first-stage leaf that the device itself holds (a code page, a page of a block, a link row). -/
def hwPte (w x : Bool) : Pte :=
  { v := true, leaf := true, rsvd2 := false, s64 := false, mt := 0, prop := false, ext := false, w := w, x := x,
    rd := false, sec := false, ac := false, oa := 0, rsvd52 := 0, okey := 0 }

/-- A first-stage fault at a level of the walk of table `t` (18 R359, R363). -/
def walkFault (code level kind va t off : Nat) : FaultInfo :=
  { code := code, level := level, kind := kind, va := va,
    page := t * 2 ^ 50 + off / 2 ^ regionBits level * 2 ^ regionBits level, pageSize := 2 ^ regionBits level }

/-- A first-stage read of a page entry, at an IPA (18 R353): a poisoned entry is malformed (19 R375). -/
def State.rdStage1 (s : State) (c : Ctx) (kind va a : Nat) : Except FaultInfo (Option Nat) :=
  match s.walk2 c kind va a with
  | .ok l => .ok (if s.poisonedMem l.out 8 then none else some (ofLe (s.rdBytes (s.keyTag l.pte.okey) l.out 8)))
  | .error f => .error f

/-- The root-array entry of a table (18 R351): the address of its level-0 table. -/
def State.rootEntry (s : State) (c : Ctx) (kind va t off : Nat) : Except FaultInfo Nat :=
  match s.rdStage1 c kind va (c.s1root + 8 * t) with
  | .error f => .error f
  | .ok none => .error (walkFault 0x13 0 kind va t off)
  | .ok (some e) =>
    let p := Pte.ofNat e
    if !p.v then .error (walkFault 0x10 0 kind va t off)
    else if p.leaf || p.malformed false 0 [] then .error (walkFault 0x13 0 kind va t off)
    else .ok p.oa

/-- The first stage of an ordinary table (18 R351, R353): the root-array entry, then up to four levels, each read through
the second stage. -/
def State.walk1 (s : State) (c : Ctx) (kind va t off : Nat) : Except FaultInfo Leaf :=
  match s.rootEntry c kind va t off with
  | .error f => .error f
  | .ok oa => match walkFrom false (s.rdStage1 c kind va) off 4 oa 0 with
    | .leaf l => .ok l
    | .inval k => .error (walkFault 0x10 k kind va t off)
    | .bad k => .error (walkFault 0x13 k kind va t off)
    | .inner f => .error f

/-- Block index and slot within the block of slot number `q` of a sequence's addresses (06 R160, R161). -/
def Table.blockOf (t : Table) (q : Nat) : Nat × Nat :=
  if t.desc.win ≠ 0 ∧ t.desc.sink ≤ q then
    (ceilDiv t.desc.sink 256 + (q - t.desc.sink) / 256, (q - t.desc.sink) % 256)
  else (q / 256, q % 256)

/-- The block that holds the byte at an offset of a sequence, and the byte's place in it, if the block is mapped (18 R352). -/
def Table.blockAt (t : Table) (off : Nat) : Option (Nat × Nat) :=
  let q := off / t.desc.rowBytes
  let (b, i) := t.blockOf q
  (find b t.blocks).map fun id => (id, i * t.desc.rowBytes + off % t.desc.rowBytes)

/-- Where the byte at an offset of the SMC's event sequence is stored, if its block is there. -/
def Table.blockPa (t : Table) (off : Nat) : Option Nat := (t.blockAt off).map fun e => blockBase e.1 + e.2

/-- The IPA of the byte at an offset of a sequence, if its block is mapped (18 R352): a block keeps its IPAs in every sequence that shares it. -/
def State.slotIpa (s : State) (t : Table) (off : Nat) : Option Nat :=
  (t.blockAt off).map fun e => getD 0 s.blockIpas e.1 % 2 ^ 26 * 2 ^ 24 + e.2

/-- Where the byte at an offset of a sequence of a context is stored: its physical address and key; none where either stage does not map it. -/
def State.slotPlace (s : State) (c : Ctx) (t : Table) (off : Nat) : Option (Nat × Nat) :=
  (s.slotIpa t off).bind fun ipa => match s.walk2 c 3 0 ipa with
    | .ok l => some (l.out, s.keyTag l.pte.okey)
    | .error _ => none

/-- Steps 1–5 of R359 for the byte at `va`, but for the shard map of its table. `lk` is the launch whose code table 1 names;
`kind` is 0 read, 1 write, 2 fetch, 3 atomic or table. A sequence has its first-stage levels from its block map (R352): a block that is not
mapped faults at level 3 (log entry 10). Tables 6 and 7 are translated like any other, and their bytes are those that the hub and the SMC
write (21 R402, 23 R430). -/
def State.translate0 (s : State) (ck : Nat) (lk : Option Nat) (kind va : Nat) : Tr :=
  let c := s.ctx ck
  let t := va / 2 ^ 50
  let off := va % 2 ^ 50
  let range : Tr := .fault { code := 0x14, level := 0, kind := kind, va := va, page := t * 2 ^ 50, pageSize := 2 ^ 50 }
  let world (sec : Bool) (pa : Nat) (a : Attr) : Tr := if sec && !c.sec then .world else .ok pa a
  if t = 1 then
    match lk.bind fun k => (find k s.launches).map fun l => (k, l) with
    | none => range
    | some (k, l) =>
      if l.codesz ≤ off then range
      else
        let o := l.codeOff + off
        match l.codePages.getD (o / 8192) none with
        | none => .fault { code := 0x10, level := 3, kind := kind, va := va, page := va / 8192 * 8192, pageSize := 8192 }
        | some page =>
          let ipa := page + o % 8192
          match s.walk2 c kind va ipa with
          | .error f => .fault f
          | .ok lf =>
            if kind = 2 && !lf.pte.x then
              .fault { code := 0x1A, level := if lf.bits = 30 then 1 else if lf.bits = 21 then 2 else 3, kind := kind, va := va,
                       page := ipa / 2 ^ lf.bits * 2 ^ lf.bits, pageSize := 2 ^ lf.bits, ipa := ipa }
            else world lf.pte.sec (codeBase k + off)
              { w1 := false, w2 := lf.pte.w, mt := lf.pte.mt, loc := false, rd := lf.pte.rd, ext := lf.pte.ext,
                sec := lf.pte.sec, ac := lf.pte.ac, bits2 := lf.bits, ipa := ipa }
  else match c.table t with
    | none => range
    | some tb =>
      if t = 0 ∨ t = 2 ∨ !c.descOk tb.desc ∨ tb.capacity * tb.desc.rowBytes ≤ off then range
      else
        let first : Except FaultInfo Leaf :=
          if tb.desc.kind = 4 then
            match s.rootEntry c kind va t off with
            | .error f => .error f
            | .ok _ => match s.slotIpa tb off with
              | none => .error (walkFault 0x10 3 kind va t off)
              | some ipa => .ok { out := ipa, bits := 13, pte := hwPte (t != 7) false }
          else s.walk1 c kind va t off
        match first with
        | .error f => .fault f
        | .ok l1 =>
          match s.walk2 c kind va l1.out with
          | .error f => .fault f
          | .ok l2 =>
            let (pa, tag) := if t = 6 then (linkBase + off, 0)
              else if t = 7 then ((tb.blockPa off).getD 0, 0) else (l2.out, s.keyTag l2.pte.okey)
            world l2.pte.sec pa
              { w1 := l1.pte.w && t != 6, w2 := l2.pte.w, mt := max l1.pte.mt l2.pte.mt, loc := l1.pte.prop && l2.pte.prop,
                rd := l1.pte.rd || l2.pte.rd, ext := l1.pte.ext || l2.pte.ext, sec := l2.pte.sec, ac := l2.pte.ac,
                tag := tag, bits1 := l1.bits, bits2 := l2.bits, ipa := l1.out }

/-- An entry of a shard map (21 R405). -/
structure ShardEnt where
  base : Nat
  dev : Nat
  tbl : Nat
  rsvd : Bool
  deriving DecidableEq, Repr

/-- A shard map: whether its header is well-formed, its mode, and its entries. -/
structure ShardMap where
  headOk : Bool
  range : Bool
  ents : List ShardEnt
  deriving DecidableEq, Repr

/-- Read an unsigned number of `n` bytes of a context's memory. -/
def State.rdVa0 (s : State) (ck va n : Nat) : Option Nat :=
  ((List.range n).mapM fun i =>
    match s.translate0 ck none 0 (va + i) with
    | .ok pa a => some (s.rdByte a.tag pa)
    | _ => none).map ofLe

/-- The shard map at an address (21 R405). -/
def State.shardMap (s : State) (ck va : Nat) : Option ShardMap :=
  (s.rdVa0 ck va 32).bind fun h =>
    ((List.range (min 4096 (bitsAt h 48 16))).mapM fun i =>
      (s.rdVa0 ck (va + 32 + 16 * i) 16).map fun e =>
        ({ base := bitsAt e 64 64, dev := bitsAt e 22 12, tbl := bitsAt e 0 14,
           rsvd := bitsAt e 40 24 != 0 || bitsAt e 14 8 != 0 } : ShardEnt)).map fun es =>
      { headOk := decide (1 ≤ bitsAt h 48 16) && decide (bitsAt h 48 16 ≤ 4096) && bitsAt h 64 192 == 0 && bitsAt h 1 47 == 0,
        range := bitAt h 0, ents := es }

/-- Bases ascend from 0. -/
def basesRise : List ShardEnt → Bool
  | a :: b :: t => decide (a.base < b.base) && basesRise (b :: t)
  | _ => true

/-- The map meets the limits of R405 for a table of this kind. -/
def ShardMap.ok (m : ShardMap) (kind : Nat) : Bool :=
  m.headOk && (m.range == (kind == 0)) && m.ents.all (fun e => !e.rsvd)
    && (if m.range then (m.ents.headD ⟨1, 0, 0, false⟩).base == 0 && basesRise m.ents else m.ents.all fun e => e.base == 0)

/-- The table is not sharded, or its shard map is valid (06 R140, 21 R405). -/
def State.shardOk (s : State) (ck : Nat) (d : Desc) : Bool :=
  d.shard == 0 || (match s.shardMap ck d.shard with | some m => m.ok d.kind | none => false)

/-- Steps 1–5 of R359 for the byte at `va`. -/
def State.translate (s : State) (ck : Nat) (lk : Option Nat) (kind va : Nat) : Tr :=
  let t := va / 2 ^ 50
  match (s.ctx ck).table t with
  | some tb =>
    if s.shardOk ck tb.desc then s.translate0 ck lk kind va
    else .fault { code := 0x14, level := 0, kind := kind, va := va, page := t * 2 ^ 50, pageSize := 2 ^ 50 }
  | none => s.translate0 ck lk kind va

/-- Steps 7–8 of R359 for a write: W1, W2, RD. -/
def writeFault (va kind : Nat) (a : Attr) : Option FaultInfo :=
  let lv (b : Nat) := if b = 30 then 1 else if b = 21 then 2 else 3
  if !a.w1 then some { code := 0x11, level := lv a.bits1, kind := kind, va := va, page := va / 2 ^ a.bits1 * 2 ^ a.bits1,
                       pageSize := 2 ^ a.bits1 }
  else if !a.w2 then some { code := 0x19, level := lv a.bits2, kind := kind, va := va,
                            page := a.ipa / 2 ^ a.bits2 * 2 ^ a.bits2, pageSize := 2 ^ a.bits2, ipa := a.ipa }
  else if a.rd then some { code := 0x1C, level := lv a.bits2, kind := kind, va := va,
                           page := a.ipa / 2 ^ a.bits2 * 2 ^ a.bits2, pageSize := 2 ^ a.bits2, ipa := a.ipa }
  else none

/-! ### One access of a lane -/

/-- What an access must meet beyond its kind. -/
structure AccessKind where
  write : Bool
  /-- only pages of type N (05 R114) -/
  onlyN : Bool := false
  /-- only pages of type N or WC (11 R269) -/
  noDev : Bool := false
  /-- an atomic or table access, for the record -/
  atomic : Bool := false
  deriving DecidableEq, Repr

def AccessKind.code (k : AccessKind) : Nat := if k.atomic then 3 else if k.write then 1 else 0

/-- A piece of an access within one granule (05 R117). -/
structure Piece where
  va : Nat
  n : Nat
  pa : Nat := 0
  tag : Nat := 0
  mt : Nat := 0
  ext : Bool := false
  /-- the first byte of the page, where its combined AC is 1 (18 R370) -/
  home : Option Nat := none
  deriving DecidableEq, Repr

/-- The pieces of the `n` bytes at `va`, split at granule boundaries (05 R117); `fuel` bounds their number. DESIGN CHOICE (log entry 86): bytes of an
access that begins below offset 2^50 of its table and runs past it fall in the next table number; the spec does not say. -/
def splitPieces : Nat → Nat → Nat → List Piece
  | 0, _, _ => []
  | fuel + 1, va, n =>
    if n = 0 then []
    else
      let k := min n (16 - va % 16)
      { va := va, n := k } :: splitPieces fuel (va + k) (n - k)

/-- How the checks of one access end. `done` lists the pieces that passed before the end. -/
inductive Checked
  | ok (ps : List Piece)
  | trap (cause sub : Nat)
  | fault (f : FaultInfo) (done : List Piece)
  deriving DecidableEq, Repr

/-- The bytes overlap the key column of a row of a keyed table (06 R143). -/
def Ctx.hitsKeyCol (c : Ctx) (va n : Nat) : Bool :=
  match c.table (va / 2 ^ 50) with
  | some t => t.desc.keyCol != 0 && n != 0 &&
      (decide ((va % 2 ^ 50) % t.desc.rowBytes < t.desc.keyCol)
        || decide ((va % 2 ^ 50) / t.desc.rowBytes < (va % 2 ^ 50 + n - 1) / t.desc.rowBytes))
  | none => false

/-- How the checks of one piece end: it passes, or it fails at a step of 09 R235. -/
inductive PieceEnd
  | pass (p : Piece)
  | trap (step cause sub : Nat)
  | fault (step : Nat) (f : FaultInfo)
  deriving DecidableEq, Repr

def PieceEnd.step : PieceEnd → Nat | .pass _ => 8 | .trap k _ _ => k | .fault k _ => k

/-- Steps 4–7 of 09 R235 on one piece. `n` is the whole access's width and `va` its address, for the alignment rule of
device pages (05 R114). -/
def State.checkPiece (s : State) (ck : Nat) (lk : Option Nat) (k : AccessKind) (va n : Nat) (p : Piece) : PieceEnd :=
  match s.translate ck lk k.code p.va with
  | .fault f => .fault 4 f
  | .world => .trap 4 3 0x24
  | .ok pa a =>
    if (k.onlyN && a.mt != 0) || (k.noDev && decide (2 ≤ a.mt)) then .trap 5 3 0x20
    else if decide (2 ≤ a.mt) && (va % n != 0 || decide (16 < n)) then .trap 5 2 2
    else if k.write && (s.ctx ck).hitsKeyCol p.va p.n then .trap 6 3 0x22
    else if k.write && p.va / 2 ^ 50 == 1 then .trap 7 3 0x25
    else
      match (if k.write then writeFault p.va k.code a else none) with
      | some f => .fault 7 f
      | none => .pass { p with pa := pa, tag := a.tag, mt := a.mt, ext := a.ext, home := if a.ac then some (pa / a.pageSize * a.pageSize) else none }

/-- The pieces that pass before the first that does not. -/
def passing : List PieceEnd → List Piece
  | .pass p :: t => p :: passing t
  | _ => []

/-- How an access ends whose pieces end so: the earliest step that some piece fails decides, and of the pieces that fail it the first. -/
def earliest (es : List PieceEnd) : Checked :=
  match es.find? fun e => e.step == (es.map PieceEnd.step).foldl min 8 with
  | some (.trap _ c b) => .trap c b
  | some (.fault _ f) => .fault f (passing es)
  | _ => .ok (passing es)

/-- Steps 3–7 of 09 R235 for one access of a party at level `lvl`. -/
def State.checkAccess (s : State) (ck : Nat) (lk : Option Nat) (lvl : Nat) (k : AccessKind) (va n : Nat) : Checked :=
  let t := va / 2 ^ 50
  if 2 ≤ t ∧ t ≤ 15 ∧ !(t ≠ 2 && s.sysMapped ck lvl t) then .trap 3 0x26
  else
    earliest ((splitPieces (n / 16 + 2) va n).map (s.checkPiece ck lk k va n))

/-- The numbers under which the world of a block is held (16 R310; log entry 91): a unit has its own; then the rake unit of a slice, the copy and
decompression engines of a core, and Sluice. -/
def rakeBlock (slice : Nat) : Nat := 896 + slice % 64
def engineBlock (unit : Nat) : Nat := if unit < Config.cores then 1024 + unit else unit
def sluiceBlock : Nat := 2048

/-- The device as a block that acts for a context finds it: a non-secure block is a non-secure party for the context's accesses (16 R310). -/
def State.viaBlock (s : State) (ck block : Nat) : State :=
  if getD true s.world block then s else s.setCtx ck { s.ctx ck with sec := false }

/-- The address and byte pairs of checked pieces. -/
def piecesAddrs (ps : List Piece) : List (Nat × Nat) :=
  ps.flatMap fun p => (List.range p.n).map fun i => (p.pa + i, p.tag)

/-- A unit that reads these pieces meets poisoned data (19 R375). -/
def State.badRead (s : State) (unit : Nat) (ps : List Piece) : Bool := ps.any fun p => s.poisonedMem p.pa p.n || s.poisonedL1 unit p.pa p.n

/-- Address formation of the memory forms (09 R219): none where the offset leaves the table. -/
def formAddr (base : Nat) (d : Int) : Option Nat :=
  let off : Int := (base % 2 ^ 50 : Nat) + d
  if off < 0 ∨ (2 ^ 50 : Int) ≤ off then none else some (base / 2 ^ 50 * 2 ^ 50 + off.toNat)

end Sys2Proof.Machine
end

