-- ==== Sys2Proof/Machine/Seq.lean ====
section
/-! DEFINITION. Sequences: position states, committed length, blocks and their counts (06 R156–R164, 10 R307), and the
records that the device itself appends (16 R314, 17 R334, 23 R430). -/

namespace Sys2Proof.Machine

/-! ### Position states -/

/-- The state of a position: none where it is free, or committed below C (06 R156). -/
def Table.posSt (t : Table) (p : Nat) : Option PosSt :=
  match find p t.pos with
  | some x => some x
  | none => if p < t.c then some .committed else none

/-- The position is reserved. -/
def Table.isReserved (t : Table) (p : Nat) : Bool :=
  match find p t.pos with | some (.reserved _) => true | _ => false

/-- Raise C over positions that are committed or void (06 R157); `fuel` bounds the rise. -/
def Table.raiseC : Nat → Table → Table
  | 0, t => t
  | fuel + 1, t =>
    if t.c < t.r then
      match find t.c t.pos with
      | some .committed => Table.raiseC fuel { t with c := t.c + 1, pos := erase t.c t.pos }
      | some .void => Table.raiseC fuel { t with c := t.c + 1 }
      | _ => t
    else t

/-- Set positions `a … a+n-1` and raise C. -/
def Table.mark (t : Table) (a n : Nat) (st : PosSt) : Table :=
  let t := { t with pos := (List.range n).foldl (fun m i => insert (a + i) st m) t.pos }
  Table.raiseC (t.r - t.c) t

/-- Reserve `n` positions for a node (06 R156). -/
def Table.reserve (t : Table) (n node : Nat) : Table :=
  { t with r := t.r + n, pos := (List.range n).foldl (fun m i => insert (t.r + i) (.reserved node) m) t.pos }

/-- Mark void every position that a node still has reserved (06 R159). -/
def Table.abandon (t : Table) (node : Nat) : Table :=
  let t := { t with pos := t.pos.map fun e => if e.2 = .reserved node then (e.1, .void) else e }
  Table.raiseC (t.r - t.c) t

/-- System abandonment of a node's reservations in every sequence of its context (06 R159). -/
def State.abandonNode (s : State) (ck nk : Nat) : State :=
  let c := s.ctx ck
  s.setCtx ck { c with tables := c.tables.map fun e => (e.1, e.2.abandon nk) }

/-! ### Blocks -/

/-- The number of stacks in use (10 R307, 23 R426). -/
def State.stackCount (s : State) : Nat := Config.stackNum - s.smc.stacksOut.length

/-- A new block for block index `b` of table `t` (10 R307): its number. Its rake unit gives it IPAs (18 R352), which ones is free (log entry 10). -/
def State.newBlock (s : State) (t b : Nat) : State × Nat :=
  let id := s.nextId
  ({ s with nextId := id + 1, blockRef := insert id (1, (t + b) % max 1 s.stackCount) s.blockRef,
            blockIpas := put 0 id (Config.blockIpa id) s.blockIpas }, id)

/-- Allocate the blocks with these indexes for a table, where it holds none. -/
def State.allocBlocks (s : State) (ck t : Nat) (idx : List Nat) : State :=
  idx.foldl (fun s b =>
    let c := s.ctx ck
    match find t c.tables with
    | none => s
    | some tb =>
      if (find b tb.blocks).isSome then s
      else
        let (s, id) := s.newBlock t b
        s.setCtx ck ((s.ctx ck).setTable t { tb with blocks := insert b id tb.blocks })) s

/-- The block indexes of a windowed sequence or of a pool, allocated when it is installed (10 R307). -/
def Desc.fixedBlocks (d : Desc) : List Nat :=
  if d.win ≠ 0 then List.range (ceilDiv d.sink 256 + d.win / 256)
  else if d.pl then List.range (d.cap / 256) else []

/-- One reference less to a block (06 R160). A block without references is freed, or goes back to the pool that lent
it (06 R164). -/
def State.unrefBlock (s : State) (id : Nat) : State :=
  match find id s.blockRef with
  | none => s
  | some (n, st) =>
    if 1 < n then { s with blockRef := insert id (n - 1, st) s.blockRef }
    else match find id s.lent with
      | none => { s with blockRef := erase id s.blockRef, blockIpas := erase id s.blockIpas }
      | some (ck, pool, b) =>
        let c := s.ctx ck
        let s := { s with lent := erase id s.lent, blockRef := insert id (1, st) s.blockRef }
        s.setCtx ck { c with tables := adjust pool (fun t => { t with blocks := insert b id t.blocks }) c.tables }

def State.refBlock (s : State) (id : Nat) : State :=
  { s with blockRef := adjust id (fun e => (e.1 + 1, e.2)) s.blockRef }

/-- The byte offset of position `p` (06 R161). -/
def Table.posOff (t : Table) (p : Nat) : Nat :=
  if t.desc.win ≠ 0 ∧ t.desc.sink ≤ p then (t.desc.sink + (p - t.desc.sink) % t.desc.win) * t.desc.rowBytes
  else p * t.desc.rowBytes

/-! ### Records that the device appends -/

/-- The byte offsets and lengths of the stretches of `n` bytes at an offset that lie in one page each (18 R353); `fuel` bounds their number. -/
def pageRuns : Nat → Nat → Nat → List (Nat × Nat)
  | 0, _, _ => []
  | fuel + 1, off, n =>
    if n = 0 then []
    else
      let k := min n (8192 - off % 8192)
      (off, k) :: pageRuns fuel (off + k) (n - k)

/-- Where the `n` bytes at an offset of a sequence are stored: address, key and length of each stretch; none where some page is not mapped. -/
def State.slotRuns (s : State) (c : Ctx) (t : Table) (off n : Nat) : Option (List (Nat × Nat × Nat)) :=
  (pageRuns (n / 8192 + 2) off n).mapM fun e => (s.slotPlace c t e.1).map fun p => (p.1, p.2, e.2)

/-- Write bytes over stretches of storage. -/
def State.wrRuns (s : State) : List (Nat × Nat × Nat) → List Byte → State
  | [], _ => s
  | (pa, tag, n) :: t, bs => (s.wrBytes tag pa (bs.take n)).wrRuns t (bs.drop n)

/-- Read the bytes of stretches of storage. -/
def State.rdRuns (s : State) (rs : List (Nat × Nat × Nat)) : List Byte := rs.flatMap fun e => s.rdBytes e.2.1 e.1 e.2.2

/-- Reserve, write and commit one record in one step (16 R314). The bytes of a record whose slot is not mapped are lost (log entry 87). -/
def State.appendSlot (s : State) (ck t : Nat) (bs : List Byte) : State × Nat :=
  let c := s.ctx ck
  match find t c.tables with
  | none => (s, 0)
  | some tb =>
    let p := tb.r
    let s := match s.slotRuns c tb (tb.posOff p) bs.length with
      | some rs => s.wrRuns rs bs
      | none => s
    let tb := (tb.reserve 1 0).mark p 1 .committed
    (s.setCtx ck ((s.ctx ck).setTable t tb), p)

/-- An interrupt message to send (21 R400), merged with one of the same context and vector not yet taken. -/
def State.raiseIrq (s : State) (ck v : Nat) : State :=
  if s.interrupts.contains (ck, v) then s else { s with interrupts := s.interrupts ++ [(ck, v)] }

/-- The fields of a trap record (16 R315, 18 R363). -/
structure TrapRec where
  state : Nat := 0
  serial : Nat := 0
  launchId : Nat
  frag : Nat
  warp : Nat
  node : Nat
  lanes : Nat
  epc : Nat
  dbl : Bool := false
  from_ : Nat
  sub : Nat
  cause : Nat
  args : List (Nat × Nat)
  deriving DecidableEq, Repr

/-- The 1,024 bytes of a record (16 R315). -/
def TrapRec.bytes (r : TrapRec) : List Byte :=
  leBytes 64 (r.cause + r.sub * 2 ^ 8 + r.from_ * 2 ^ 16 + flagNat r.dbl * 2 ^ 24 + r.epc % 2 ^ 32 * 2 ^ 64
      + r.lanes * 2 ^ 96 + r.node * 2 ^ 176 + r.warp * 2 ^ 192 + r.frag * 2 ^ 201 + r.launchId * 2 ^ 224
      + r.serial * 2 ^ 256 + r.state * 2 ^ 320)
    ++ (allLanes.flatMap fun l => leBytes 8 ((find l r.args).getD 0)) ++ List.replicate 704 0

/-- The record of a fragment that is not resolved. -/
def Frag.openRec (g : Frag) : Option RecRef :=
  match g.esc with
  | some e => if g.action.isSome then none else e.ref
  | none => g.park.bind (·.open_)

/-- A further record of a trap sequence waits (16 R314): the unresolved ones fill the window, or the slot that it would take still holds one of them,
with STATE HELD; or the slot is not mapped, and the append is retried as any access that faults (log entry 87). -/
def State.trapFull (s : State) (ck tbl : Nat) : Bool :=
  let c := s.ctx ck
  match find tbl c.tables with
  | none => true
  | some tb =>
    decide (Config.trapWindow ≤ if tbl = 8 then c.grecs else c.hrecs) || (s.slotRuns c tb (tb.posOff tb.r) 1024).isNone
      || (decide (Config.trapWindow ≤ tb.r) && (s.slotPlace c tb (tb.posOff tb.r)).any fun p => (s.rdByte p.2 (p.1 + 40)).toNat % 4 == 0)

/-- Append a trap record to table 8 or 9 (16 R314): none while it waits. -/
def State.appendTrap (s : State) (ck tbl : Nat) (r : TrapRec) : Option (State × RecRef) :=
  let c := s.ctx ck
  if s.trapFull ck tbl then none
  else
    let serial := if tbl = 8 then c.serialG else c.serialH
    let (s, p) := s.appendSlot ck tbl ({ r with serial := serial } : TrapRec).bytes
    let c := s.ctx ck
    let c := if tbl = 8 then { c with grecs := c.grecs + 1, serialG := c.serialG + 1 }
             else { c with hrecs := c.hrecs + 1, serialH := c.serialH + 1 }
    some ((s.setCtx ck c).raiseIrq ck (if tbl = 8 then 1 else 2), ⟨tbl, p⟩)

/-- Where a record of a trap sequence lies: its address and key. -/
def State.recPlace (s : State) (ck : Nat) (r : RecRef) : Option (Nat × Nat) :=
  (find r.tbl (s.ctx ck).tables).bind fun tb => s.slotPlace (s.ctx ck) tb (tb.posOff r.pos)

/-- Write STATE of a record, which lies at `place`, and count it resolved (16 R321, 18 R363). -/
def State.resolveAt (s : State) (ck : Nat) (r : RecRef) (place : Option (Nat × Nat)) (state : Nat) : State :=
  let s := match place with | some (pa, tag) => s.wrByte tag (pa + 40) (BitVec.ofNat 8 state) | none => s
  let c := s.ctx ck
  s.setCtx ck (if r.tbl = 8 then { c with grecs := c.grecs - 1 } else { c with hrecs := c.hrecs - 1 })

/-- Resolve a record of a trap sequence. -/
def State.resolveRec (s : State) (ck : Nat) (r : RecRef) (state : Nat) : State := s.resolveAt ck r (s.recPlace ck r) state

end Sys2Proof.Machine
end

