-- ==== Sys2Proof/Machine/Life.lean ====
section
/-! DEFINITION. The life of a node and of its launch: completion, failure, cancellation, kill, and the completion
records (01 R14, R44, R45; 17 R334, R347). -/

namespace Sys2Proof.Machine

def State.setNode (s : State) (k : Nat) (n : Node) : State := { s with nodes := insert k n s.nodes }
def State.setWarp (s : State) (k : Nat) (w : Warp) : State := { s with warps := insert k w s.warps }
def State.setLaunch (s : State) (k : Nat) (l : Launch) : State := { s with launches := insert k l s.launches }

/-- Write bytes at a virtual address of a context as the device does, as one write; a byte that does not translate is dropped. -/
def State.wrVirt (s : State) (ck : Nat) (va : Nat) (bs : List Byte) : State :=
  s.wrAll (bs.zipIdx.filterMap fun e => match s.translate ck none 1 (va + e.2) with
    | .ok pa a => some (a.tag, pa, e.1)
    | _ => none)

/-- Read bytes at a virtual address of a context, page by page (18 R353); none where a page does not translate. -/
def State.rdVirt (s : State) (ck : Nat) (va n : Nat) : Option (List Byte) :=
  ((pageRuns (n / 8192 + 2) va n).mapM fun (e : Nat × Nat) =>
    match s.translate ck none 0 e.1 with
    | .ok pa a => some (s.rdBytes a.tag pa e.2)
    | _ => none).map List.flatten

/-- A completion record (17 R334): only that of a launch that failed carries its cause. -/
def completionRec (l : Launch) (kind reason node : Nat) : List Byte :=
  leBytes 64 (kind + reason * 2 ^ 8 + (if kind = 1 then l.cause * 2 ^ 32 + l.sub * 2 ^ 40 else 0) + l.id * 2 ^ 64 + l.tag * 2 ^ 96
    + node * 2 ^ 128 + l.doneN * 2 ^ 160 + l.failN * 2 ^ 192 + l.cancN * 2 ^ 224)

/-- Append a record to the completion sequence and signal it (17 R334, 21 R400). -/
def State.appendCompletion (s : State) (ck : Nat) (bs : List Byte) : State :=
  (s.appendSlot ck 4 bs).1.raiseIrq ck 0

/-- The key of a node by its index in a launch. -/
def State.nodeKey (s : State) (lk idx : Nat) : Option Nat := (find lk s.launches).bind fun l => l.nodes[idx]?

def NodeSt.final : NodeSt → Bool | .done => true | .failed => true | .cancelled => true | _ => false

/-- A node becomes ready (01 R14, 17 R336). -/
def State.makeReady (s : State) (nk : Nat) : State :=
  let f (n : Node) : Node := { n with st := .ready, level := n.desc.prio, entered := s.hub, blocked := false }
  { s with nodes := adjust nk f s.nodes }

/-- The successors of a node that is done: each pending count falls by one (01 R14). -/
def State.releaseSuccs (s : State) (lk : Nat) (succ : List Nat) : State :=
  succ.foldl (fun s i =>
    match s.nodeKey lk i with
    | none => s
    | some k =>
      let s := { s with nodes := adjust k (fun n => { n with pending := n.pending - 1 }) s.nodes }
      match find k s.nodes with
      | some n => if n.pending = 0 ∧ n.st = .waiting then s.makeReady k else s
      | none => s) s

/-- Cancel the nodes reachable from these successors (01 R14); `fuel` bounds the depth. -/
def State.cancelSuccs (s : State) (lk : Nat) : Nat → List Nat → State
  | 0, _ => s
  | fuel + 1, succ =>
    succ.foldl (fun s i =>
      match s.nodeKey lk i with
      | none => s
      | some k =>
        match find k s.nodes with
        | none => s
        | some n =>
          if n.st.final then s
          else
            let s := s.setNode k { n with st := .cancelled }
            let s := { s with launches := adjust lk (fun l => { l with cancN := l.cancN + 1 }) s.launches }
            s.cancelSuccs lk fuel n.desc.succ) s

/-- A held request of a node of the launch has not been performed, or a command of the launch is not complete: the launch's record is a release over
them (17 R334). -/
def State.launchOut (s : State) (lk : Nat) (l : Launch) : Bool :=
  ((s.held ++ s.atomQ ++ s.rakeQ).any fun r => l.nodes.contains r.node) || s.cmds.any fun c => c.launch == lk

/-- The launch's own record is due: every node is final, and all that its nodes sent has been performed (17 R334). -/
def State.closes (s : State) (lk : Nat) (l : Launch) : Bool :=
  !l.closed && (l.nodes.all fun k => match find k s.nodes with | some n => n.st.final | none => true) && !s.launchOut lk l

/-- Append the launch's own record once it is due (17 R334). -/
def State.closeLaunch (s : State) (lk : Nat) : State :=
  match find lk s.launches with
  | none => s
  | some l =>
    if s.closes lk l then
      let kind := if l.failN = 0 then 0 else 1
      ({ s with launches := adjust lk (fun l => { l with closed := true }) s.launches } : State).appendCompletion l.ctx
        (completionRec l kind l.reason (l.firstFail.getD 0))
    else s

def isCtxs : Instr → Bool | .ctxs _ => true | _ => false
def isCtxl : Instr → Bool | .ctxl _ => true | _ => false

/-- The `CTXS` whose pre-emption ends writes its completion word (16 R322). -/
def State.preDone (s : State) (p : Preempt) : State :=
  match p.done with
  | none => s
  | some pa =>
    { s.wrBytes p.doneTag pa (leBytes 8 1) with
      cmds := s.cmds.filter fun c => !(isCtxs c.instr && c.ready && c.donePa == pa && c.doneTag == p.doneTag) }

/-- A pre-emption that a retirement or a kill overtakes ends PRE_NONE; the area a `CTXS` named gets STATUS NONE and its
command completes (17 R347, 16 R322). -/
def State.preNone (s : State) (nk : Nat) : State :=
  match find nk s.nodes with
  | none => s
  | some n =>
    match n.pre, find n.launch s.launches with
    | some p, some l =>
      let s := s.appendCompletion n.ctx (completionRec l 5 0 n.idx)
      let s := match p.area with
        | some va => s.wrVirt p.ctx va (leBytes 8 (0x58465453 + 2 ^ 32 + 2 ^ 48))
        | none => s
      let s := s.preDone p
      s.setNode nk { n with pre := none }
    | _, _ => s

/-- The warps of a node. -/
def State.warpsOf (s : State) (nk : Nat) : List (Nat × Warp) := s.warps.filter fun e => e.2.node == nk

/-! ### Barriers (01 R23) -/

/-- Every live lane of the warp waits at the barrier of group `g` (01 R23). -/
def Warp.arrived (w : Warp) (g : Nat) : Bool :=
  w.lanes.all fun y => y.st == .exited || y.st == .never || (y.st == .waiting && y.wait == .bar g)

/-- The warps of a member of a group: node index and warp index (01 R20). -/
def State.memberWarps (s : State) (lk : Nat) (m : Nat × Nat) : List (Nat × Warp) :=
  match s.nodeKey lk m.1 with
  | none => []
  | some k => s.warps.filter fun e => e.2.node == k && e.2.idx == m.2 && (match e.2.role with | .warp => true | _ => false)

/-- A request of a node whose warp has retired has not been performed. -/
def State.leftOver (s : State) (nk : Nat) : Bool :=
  (s.held ++ s.atomQ ++ s.rakeQ).any fun r => r.node == nk && (find r.who.warp s.warps).isNone

/-- A member has arrived or retired: its node runs (or ran) and no warp of it is short of the barrier; once it has no warp, the requests that
its node's retired warps left behind have been performed, so that what was visible to it at its exit is visible to the lanes released (05 R132).
DESIGN CHOICE (log entry 83): R20 lets a member name a warp slot in which no warp is launched (an index at or past ⌈L/32⌉), and a warp of a node
that is cancelled. Neither ever arrives or retires; both count here as retired, the one from the start, the other once its node is cancelled. -/
def State.memberDone (s : State) (lk g : Nat) (m : Nat × Nat) : Bool :=
  let ws := s.memberWarps lk m
  (match s.nodeKey lk m.1 with
    | some k => (match find k s.nodes with
      | some n => (n.st == .running || n.st == .saved || n.st.final) && (!ws.isEmpty || !s.leftOver k)
      | none => true)
    | none => true) && ws.all fun e => e.2.arrived g

/-- Complete the barrier of a group when every member has arrived or retired (01 R23). -/
def State.tryBarrier (s : State) (lk g : Nat) : State :=
  match (find lk s.launches).bind fun l => l.groups[g]? with
  | none => s
  | some gr =>
    if gr.bar && gr.members.all (s.memberDone lk g) then
      let keys := gr.members.flatMap fun m => (s.memberWarps lk m).map (·.1)
      let free (w : Warp) : Warp :=
        { w with lanes := w.lanes.map fun y => if y.wait = .bar g then { y with st := .running, wait := .none } else y }
      { s with warps := s.warps.map fun e => if keys.contains e.1 then (e.1, free e.2) else e }
    else s

/-- Try every barrier of a launch. -/
def State.tryBarriers (s : State) (lk : Nat) : State :=
  match find lk s.launches with
  | none => s
  | some l => (List.range l.groups.length).foldl (fun s g => s.tryBarrier lk g) s

/-- A request has been performed: where its warp has retired, barriers that waited for it are tried again (05 R132). -/
def State.settle (s : State) (r : Req) : State :=
  if (find r.who.warp s.warps).isSome then s
  else match find r.node s.nodes with
    | some n => s.tryBarriers n.launch
    | none => s

/-- All open cursors of a node close when it ends (06 R148). -/
def State.closeNodeCursors (s : State) (ck nk : Nat) : State :=
  let c := s.ctx ck
  let shut (t : Table) : Table := { t with cursors := t.cursors.map fun r => if r.node = nk then { r with open_ := false } else r }
  s.setCtx ck { c with tables := c.tables.map fun e => (e.1, shut e.2) }

/-- An abort with REDUND lets no entry since the checkpoint leave the compare buffer (19 R390), those that have matched and are under their hold among
them. -/
def State.dropEntries (s : State) (n : Node) : State :=
  let mine (r : Req) : Bool := n.pairs.any fun p => decide (p.since ≤ r.id) && p.copies.any fun c => c.warp == r.who.warp
  { s with held := s.held.filter fun r => match r.kind with | .atomic _ => true | _ => !mine r }

/-- A node ends (01 R14, R44, R45): its warps go, its launch counts it, its successors are released or cancelled. -/
def State.endNode (s : State) (nk : Nat) (ok : Bool) (reason cause sub : Nat) : State :=
  match find nk s.nodes with
  | none => s
  | some n =>
    if n.st.final then s
    else
      let s := (s.abandonNode n.ctx nk).closeNodeCursors n.ctx nk
      let s := s.preNone nk
      let n := (find nk s.nodes).getD n
      let s := s.setNode nk { n with st := if ok then .done else .failed, pre := none, savedCmds := [], savedTasks := [], pairs := [] }
      let s := if reason = 0x11 then s.dropEntries n else s
      let mine (f : FePend) : Bool := match find f.who.warp s.warps with | some w => w.node == nk | none => true
      let abort (c : Cmd) : Cmd := if c.node = nk ∧ ok = false then { c with aborted := true } else c
      let s := { s with
        fePend := s.fePend.filter fun f => !mine f
        casts := s.casts.filter fun c => c.node != nk
        tileQ := s.tileQ.filter fun t => t.node != nk
        warps := s.warps.filter fun e => e.2.node != nk
        deques := s.deques.map fun (e : Nat × List Task) => (e.1, e.2.filter fun t => t.node != nk)
        cmds := (s.cmds ++ n.savedCmds).map abort }
      let s := s.tryBarriers n.launch
      let upd (l : Launch) : Launch :=
        if ok then { l with doneN := l.doneN + 1 }
        else if l.firstFail.isSome then { l with failN := l.failN + 1 }
        else { l with failN := l.failN + 1, firstFail := some n.idx, reason := reason, cause := cause, sub := sub }
      let s := { s with launches := adjust n.launch upd s.launches }
      let s := if ok then s.releaseSuccs n.launch n.desc.succ
               else s.cancelSuccs n.launch ((find n.launch s.launches).elim 0 fun l => l.nodes.length) n.desc.succ
      s.closeLaunch n.launch

/-- Kill a node (01 R45): reason, cause and subcode as the launch's record shows them (17 R334). -/
def State.killNode (s : State) (nk reason cause sub : Nat) : State := s.endNode nk false reason cause sub

end Sys2Proof.Machine
end

