-- ==== Sys2Proof/Machine/Place.lean ====
section
/-! DEFINITION. What a core or pan unit has free, and the core sets that a node fits (01 R16, R18, R19; 17 R338, R339). -/

namespace Sys2Proof.Machine

/-- The cores of a cluster, numbered 0–95 over the device, and the pan units of a stack. -/
def clusterUnits (c : Nat) : List Nat := (List.range 8).map fun k => c * 8 + k
def stackUnits (k : Nat) : List Nat := (List.range 16).map fun i => Config.cores + k * 16 + i

/-- Every unit of a node, of all its copies. -/
def Node.allUnits (n : Node) : List Nat := n.units ++ n.units2 ++ n.units3
/-- The units of one copy (19 R382). -/
def Node.copyUnits (n : Node) (k : Nat) : List Nat := if k = 0 then n.units else if k = 1 then n.units2 else n.units3

/-- Slots that a node takes in a quadrant (17 R339), and in a pan unit. -/
def Node.slotsIn (n : Node) (q : Nat) : Nat := if n.desc.pan then n.desc.w else ceilDiv (n.desc.w - q) 4

/-- A node that has ended keeps its partition while a node with a member warp in a WIN group that it owns has not (05 R111). -/
def State.lingers (s : State) (n : Node) : Bool :=
  n.st.final && (find n.launch s.launches).elim false fun l => l.groups.any fun g =>
    g.win && g.members.head?.elim false (fun m => m.1 == n.idx) && g.members.any fun m =>
      m.1 != n.idx && ((l.nodes[m.1]?).bind fun k => find k s.nodes).elim false fun q => q.st == .running || q.st == .saved

/-- Running nodes on a unit, and nodes that hold banks there. -/
def State.running (s : State) (u : Nat) : List Node :=
  (s.nodes.map (·.2)).filter fun n => n.st == .running && n.allUnits.contains u
def State.holding (s : State) (u : Nat) : List Node :=
  (s.nodes.map (·.2)).filter fun n => (n.st == .running || n.st == .saved || s.lingers n) && n.allUnits.contains u

/-- Runs of a unit's partition storage: 16 each. -/
def runsPerUnit : Nat := 16

/-- Two stretches of runs of a unit meet. -/
def runsMeet (a n b m : Nat) : Bool := decide (a < b + m) && decide (b < a + n)

/-- The `n` runs from `b` on are free on a unit. -/
def State.runsFree (s : State) (u b n : Nat) : Bool :=
  decide (b + n ≤ runsPerUnit) && (s.holding u).all fun h => !runsMeet (h.bankOn u) h.desc.scr b n

/-- The channels that a node binds, with its launch, whose own they are (12 R300). -/
def Node.channels (n : Node) : List Nat := n.desc.qbind.filterMap fun b => if bitAt b 7 then some (n.launch * 16 + b % 16) else none

/-- The channels that the running nodes on a cluster bind. -/
def State.channelsOn (s : State) (c : Nat) : List Nat := ((clusterUnits c).flatMap fun u => (s.running u).flatMap Node.channels).eraseDups

/-- The channels that a node binds beside those bound on a unit's cluster are within its 16 (12 R300). -/
def State.channelRoom (s : State) (n : Node) (u : Nat) : Bool :=
  n.channels.isEmpty || decide ((s.channelsOn (u / 8) ++ n.channels).eraseDups.length ≤ 16)

/-- Slots, register budget, tiles and queue channels of a node are free on a unit (17 R335, R339). -/
def State.roomOn (s : State) (n : Node) (u : Nat) : Bool :=
  let rs := s.running u
  let quads := if n.desc.pan then [0] else [0, 1, 2, 3]
  let cap := if n.desc.pan then 4 else 16
  (quads.all fun q =>
    decide ((rs.map fun r => r.slotsIn q).sum + n.slotsIn q ≤ cap)
      && decide ((rs.map fun r => r.slotsIn q * (r.desc.n + 16)).sum + n.slotsIn q * (n.desc.n + 16) ≤ 1024))
    && decide ((rs.map fun r => r.desc.t).sum + n.desc.t ≤ 32) && s.channelRoom n u

/-- The block's world is that of the node's context (16 R310). -/
def State.worldOk (s : State) (ck u : Nat) : Bool := getD true s.world u == (s.ctx ck).sec

/-- The first free run of a unit for a node's partition (17 R339). -/
def State.freeRun (s : State) (n : Node) (u : Nat) : Option Nat :=
  if n.desc.scr = 0 then some 0 else (List.range runsPerUnit).find? fun b => s.runsFree u b n.desc.scr

/-- A unit can take a node (17 R339): with `room` for its warps and tiles, or for its partition alone, as a move asks (R346). -/
def State.fits (s : State) (room : Bool) (n : Node) (u : Nat) : Bool :=
  (!room || s.roomOn n u) && s.worldOk n.ctx u && (s.freeRun n u).isSome

/-- The first free run on each unit of a set. -/
def State.runsOn (s : State) (n : Node) (us : List Nat) : List (Nat × Nat) := us.map fun u => (u, (s.freeRun n u).getD 0)

/-- The sublists of a length, those of the first elements first. -/
def choose : List Nat → Nat → List (List Nat)
  | _, 0 => [[]]
  | [], _ + 1 => []
  | x :: t, k + 1 => (choose t k).map (x :: ·) ++ choose t (k + 1)

/-- A core set for a copy of a node, on a die outside `dies`, otherwise on any where the rule allows it (19 R382, R389). -/
def State.fitCopy (s : State) (room : Bool) (n : Node) (dies : List Nat) (strict : Bool) : Option (List Nat) :=
  let at_ (c : Nat) : Option (List Nat) :=
    let us := ((clusterUnits c).filter fun u => s.fits room n u && !n.allUnits.contains u).take n.desc.c
    if us.length < n.desc.c then none else some us
  match ((List.range 96).filter fun c => !dies.contains (c / 12)).findSome? at_ with
  | some us => some us
  | none => if strict then none else (List.range 96).findSome? at_

/-- Physical slots of a unit that running nodes hold (17 R340). -/
def State.usedSlots (s : State) (u : Nat) : List Nat :=
  (s.nodes.filter fun e => e.2.st == .running).flatMap fun e => (e.2.slots.filter fun b => b.1 / 64 == u).map (·.2)

/-- Bind every local slot of a node on a unit to the lowest free physical slot of its quadrant (17 R340). Slots of quadrant
`q` are numbered from `16 * q`. -/
def Node.bindSlots (used : List Nat) (n : Node) (u : Nat) : Node :=
  (List.range n.desc.w).foldl (fun (n : Node) j =>
    let cand := if n.desc.pan then List.range 4 else (List.range 16).map fun k => j % 4 * 16 + k
    let mine := (n.slots.filter fun b => b.1 / 64 == u).map (·.2)
    let slot := (cand.find? fun k => !used.contains k && !mine.contains k).getD 0
    { n with slots := insert (u * 64 + j) slot n.slots }) n

/-- The physical slot of a local slot. -/
def Node.slotOf (n : Node) (u j : Nat) : Nat := getD 0 n.slots (u * 64 + j)

end Sys2Proof.Machine
end

