-- ==== Sys2Proof/Machine/Start.lean ====
section
/-! DEFINITION. The state in which a warp starts (01 R16, R17, R22, R37, R43). -/

namespace Sys2Proof.Machine

/-- The groups of a launch that name a warp, ascending (01 R22). -/
def Launch.groupsOf (l : Launch) (ni idx : Nat) : List Nat :=
  (List.range l.groups.length).filter fun g =>
    match l.groups[g]? with | some gr => gr.members.contains (ni, idx) | none => false

/-- The `GRPS` value of these memberships (01 R22). -/
def grpsOf (gs : List Nat) : W64 :=
  BitVec.ofNat 64 (((gs.take 4).zipIdx.map fun e => e.1 * 2 ^ (8 * e.2) + 2 ^ (32 + e.2)).foldl (· + ·) 0)

/-- The registers of a warp that casts deliver to, with their cast-full bits clear (01 R43, 12 R299). -/
def NodeDesc.castRegs (d : NodeDesc) (j : Nat) : List (Nat × Bool) :=
  if d.cast then
    (d.casts.filter fun e => bitAt e.toNat (j % 4) && bitsAt e.toNat 16 6 == j).foldl
      (fun m e => insert (bitsAt e.toNat 8 8) false m) []
  else []

/-- The registers of a sequencer that casts deliver to (12 R299). -/
def NodeDesc.castSregs (d : NodeDesc) (kind : Nat) : List (Nat × Bool) :=
  if d.cast then
    (d.casts.filter fun e => bitAt e.toNat (4 + kind)).foldl (fun m e => insert (bitsAt e.toNat 48 6) false m) []
  else []

/-- A fresh warp of a node at an entry point, with `launched` lanes and these scalar registers (01 R16, R17). -/
def freshWarp (nk : Nat) (n : Node) (idx unit copy entry launched : Nat) (role : Role) (grps : W64) (params : List (Nat × W64)) : Warp :=
  let j := idx % max 1 n.desc.w
  { node := nk, idx := idx, unit := unit, slot := n.slotOf unit j, role := role, copy := copy
    lanes := allLanes.map fun l => if l < launched then { pc := entry } else { st := .never }
    s := params.foldl (fun m e => put 0 e.1 e.2 m) [], agelim := n.desc.age, grps := grps
    castFull := n.desc.castRegs j }

/-- The warp launched under an index (01 R16): its lanes, groups and node parameters. -/
def launchedWarp (nk : Nat) (n : Node) (l : Launch) (idx unit copy : Nat) : Warp :=
  freshWarp nk n idx unit copy n.desc.entry (min 32 (n.desc.l - 32 * idx)) .warp (grpsOf (l.groupsOf n.idx idx))
    (n.desc.params.zipIdx.map fun e => (e.2 + 1, e.1))

end Sys2Proof.Machine
end

