-- ==== Sys2Proof/Machine/Encoding.lean ====
section
/-! DEFINITION. The encoding tables of the spec (02 R51–R60, 07 R165, R178, R179, R195, 08 R200, R201,
09 R217, R218, 10 R237–R239, 11 R267, R268, 12 R284, R285, 16 R320): for each constructor its major
opcode, minor function and length, its operand classes, and the modifier and immediate values it admits.
The decoder, the encoder, well-formedness, the scoreboard and the queue ports all read these tables. -/

namespace Sys2Proof

/-- Subcodes of ILLEGAL (02 R60). -/
inductive Illegal
  | maj | len | padw | line | pred | uform | fn | mod | reg | disp | imm | vreg | tile | group
  | engine | castrd | panclass
  deriving DecidableEq, Repr

/-- The number of a subcode (02 R60). -/
def Illegal.code : Illegal → Nat
  | .maj => 1 | .len => 2 | .padw => 3 | .line => 4 | .pred => 5 | .uform => 6 | .fn => 7 | .mod => 8
  | .reg => 9 | .disp => 10 | .imm => 11 | .vreg => 12 | .tile => 13 | .group => 14 | .engine => 15
  | .castrd => 16 | .panclass => 17

/-- What decoding answers: an instruction, or the subcode of ILLEGAL. -/
inductive Decoded
  | ok (i : Instr)
  | illegal (e : Illegal)
  deriving DecidableEq, Repr

/-! ### Codes of the subfields -/

def Ov.code : Ov → Nat | .wrap => 0 | .sat => 1 | .usat => 2
def Ov.ofCode : Nat → Option Ov | 0 => some .wrap | 1 => some .sat | 2 => some .usat | _ => none

def Rm.code : Rm → Nat | .rne => 0 | .rz => 1 | .rup => 2 | .rdn => 3 | .ef => 4
def Rm.ofCode : Nat → Option Rm
  | 0 => some .rne | 1 => some .rz | 2 => some .rup | 3 => some .rdn | 4 => some .ef | _ => none

def Fmt.code : Fmt → Nat
  | .f32 => 0 | .f16 => 1 | .bf16 => 2 | .f8a => 3 | .f8b => 4 | .i32 => 5 | .i8 => 6 | .i4 => 7
  | .i8a => 8 | .i4a => 9
def Fmt.ofCode : Nat → Option Fmt
  | 0 => some .f32 | 1 => some .f16 | 2 => some .bf16 | 3 => some .f8a | 4 => some .f8b
  | 5 => some .i32 | 6 => some .i8 | 7 => some .i4 | 8 => some .i8a | 9 => some .i4a | _ => none

def Size.code : Size → Nat | .b8 => 0 | .b16 => 1 | .b32 => 2 | .b64 => 3 | .b128 => 4
def Size.ofCode : Nat → Option Size
  | 0 => some .b8 | 1 => some .b16 | 2 => some .b32 | 3 => some .b64 | 4 => some .b128 | _ => none
/-- Bytes of an access (09 R220). -/
def Size.bytes (s : Size) : Nat := 2 ^ s.code

def Order.code : Order → Nat | .rlx => 0 | .acq => 1 | .rel => 2 | .ar => 3 | .sc => 4
def Order.ofCode : Nat → Option Order
  | 0 => some .rlx | 1 => some .acq | 2 => some .rel | 3 => some .ar | 4 => some .sc | _ => none

def Scope.code : Scope → Nat
  | .none => 0 | .warp => 1 | .group => 2 | .core => 3 | .cluster => 4 | .die => 5 | .device => 6
  | .system => 7
def Scope.ofCode : Nat → Scope
  | 0 => .none | 1 => .warp | 2 => .group | 3 => .core | 4 => .cluster | 5 => .die | 6 => .device
  | _ => .system

def FeQual.code : FeQual → Nat | .plain => 0 | .q1 => 1 | .q2 => 2
def FeQual.ofCode : Nat → Option FeQual
  | 0 => some .plain | 1 => some .q1 | 2 => some .q2 | _ => none

/-! ### The raw fields -/

/-- The fields of an instruction of 8, 12 or 16 bytes (02 R51). -/
structure Raw where
  len : Nat
  maj : Nat
  pm : Nat
  pn : Bool
  u : Bool
  d : Nat
  a : Nat
  b : Nat
  fn : Nat
  mod : Nat
  imm : Nat
  c : Nat
  ext : Nat
  deriving DecidableEq, Repr

/-- The length code of a length in bytes (02 R46). -/
def lenCode (len : Nat) : Nat := if len = 12 then 1 else if len = 16 then 2 else 0

/-- The bits of the fields, bit 0 first (02 R51). -/
def Raw.pack (r : Raw) : Nat :=
  lenCode r.len + r.maj * 2 ^ 2 + r.pm * 2 ^ 10 + flagNat r.pn * 2 ^ 14 + flagNat r.u * 2 ^ 15
    + r.d * 2 ^ 16 + r.a * 2 ^ 24 + r.b * 2 ^ 32 + r.fn * 2 ^ 40 + r.mod * 2 ^ 48
    + (if r.len = 12 then r.imm * 2 ^ 64 else 0)
    + (if r.len = 16 then r.c * 2 ^ 64 + r.ext * 2 ^ 72 else 0)

/-- The fields of the bits of an instruction of 8, 12 or 16 bytes (02 R46, R51). -/
def Raw.unpack (w : Nat) : Raw :=
  let len := if bitsAt w 0 2 = 1 then 12 else if bitsAt w 0 2 = 2 then 16 else 8
  { len := len, maj := bitsAt w 2 8, pm := bitsAt w 10 4, pn := bitAt w 14, u := bitAt w 15,
    d := bitsAt w 16 8, a := bitsAt w 24 8, b := bitsAt w 32 8, fn := bitsAt w 40 8,
    mod := bitsAt w 48 16,
    imm := if len = 12 then bitsAt w 64 32 else 0,
    c := if len = 16 then bitsAt w 64 8 else 0,
    ext := if len = 16 then bitsAt w 72 56 else 0 }

/-- Every field lies within its bits, and the fields of other lengths are 0. -/
def Raw.inRange (r : Raw) : Bool :=
  (r.len == 8 || r.len == 12 || r.len == 16) && decide (r.maj < 256) && decide (r.pm < 16)
    && decide (r.d < 256) && decide (r.a < 256) && decide (r.b < 256) && decide (r.fn < 256)
    && decide (r.mod < 2 ^ 16) && decide (r.imm < 2 ^ 32) && decide (r.c < 256)
    && decide (r.ext < 2 ^ 56) && (r.len == 12 || r.imm == 0)
    && (r.len == 16 || (r.c == 0 && r.ext == 0))

def IntF.mod (f : IntF) : Nat :=
  flagNat f.bs * 2 ^ 15 + flagNat f.w * 2 ^ 14 + f.ov.code * 2 ^ 12 + flagNat f.uns * 2 ^ 11 + f.x
def IntF.toRaw (f : IntF) (maj fn len : Nat) : Raw :=
  { len := len, maj := maj, pm := f.p.pm, pn := f.p.pn, u := f.u, d := f.d, a := f.a, b := f.b, fn := fn,
    mod := f.mod, imm := f.imm.toNat, c := f.c, ext := 0 }
def IntF.ofRaw (r : Raw) : Option IntF :=
  (Ov.ofCode (bitsAt r.mod 12 2)).map fun ov =>
    { p := ⟨r.pm, r.pn⟩, u := r.u, bs := bitAt r.mod 15, w := bitAt r.mod 14, ov := ov,
      uns := bitAt r.mod 11, x := bitsAt r.mod 0 5, d := r.d, a := r.a, b := r.b, c := r.c,
      imm := BitVec.ofNat 32 r.imm, fn := 0 }

def CsrF.toRaw (f : CsrF) (maj fn len : Nat) (wr : Bool) : Raw :=
  { len := len, maj := maj, pm := f.p.pm, pn := f.p.pn, u := f.u, d := if wr then 0 else f.r,
    a := if wr then f.r else 0, b := 0, fn := fn, mod := flagNat f.w * 2 ^ 14 + f.csrn, imm := 0, c := 0,
    ext := 0 }
def CsrF.ofRaw (r : Raw) (wr : Bool) : CsrF :=
  { p := ⟨r.pm, r.pn⟩, u := r.u, w := bitAt r.mod 14, csrn := bitsAt r.mod 0 12,
    r := if wr then r.a else r.d, fn := 0 }

def FpF.mod (f : FpF) : Nat :=
  flagNat f.bs * 2 ^ 15 + f.rm.code * 2 ^ 12 + f.fmt.code * 2 ^ 8 + f.src.code * 2 ^ 4
    + flagNat f.na * 2 ^ 3 + flagNat f.nb * 2 ^ 2 + flagNat f.nc * 2
def FpF.toRaw (f : FpF) (maj fn len : Nat) : Raw :=
  { len := len, maj := maj, pm := f.p.pm, pn := f.p.pn, u := f.u, d := f.d, a := f.a, b := f.b, fn := fn,
    mod := f.mod, imm := f.imm.toNat, c := f.c, ext := flagNat f.fin }
def FpF.ofRaw (r : Raw) : Option FpF :=
  (Rm.ofCode (bitsAt r.mod 12 3)).bind fun rm =>
  (Fmt.ofCode (bitsAt r.mod 8 4)).bind fun fmt =>
  (Fmt.ofCode (bitsAt r.mod 4 4)).map fun src =>
    { p := ⟨r.pm, r.pn⟩, u := r.u, bs := bitAt r.mod 15, rm := rm, fmt := fmt, src := src,
      na := bitAt r.mod 3, nb := bitAt r.mod 2, nc := bitAt r.mod 1, fin := bitAt r.ext 0,
      d := r.d, a := r.a, b := r.b, c := r.c, imm := BitVec.ofNat 32 r.imm, fn := 0 }

def MemF.mod (f : MemF) : Nat :=
  f.sz.code * 2 ^ 13 + flagNat f.sx * 2 ^ 12 + f.fe.code * 2 ^ 10 + f.ord.code * 2 ^ 7
    + f.scp.code * 2 ^ 4 + flagNat f.yh * 2 ^ 3 + flagNat f.x * 2 ^ 2
def MemF.toRaw (f : MemF) (maj fn len : Nat) : Raw :=
  { len := len, maj := maj, pm := f.p.pm, pn := f.p.pn, u := f.u, d := f.d, a := f.a, b := f.b, fn := fn,
    mod := f.mod, imm := f.imm.toNat, c := f.c, ext := 0 }
def MemF.ofRaw (r : Raw) : Option MemF :=
  (Size.ofCode (bitsAt r.mod 13 3)).bind fun sz =>
  (FeQual.ofCode (bitsAt r.mod 10 2)).bind fun fe =>
  (Order.ofCode (bitsAt r.mod 7 3)).map fun ord =>
    { p := ⟨r.pm, r.pn⟩, u := r.u, sz := sz, sx := bitAt r.mod 12, fe := fe, ord := ord,
      scp := Scope.ofCode (bitsAt r.mod 4 3), yh := bitAt r.mod 3, x := bitAt r.mod 2,
      d := r.d, a := r.a, b := r.b, c := r.c, imm := BitVec.ofNat 32 r.imm, fn := 0 }

def TabF.mod (f : TabF) : Nat :=
  flagNat f.nf * 2 ^ 11 + flagNat f.img * 2 ^ 10 + flagNat f.desc * 2 ^ 9 + flagNat f.kw * 2 ^ 8 + f.item
def TabF.ext (f : TabF) : Nat := f.xr + f.sr * 2 ^ 8 + f.th * 2 ^ 16 + f.tbl * 2 ^ 24
def TabF.toRaw (f : TabF) (maj fn len : Nat) : Raw :=
  { len := len, maj := maj, pm := f.p.pm, pn := f.p.pn, u := false, d := f.d, a := f.a, b := f.b, fn := fn,
    mod := f.mod, imm := 0, c := f.c, ext := f.ext }
def TabF.ofRaw (r : Raw) : TabF :=
  { p := ⟨r.pm, r.pn⟩, nf := bitAt r.mod 11, img := bitAt r.mod 10, desc := bitAt r.mod 9,
    kw := bitAt r.mod 8, item := bitsAt r.mod 0 8, d := r.d, a := r.a, b := r.b, c := r.c,
    tbl := bitsAt r.ext 24 14, th := bitsAt r.ext 16 8, sr := bitsAt r.ext 8 8, xr := bitsAt r.ext 0 8 }

def TileF.mod (f : TileF) : Nat :=
  f.ord.code * 2 ^ 7 + f.scp.code * 2 ^ 4 + flagNat f.sp * 2 ^ 3 + flagNat f.x * 2 ^ 2 + f.pat
def TileF.toRaw (f : TileF) (maj fn len : Nat) : Raw :=
  { len := len, maj := maj, pm := f.p.pm, pn := f.p.pn, u := false, d := f.d, a := f.a, b := f.b, fn := fn,
    mod := f.mod, imm := f.imm.toNat, c := f.c, ext := 0 }
def TileF.ofRaw (r : Raw) : Option TileF :=
  (Order.ofCode (bitsAt r.mod 7 3)).map fun ord =>
    { p := ⟨r.pm, r.pn⟩, ord := ord, scp := Scope.ofCode (bitsAt r.mod 4 3), sp := bitAt r.mod 3,
      x := bitAt r.mod 2, pat := bitsAt r.mod 0 2, d := r.d, a := r.a, b := r.b, c := r.c,
      imm := BitVec.ofNat 32 r.imm, fn := 0 }

def EngF.mod (f : EngF) : Nat :=
  flagNat f.acq * 2 ^ 9 + flagNat f.rel * 2 ^ 8 + f.scp.code * 2 ^ 5 + flagNat f.det * 2 ^ 4 + f.x
def EngF.toRaw (f : EngF) (maj fn len : Nat) : Raw :=
  { len := len, maj := maj, pm := f.p.pm, pn := f.p.pn, u := false, d := f.d, a := f.a, b := f.b, fn := fn,
    mod := f.mod, imm := f.imm.toNat, c := f.c, ext := 0 }
def EngF.ofRaw (r : Raw) : EngF :=
  { p := ⟨r.pm, r.pn⟩, acq := bitAt r.mod 9, rel := bitAt r.mod 8,
    scp := Scope.ofCode (bitsAt r.mod 5 3), det := bitAt r.mod 4, x := bitsAt r.mod 0 4,
    d := r.d, a := r.a, b := r.b, c := r.c, imm := BitVec.ofNat 32 r.imm }

def SysF.mod (f : SysF) : Nat := f.act + flagNat f.kw * 2 ^ 8
def SysF.toRaw (f : SysF) (maj fn len : Nat) : Raw :=
  { len := len, maj := maj, pm := f.p.pm, pn := f.p.pn, u := false, d := f.d, a := f.a, b := f.b, fn := fn,
    mod := f.mod, imm := f.imm.toNat, c := f.c, ext := 0 }
def SysF.ofRaw (r : Raw) : SysF :=
  { p := ⟨r.pm, r.pn⟩, act := bitsAt r.mod 0 2, kw := bitAt r.mod 8, long := false,
    d := r.d, a := r.a, b := r.b, c := r.c, imm := BitVec.ofNat 32 r.imm }

/-- The raw fields of a control instruction (07 R165). -/
def ctlRaw (p : Pred) (maj fn len : Nat) (u : Bool) (d a b cond : Nat) (disp : W32) : Raw :=
  { len := len, maj := maj, pm := p.pm, pn := p.pn, u := u, d := d, a := a, b := b, fn := fn, mod := cond,
    imm := disp.toNat, c := 0, ext := 0 }

/-! ### Operand classes (02 R55) -/

/-- Register classes. `none` is an unused field; `bad` admits no value. `vx` is V without `v240`–`v255`. -/
inductive Cls | none | v | vx | vp | vq | s | m | t | bad
  deriving DecidableEq, Repr

/-- How an instruction uses an operand. -/
inductive Acc | n | r | w | rw
  deriving DecidableEq, Repr

/-- One operand: its class, the number in its field, and its use. -/
structure Opnd where
  cls : Cls
  num : Nat
  acc : Acc
  deriving DecidableEq, Repr

/-- The operand is read. -/
def Opnd.rd (o : Opnd) : Bool := o.acc == .r || o.acc == .rw
/-- The operand is written. -/
def Opnd.wr (o : Opnd) : Bool := o.acc == .w || o.acc == .rw

/-- The legal numbers of a class (02 R55). -/
def Cls.admits : Cls → Nat → Bool
  | .none, n => n == 0
  | .v, n => decide (n < 256)
  | .vx, n => decide (n < 240)
  | .vp, n => n % 2 == 0 && decide (n ≤ 238)
  | .vq, n => n % 4 == 0 && decide (n ≤ 236)
  | .s, n => decide (n < 64)
  | .m, n => decide (n < 12)
  | .t, n => decide (n < 16)
  | .bad, _ => false

/-- The legal numbers of a class in an engine program, whose V, VP and VQ fields name the sequencer's scalar registers
(11 R266). -/
def Cls.seqAdmits : Cls → Nat → Bool
  | .v, n => decide (n < 64)
  | .vx, n => decide (n < 64)
  | .vp, n => decide (n < 64)
  | .vq, n => decide (n < 64)
  | c, n => c.admits n

/-- The vector registers an operand names. -/
def Opnd.vregs (o : Opnd) : List Nat :=
  match o.cls with
  | .v => [o.num] | .vx => [o.num] | .vp => [o.num, o.num + 1]
  | .vq => [o.num, o.num + 1, o.num + 2, o.num + 3]
  | _ => []

def IntF.wide (f : IntF) : Cls := if f.u then .s else if f.w then .vp else .v
def IntF.narrow (f : IntF) : Cls := if f.u then .s else .v
def IntF.wideB (f : IntF) : Cls := if f.bs then .s else f.wide
def IntF.narrowB (f : IntF) : Cls := if f.bs then .s else f.narrow
def IntF.cmp (f : IntF) : Cls := if f.u then .s else .m
def FpF.f (f : FpF) : Cls := if f.u then .s else .v
def FpF.fB (f : FpF) : Cls := if f.bs then .s else f.f
def FpF.cmp (f : FpF) : Cls := if f.u then .s else .m
def FpF.sB (f : FpF) : Cls := if f.bs then .s else .bad
def CsrF.csr (f : CsrF) : Cls := if f.u then .s else if f.w then .vp else .v
def MemF.data (f : MemF) : Cls :=
  if f.u then .s else match f.sz with | .b64 => .vp | .b128 => .vq | _ => .v
def MemF.addr (f : MemF) : Cls := if f.u then .s else .vp
def MemF.idx (f : MemF) : Cls := if f.u then .s else .v
def TabF.key (f : TabF) : Cls := if f.kw then .vq else .vp
def TabF.imgC (f : TabF) : Cls := if f.img then .vx else .none
def EngF.seqS (f : EngF) (i : Nat) : Cls := if bitAt f.x i then .s else .none
def SysF.key (f : SysF) : Cls := if f.kw then .vq else .vp

def fieldOps (d a b c : Nat) (kd ka kb kc : Cls × Acc) : List Opnd :=
  [⟨kd.1, d, kd.2⟩, ⟨ka.1, a, ka.2⟩, ⟨kb.1, b, kb.2⟩, ⟨kc.1, c, kc.2⟩]

/-- An unused field. -/
def unused : Cls × Acc := (.none, .n)

def IntF.ops (f : IntF) (kd ka kb kc : Cls × Acc) : List Opnd := fieldOps f.d f.a f.b f.c kd ka kb kc
def FpF.ops (f : FpF) (kd ka kb kc : Cls × Acc) : List Opnd := fieldOps f.d f.a f.b f.c kd ka kb kc
def MemF.ops (f : MemF) (kd ka kb kc : Cls × Acc) : List Opnd := fieldOps f.d f.a f.b f.c kd ka kb kc
def TileF.ops (f : TileF) (kd ka kb kc : Cls × Acc) : List Opnd := fieldOps f.d f.a f.b f.c kd ka kb kc
def EngF.ops (f : EngF) (kd ka kb kc : Cls × Acc) : List Opnd := fieldOps f.d f.a f.b f.c kd ka kb kc
def SysF.ops (f : SysF) (kd ka kb kc : Cls × Acc) : List Opnd := fieldOps f.d f.a f.b f.c kd ka kb kc
/-- An 8-byte table form: the EXT operands are absent (10 R238). -/
def TabF.ops (f : TabF) (kd ka kb kc : Cls × Acc) : List Opnd :=
  fieldOps f.d f.a f.b f.c kd ka kb kc ++ [⟨.none, f.sr, .n⟩, ⟨.none, f.xr, .n⟩, ⟨.none, f.th, .n⟩]
/-- A 16-byte table form: SR and XR as given, and TH when TBL is 0 (10 R238). -/
def TabF.opsX (f : TabF) (kd ka kb kc sr xr : Cls × Acc) : List Opnd :=
  fieldOps f.d f.a f.b f.c kd ka kb kc
    ++ [⟨sr.1, f.sr, sr.2⟩, ⟨xr.1, f.xr, xr.2⟩, ⟨if f.tbl = 0 then .s else .none, f.th, .r⟩]

/-! ### Legal modifier values -/

def IntF.modOk (f : IntF) (bs w : Bool) (ov : Nat) (uns : Bool) (x : Nat) : Bool :=
  (!f.bs || (bs && !f.u)) && (!f.w || w) && decide (f.ov.code ≤ ov) && (!f.uns || uns) && decide (f.x ≤ x)

/-- `fm` says which result and source formats are admitted. -/
def FpF.modOk (f : FpF) (bs : Bool) (rm : Nat) (fm : Bool) (nab nc fin : Bool) : Bool :=
  (!f.bs || (bs && !f.u)) && decide (f.rm.code ≤ rm) && fm && (!(f.na || f.nb) || nab) && (!f.nc || nc)
    && (!f.fin || fin)
def FpF.noFmt (f : FpF) : Bool := f.fmt == .f32 && f.src == .f32

/-- Order and scope go together (05 R121). -/
def ordScopeOk (o : Order) (s : Scope) : Bool := (o == .rlx) == (s == .none)
def Order.isLoad (o : Order) : Bool := o == .rlx || o == .acq || o == .sc
def Order.isStore (o : Order) : Bool := o == .rlx || o == .rel || o == .sc
/-- Scopes a scratchpad access may name (09 R222). -/
def Scope.upToCore (s : Scope) : Bool := decide (s.code ≤ 3)

/-- Scopes that `GPOOL` and `ATTN` may name (05 R134). -/
def Scope.wide (s : Scope) : Bool := s == .device || s == .system

/-- `sz` and `ord` say whether the size and the order are admitted. -/
def MemF.modOk (f : MemF) (sz ord sx : Bool) (fe : Nat) (yh x : Bool) : Bool :=
  sz && ord && ordScopeOk f.ord f.scp && (!f.sx || (sx && (f.sz == .b8 || f.sz == .b16)))
    && decide (f.fe.code ≤ fe) && (!f.yh || yh) && (!f.x || x)
def MemF.ldSz (f : MemF) : Bool := !(f.u && f.sz == .b128)
def MemF.feOrd (f : MemF) : Bool := f.fe == .plain || f.ord == .rlx
def MemF.sz48 (f : MemF) : Bool := f.sz == .b32 || f.sz == .b64
def MemF.noSz (f : MemF) : Bool := f.sz == .b8
/-- Sizes of `ATOM` (09 R232). -/
def MemF.atomSz (f : MemF) : Bool :=
  if f.fn ≤ 8 || f.fn == 11 || f.fn == 12 then f.sz48
  else if f.fn == 9 then f.sz48 || f.sz == .b128
  else decide (13 ≤ f.fn) && decide (f.fn ≤ 15) && f.sz == .b32
/-- Sizes of `RED` (09 R232). -/
def MemF.redSz (f : MemF) : Bool :=
  if f.fn ≤ 8 then f.sz48 else decide (f.fn ≤ 11) && f.sz == .b32

def TabF.modOk (f : TabF) (nf img desc kw item long : Bool) : Bool :=
  (!f.nf || nf) && (!f.img || img) && (!f.desc || desc) && (!f.kw || kw) && (f.item == 0 || item) && decide (f.item < 256)
    && decide (f.tbl < 2 ^ 14) && (if long then f.tbl != 1 && f.tbl != 2 else f.tbl == 0)

def TileF.modOk (f : TileF) (ord sp x pat : Bool) : Bool :=
  ord && ordScopeOk f.ord f.scp && (!f.sp || (sp && f.ord == .rlx)) && (!f.x || x)
    && decide (f.pat ≤ 3) && (if pat then f.pat != 0 else f.pat == 0)
def TileF.noOrd (f : TileF) : Bool := f.ord == .rlx

/-- `cmd` admits ACQ and REL, `scp` the scope code, which must then be 3–7; `x` is the largest X. -/
def EngF.modOk (f : EngF) (cmd scp det : Bool) (x : Nat) : Bool :=
  (!(f.acq || f.rel) || cmd) && (if scp then decide (3 ≤ f.scp.code) else f.scp == .none) && (!f.det || det)
    && decide (f.x ≤ x)

def SysF.modOk (f : SysF) (kw : Bool) : Bool := f.act == 0 && (!f.kw || kw)

/-- The CSR numbers that exist (07 R196, 16 R312). -/
def csrNumbers : List Nat :=
  [0x000, 0x001, 0x002, 0x003, 0x004, 0x005, 0x006, 0x007, 0x008, 0x009, 0x010, 0x011, 0x018, 0x019, 0x01A,
   0x020, 0x021, 0x028, 0x029, 0x100, 0x101, 0x102, 0x103, 0x200, 0x201, 0x202, 0x203, 0x204]
def CsrF.modOk (f : CsrF) : Bool := csrNumbers.contains f.csrn && !(f.u && f.w)

/-- A legal tile shape (11 R260). -/
def tcfgOk (v : Nat) : Bool :=
  v == 0 || (decide (v < 2 ^ 32) && bitsAt v 9 7 == 0 && decide (1 ≤ bitsAt v 2 7) && decide (bitsAt v 2 7 ≤ 64)
    && decide (1 ≤ bitsAt v 16 16) && decide (bitsAt v 16 16 ≤ 32768)
    && decide (bitsAt v 2 7 * ceilDiv (bitsAt v 16 16 * 2 ^ (bitsAt v 0 2 + 2)) 8 ≤ 16384))

/-- The fields of the words of an instruction; none for `PAD`, for a service of `SMCALL` and for an event (02 R57). -/
def Instr.toRaw : Instr → Option Raw
  | .nop p => some (ctlRaw p 0x1 0 8 false 0 0 0 0 0)
  | .bra p disp => some (ctlRaw p 0x2 0 12 false 0 0 0 0 disp)
  | .braNz p a disp => some (ctlRaw p 0x2 0 12 true 0 a 0 1 disp)
  | .braZ p a disp => some (ctlRaw p 0x2 0 12 true 0 a 0 2 disp)
  | .brx p a => some (ctlRaw p 0x3 0 8 false 0 a 0 0 0)
  | .call p d disp => some (ctlRaw p 0x4 0 12 false d 0 0 0 disp)
  | .callx p d a => some (ctlRaw p 0x5 0 8 false d a 0 0 0)
  | .ret p a => some (ctlRaw p 0x6 0 8 false 0 a 0 0 0)
  | .exit p => some (ctlRaw p 0x7 0 8 false 0 0 0 0 0)
  | .join p d => some (ctlRaw p 0x8 0 8 false d 0 0 0 0)
  | .leave p d => some (ctlRaw p 0x9 0 8 false d 0 0 0 0)
  | .waitm p a => some (ctlRaw p 0xa 0 8 false 0 a 0 0 0)
  | .bar p g => some (ctlRaw p 0xb 0 8 false 0 0 g 0 0)
  | .elect p d => some (ctlRaw p 0xc 0 8 false d 0 0 0 0)
  | .yield p => some (ctlRaw p 0xd 0 8 false 0 0 0 0 0)
  | .trap p n => some (ctlRaw p 0xe n 8 false 0 0 0 0 0)
  | .bkpt p n => some (ctlRaw p 0xf n 8 false 0 0 0 0 0)
  | .uretRetry p => some (ctlRaw p 0x10 0 8 false 0 0 0 0 0)
  | .uretSkip p => some (ctlRaw p 0x10 1 8 false 0 0 0 0 0)
  | .trmp p slot disp => some (ctlRaw p (0xF0 + slot / 256) (slot % 256) 12 false 0 0 0 0 disp)
  | .iadd8 f => some (f.toRaw 0x20 0 8)
  | .iadd12 f => some (f.toRaw 0x20 0 12)
  | .isub8 f => some (f.toRaw 0x21 0 8)
  | .isub12 f => some (f.toRaw 0x21 0 12)
  | .imul8 f => some (f.toRaw 0x22 0 8)
  | .imul12 f => some (f.toRaw 0x22 0 12)
  | .imulh8 f => some (f.toRaw 0x23 0 8)
  | .imulh12 f => some (f.toRaw 0x23 0 12)
  | .imad f => some (f.toRaw 0x24 0 16)
  | .idiv8 f => some (f.toRaw 0x25 0 8)
  | .idiv12 f => some (f.toRaw 0x25 0 12)
  | .idivRem8 f => some (f.toRaw 0x25 1 8)
  | .idivRem12 f => some (f.toRaw 0x25 1 12)
  | .imin8 f => some (f.toRaw 0x26 0 8)
  | .imin12 f => some (f.toRaw 0x26 0 12)
  | .imax8 f => some (f.toRaw 0x27 0 8)
  | .imax12 f => some (f.toRaw 0x27 0 12)
  | .iabs f => some (f.toRaw 0x28 0 8)
  | .shl8 f => some (f.toRaw 0x29 0 8)
  | .shl12 f => some (f.toRaw 0x29 0 12)
  | .shr8 f => some (f.toRaw 0x2a 0 8)
  | .shr12 f => some (f.toRaw 0x2a 0 12)
  | .shrSx8 f => some (f.toRaw 0x2a 1 8)
  | .shrSx12 f => some (f.toRaw 0x2a 1 12)
  | .rot8 f => some (f.toRaw 0x2b 0 8)
  | .rot12 f => some (f.toRaw 0x2b 0 12)
  | .bool8 f => some (f.toRaw 0x2c f.fn 8)
  | .bool12 f => some (f.toRaw 0x2c f.fn 12)
  | .bool16 f => some (f.toRaw 0x2c f.fn 16)
  | .popc f => some (f.toRaw 0x2d 0 8)
  | .clz f => some (f.toRaw 0x2e 0 8)
  | .brev f => some (f.toRaw 0x2f 0 8)
  | .bfx8 f => some (f.toRaw 0x30 0 8)
  | .bfx12 f => some (f.toRaw 0x30 0 12)
  | .bfi f => some (f.toRaw 0x31 0 16)
  | .icmp8 f => some (f.toRaw 0x32 f.fn 8)
  | .icmp12 f => some (f.toRaw 0x32 f.fn 12)
  | .sel f => some (f.toRaw 0x33 0 8)
  | .mov f => some (f.toRaw 0x34 0 8)
  | .movi f => some (f.toRaw 0x35 0 12)
  | .movs f => some (f.toRaw 0x36 0 8)
  | .movsFirst f => some (({ f with x := 1 } : IntF).toRaw 0x36 0 8)
  | .mskAnd f => some (f.toRaw 0x37 0 8)
  | .mskOr f => some (f.toRaw 0x37 1 8)
  | .mskXor f => some (f.toRaw 0x37 2 8)
  | .mskAndn f => some (f.toRaw 0x37 3 8)
  | .mskNot f => some (f.toRaw 0x37 4 8)
  | .mskFroms f => some (f.toRaw 0x37 5 8)
  | .mskTos f => some (f.toRaw 0x37 6 8)
  | .mskPath f => some (f.toRaw 0x37 7 8)
  | .mpop f => some (f.toRaw 0x38 0 8)
  | .mpopTot f => some (({ f with x := 1 } : IntF).toRaw 0x38 0 8)
  | .shflIdx8 f => some (f.toRaw 0x39 0 8)
  | .shflIdx12 f => some (f.toRaw 0x39 0 12)
  | .shflUp8 f => some (f.toRaw 0x39 1 8)
  | .shflUp12 f => some (f.toRaw 0x39 1 12)
  | .shflDown8 f => some (f.toRaw 0x39 2 8)
  | .shflDown12 f => some (f.toRaw 0x39 2 12)
  | .shflXor8 f => some (f.toRaw 0x39 3 8)
  | .shflXor12 f => some (f.toRaw 0x39 3 12)
  | .voteAll f => some (f.toRaw 0x3a 0 8)
  | .voteAny f => some (f.toRaw 0x3a 1 8)
  | .voteEq f => some (f.toRaw 0x3a 2 8)
  | .voteBallot f => some (f.toRaw 0x3a 3 8)
  | .matchAny f => some (f.toRaw 0x3b 0 8)
  | .matchAll f => some (f.toRaw 0x3b 1 8)
  | .redw f => some (f.toRaw 0x3c f.fn 8)
  | .csrr f => some (f.toRaw 0x3d 0 8 false)
  | .csrw f => some (f.toRaw 0x3e 0 8 true)
  | .csrwSet f => some (f.toRaw 0x3e 1 8 true)
  | .csrwClr f => some (f.toRaw 0x3e 2 8 true)
  | .parkceilWrite f => some (f.toRaw 0x3e f.fn 8 true)
  | .fadd8 f => some (f.toRaw 0x50 0 8)
  | .fadd12 f => some (f.toRaw 0x50 0 12)
  | .fmul8 f => some (f.toRaw 0x51 0 8)
  | .fmul12 f => some (f.toRaw 0x51 0 12)
  | .ffma f => some (f.toRaw 0x52 0 16)
  | .fmin8 f => some (f.toRaw 0x53 0 8)
  | .fmin12 f => some (f.toRaw 0x53 0 12)
  | .fmax8 f => some (f.toRaw 0x54 0 8)
  | .fmax12 f => some (f.toRaw 0x54 0 12)
  | .fcmp8 f => some (f.toRaw 0x55 f.fn 8)
  | .fcmp12 f => some (f.toRaw 0x55 f.fn 12)
  | .fclass f => some (f.toRaw 0x56 0 8)
  | .fcvtScalar f => some (f.toRaw 0x57 0 8)
  | .fcvtBlock f => some (f.toRaw 0x57 0 16)
  | .frnd f => some (f.toRaw 0x58 0 8)
  | .frcp f => some (f.toRaw 0x59 0 8)
  | .fsqrt f => some (f.toRaw 0x5b 0 8)
  | .frsq f => some (f.toRaw 0x5a 0 8)
  | .fex2 f => some (f.toRaw 0x5c 0 8)
  | .flg2 f => some (f.toRaw 0x5d 0 8)
  | .fsin f => some (f.toRaw 0x5e 0 8)
  | .fcos f => some (f.toRaw 0x5f 0 8)
  | .ftanh f => some (f.toRaw 0x60 0 8)
  | .pfma f => some (f.toRaw 0x61 0 16)
  | .amrg f => some (f.toRaw 0x62 0 16)
  | .ld8 f => some (f.toRaw 0x70 0 8)
  | .ld12 f => some (f.toRaw 0x70 0 12)
  | .st8 f => some (f.toRaw 0x71 0 8)
  | .st12 f => some (f.toRaw 0x71 0 12)
  | .lds8 f => some (f.toRaw 0x72 0 8)
  | .lds12 f => some (f.toRaw 0x72 0 12)
  | .sts8 f => some (f.toRaw 0x73 0 8)
  | .sts12 f => some (f.toRaw 0x73 0 12)
  | .femSet8 f => some (f.toRaw 0x74 0 8)
  | .femSet12 f => some (f.toRaw 0x74 0 12)
  | .femClr8 f => some (f.toRaw 0x74 1 8)
  | .femClr12 f => some (f.toRaw 0x74 1 12)
  | .femTest8 f => some (f.toRaw 0x74 2 8)
  | .femTest12 f => some (f.toRaw 0x74 2 12)
  | .ldg f => some (f.toRaw 0x75 0 16)
  | .sct f => some (f.toRaw 0x76 0 16)
  | .pref8 f => some (f.toRaw 0x77 0 8)
  | .pref12 f => some (f.toRaw 0x77 0 12)
  | .fence f => some (f.toRaw 0x78 0 8)
  | .atom f => some (f.toRaw 0x79 f.fn 8)
  | .atomCas f => some (f.toRaw 0x79 10 16)
  | .red8 f => some (f.toRaw 0x7a f.fn 8)
  | .red12 f => some (f.toRaw 0x7a f.fn 12)
  | .poll f => some (f.toRaw 0x7b 0 12)
  | .tinfo f => some (f.toRaw 0x90 0 8)
  | .kget f => some (f.toRaw 0x91 0 16)
  | .kins f => some (f.toRaw 0x92 0 16)
  | .kdel f => some (f.toRaw 0x93 0 16)
  | .kseek f => some (f.toRaw 0x94 0 16)
  | .knext f => some (f.toRaw 0x95 0 8)
  | .kprev f => some (f.toRaw 0x96 0 8)
  | .kclose f => some (f.toRaw 0x97 0 8)
  | .kpfx f => some (f.toRaw 0x98 0 16)
  | .kpfxi f => some (f.toRaw 0x99 0 16)
  | .krecl f => some (f.toRaw 0x9a 0 8)
  | .sqres f => some (f.toRaw 0x9b 0 16)
  | .sqcmt f => some (f.toRaw 0x9c 0 16)
  | .sqabn f => some (f.toRaw 0x9d 0 16)
  | .sqlen f => some (f.toRaw 0x9e 0 8)
  | .sqwait f => some (f.toRaw 0x9f 0 16)
  | .sqfork f => some (f.toRaw 0xa0 0 16)
  | .sqdrop f => some (f.toRaw 0xa1 0 8)
  | .sqloc f => some (f.toRaw 0xa2 0 16)
  | .tcfg8 f => some (f.toRaw 0xa8 0 8)
  | .tcfg12 f => some (f.toRaw 0xa8 0 12)
  | .trdc f => some (f.toRaw 0xa9 0 8)
  | .tld f => some (f.toRaw 0xaa 0 16)
  | .tst f => some (f.toRaw 0xab 0 16)
  | .tzero f => some (f.toRaw 0xac 0 8)
  | .tmov f => some (f.toRaw 0xad 0 8)
  | .mma f => some (f.toRaw 0xae 0 8)
  | .mmas f => some (f.toRaw 0xaf 0 8)
  | .tcomp f => some (f.toRaw 0xb0 0 16)
  | .tqnt f => some (f.toRaw 0xb1 0 16)
  | .tdq f => some (f.toRaw 0xb2 0 16)
  | .tred f => some (f.toRaw 0xb3 f.fn 8)
  | .tscl f => some (f.toRaw 0xb4 0 16)
  | .vtopk f => some (f.toRaw 0xb5 0 16)
  | .vtopkLn f => some (({ f with x := true } : TileF).toRaw 0xb5 0 16)
  | .cpy f => some (f.toRaw 0xc0 0 16)
  | .cwait f => some (f.toRaw 0xc1 0 8)
  | .dec f => some (f.toRaw 0xc2 0 16)
  | .dtld f => some (f.toRaw 0xc3 0 16)
  | .gpool f => some (f.toRaw 0xc4 0 16)
  | .attn f => some (f.toRaw 0xc5 0 16)
  | .collAllred f => some (f.toRaw 0xc6 0 16)
  | .collRedsc f => some (f.toRaw 0xc6 1 16)
  | .collAllgath f => some (f.toRaw 0xc6 2 16)
  | .collAtoa f => some (f.toRaw 0xc6 3 16)
  | .efork f => some (f.toRaw 0xc7 0 16)
  | .erdv f => some (f.toRaw 0xc8 0 8)
  | .tfork f => some (f.toRaw 0xc9 0 12)
  | .tjoin f => some (f.toRaw 0xca 0 8)
  | .rbeg f => some (f.toRaw 0xcb 0 8)
  | .rchk f => some (f.toRaw 0xcc 0 8)
  | .rend f => some (f.toRaw 0xcd 0 8)
  | .eretRetry f => some (({ f with act := 0 } : SysF).toRaw 0xe0 0 8)
  | .eretSkip f => some (({ f with act := 1 } : SysF).toRaw 0xe0 0 8)
  | .eretKill f => some (({ f with act := 2 } : SysF).toRaw 0xe0 0 8)
  | .tlbiCtx f => some (f.toRaw 0xe1 0 8)
  | .tlbiTbl f => some (f.toRaw 0xe1 1 8)
  | .tlbiVa f => some (f.toRaw 0xe1 2 8)
  | .tlbiS2 f => some (f.toRaw 0xe1 3 8)
  | .gcall f => some (f.toRaw 0xe3 0 8)
  | .cinvLine8 f => some (f.toRaw 0xe4 0 8)
  | .cinvLine12 f => some (f.toRaw 0xe4 0 12)
  | .cinvAll f => some (f.toRaw 0xe4 1 (if f.long then 12 else 8))
  | .cwbLine8 f => some (f.toRaw 0xe5 0 8)
  | .cwbLine12 f => some (f.toRaw 0xe5 0 12)
  | .cwbAll f => some (f.toRaw 0xe5 1 (if f.long then 12 else 8))
  | .ctxs f => some (f.toRaw 0xe6 0 16)
  | .ctxl f => some (f.toRaw 0xe7 0 16)
  | .kmig f => some (f.toRaw 0xe8 0 16)
  | .inj f => some (f.toRaw 0xe9 0 16)
  | .smcall f => some (f.toRaw 0xe2 0 8)
  | .pad => none
  | .version _ => none
  | .ctxcreate _ => none
  | .ctxdestroy _ => none
  | .keyretire _ => none
  | .ecccount _ => none
  | .lookups _ => none
  | .setget _ => none
  | .setput _ => none
  | .attest _ => none
  | .attkey _ => none
  | .powercap _ => none
  | .thermal _ => none
  | .launchAccept _ => none
  | .resourceReport _ => none
  | .nodeDispatch _ => none
  | .starvePromotion _ => none
  | .headBlocked => none
  | .nodeRetire _ => none
  | .taskStart _ => none
  | .taskStealRetry _ => none
  | .heldStoreRelease _ => none
  | .atomicService _ => none
  | .atomicResultReturn _ => none
  | .homeMove _ _ => none
  | .rakeOperation _ => none
  | .tableReply _ => none
  | .fullEmptyLoadServe _ _ => none
  | .pollReread _ _ => none
  | .sqwaitRelease _ _ => none
  | .cwaitRelease _ _ => none
  | .tjoinRelease _ _ => none
  | .ldgLateArrival _ _ => none
  | .castDelivery _ => none
  | .erdvRendezvous _ => none
  | .cpyComplete _ => none
  | .decComplete _ => none
  | .gpoolComplete _ => none
  | .attnComplete _ => none
  | .collStart _ _ => none
  | .atoaBlockDelivery _ _ _ => none
  | .collComplete _ _ _ => none
  | .treeRecompute _ _ => none
  | .parkRetry _ _ => none
  | .commandFaultRetry _ => none
  | .smcFaultService _ _ => none
  | .pageMove _ _ _ => none
  | .preemptRequest _ _ => none
  | .forcedStop _ => none
  | .sumpSave _ => none
  | .saveCommit _ => none
  | .nodeResume _ => none
  | .nodeMove _ _ _ => none
  | .watchdogExpiry _ _ => none
  | .extwaitExpiry _ _ => none
  | .checkpoint _ => none
  | .strikeReport _ => none
  | .uncorrectableError _ => none
  | .linkUp _ _ _ => none
  | .linkRetransmitFail _ => none
  | .linkIdleTimeout _ => none
  | .idleFlit _ => none
  | .linkStateUpdate _ _ => none
  | .drainRound => none
  | .remoteRequest _ => none
  | .hostRequest _ => none
  | .interruptMessage _ _ => none
  | .runReassign _ _ _ => none
  | .reset _ => none
  | .throttleChange _ _ => none
  | .thermalTrip _ => none
  | .tileInstructionComplete _ => none
  | .engineCommandStart _ => none
  | .portTakenDown _ => none

/-- The operands of an instruction: the classes of D, A, B, C (and SR, XR, TH) and how each is used. -/
def Instr.opnds : Instr → List Opnd
  | .nop _ => []
  | .bra _ _ => []
  | .braNz _ a _ => [⟨.s, a, .r⟩]
  | .braZ _ a _ => [⟨.s, a, .r⟩]
  | .brx _ a => [⟨.v, a, .r⟩]
  | .call _ d _ => [⟨.v, d, .w⟩]
  | .callx _ d a => [⟨.v, d, .w⟩, ⟨.v, a, .r⟩]
  | .ret _ a => [⟨.v, a, .r⟩]
  | .exit _ => []
  | .join _ d => [⟨.m, d, .w⟩]
  | .leave _ d => [⟨.m, d, .w⟩]
  | .waitm _ a => [⟨.m, a, .r⟩]
  | .bar _ _ => []
  | .elect _ d => [⟨.m, d, .w⟩]
  | .yield _ => []
  | .trap _ _ => []
  | .bkpt _ _ => []
  | .uretRetry _ => []
  | .uretSkip _ => []
  | .trmp _ _ _ => [⟨.v, 239, .w⟩]
  | .iadd8 f => f.ops (f.wide, .w) (f.wide, .r) (f.wideB, .r) unused
  | .iadd12 f => f.ops (f.wide, .w) (f.wide, .r) unused unused
  | .isub8 f => f.ops (f.wide, .w) (f.wide, .r) (f.wideB, .r) unused
  | .isub12 f => f.ops (f.wide, .w) (f.wide, .r) unused unused
  | .imul8 f => f.ops (f.wide, .w) (f.wide, .r) (f.wideB, .r) unused
  | .imul12 f => f.ops (f.wide, .w) (f.wide, .r) unused unused
  | .imulh8 f => f.ops (f.wide, .w) (f.wide, .r) (f.wideB, .r) unused
  | .imulh12 f => f.ops (f.wide, .w) (f.wide, .r) unused unused
  | .imad f => f.ops (f.wide, .w) (f.wide, .r) (f.wideB, .r) (f.wide, .r)
  | .idiv8 f => f.ops (f.wide, .w) (f.wide, .r) (f.wideB, .r) unused
  | .idiv12 f => f.ops (f.wide, .w) (f.wide, .r) unused unused
  | .idivRem8 f => f.ops (f.wide, .w) (f.wide, .r) (f.wideB, .r) unused
  | .idivRem12 f => f.ops (f.wide, .w) (f.wide, .r) unused unused
  | .imin8 f => f.ops (f.wide, .w) (f.wide, .r) (f.wideB, .r) unused
  | .imin12 f => f.ops (f.wide, .w) (f.wide, .r) unused unused
  | .imax8 f => f.ops (f.wide, .w) (f.wide, .r) (f.wideB, .r) unused
  | .imax12 f => f.ops (f.wide, .w) (f.wide, .r) unused unused
  | .iabs f => f.ops (f.wide, .w) (f.wide, .r) unused unused
  | .shl8 f => f.ops (f.wide, .w) (f.wide, .r) (f.narrowB, .r) unused
  | .shl12 f => f.ops (f.wide, .w) (f.wide, .r) unused unused
  | .shr8 f => f.ops (f.wide, .w) (f.wide, .r) (f.narrowB, .r) unused
  | .shr12 f => f.ops (f.wide, .w) (f.wide, .r) unused unused
  | .shrSx8 f => f.ops (f.wide, .w) (f.wide, .r) (f.narrowB, .r) unused
  | .shrSx12 f => f.ops (f.wide, .w) (f.wide, .r) unused unused
  | .rot8 f => f.ops (f.wide, .w) (f.wide, .r) (f.narrowB, .r) unused
  | .rot12 f => f.ops (f.wide, .w) (f.wide, .r) unused unused
  | .bool8 f => f.ops (f.wide, .w) (f.wide, .r) (f.wideB, .r) unused
  | .bool12 f => f.ops (f.wide, .w) (f.wide, .r) unused unused
  | .bool16 f => f.ops (f.wide, .w) (f.wide, .r) (f.wideB, .r) (f.wide, .r)
  | .popc f => f.ops (f.wide, .w) (f.wide, .r) unused unused
  | .clz f => f.ops (f.wide, .w) (f.wide, .r) unused unused
  | .brev f => f.ops (f.wide, .w) (f.wide, .r) unused unused
  | .bfx8 f => f.ops (f.wide, .w) (f.wide, .r) (f.narrowB, .r) unused
  | .bfx12 f => f.ops (f.wide, .w) (f.wide, .r) unused unused
  | .bfi f => f.ops (f.wide, .w) (f.wide, .r) (f.narrowB, .r) (f.wide, .r)
  | .icmp8 f => f.ops (f.cmp, .w) (f.wide, .r) (f.wideB, .r) unused
  | .icmp12 f => f.ops (f.cmp, .w) (f.wide, .r) unused unused
  | .sel f => f.ops (f.wide, .w) (f.wide, .r) (f.wideB, .r) unused
  | .mov f => f.ops (f.wide, .w) (f.wide, .r) unused unused
  | .movi f => f.ops (f.wide, .w) unused unused unused
  | .movs f => f.ops (f.wide, .w) (.s, .r) unused unused
  | .movsFirst f => f.ops (.s, .w) (f.wide, .r) unused unused
  | .mskAnd f => f.ops (.m, .w) (.m, .r) (.m, .r) unused
  | .mskOr f => f.ops (.m, .w) (.m, .r) (.m, .r) unused
  | .mskXor f => f.ops (.m, .w) (.m, .r) (.m, .r) unused
  | .mskAndn f => f.ops (.m, .w) (.m, .r) (.m, .r) unused
  | .mskNot f => f.ops (.m, .w) (.m, .r) unused unused
  | .mskFroms f => f.ops (.m, .w) (.s, .r) unused unused
  | .mskTos f => f.ops (.s, .w) (.m, .r) unused unused
  | .mskPath f => f.ops (.m, .w) unused unused unused
  | .mpop f => f.ops (.v, .w) (.m, .r) unused unused
  | .mpopTot f => f.ops (.v, .w) (.m, .r) unused unused
  | .shflIdx8 f => f.ops (f.wide, .w) (f.wide, .r) (f.narrowB, .r) unused
  | .shflIdx12 f => f.ops (f.wide, .w) (f.wide, .r) unused unused
  | .shflUp8 f => f.ops (f.wide, .w) (f.wide, .r) (f.narrowB, .r) unused
  | .shflUp12 f => f.ops (f.wide, .w) (f.wide, .r) unused unused
  | .shflDown8 f => f.ops (f.wide, .w) (f.wide, .r) (f.narrowB, .r) unused
  | .shflDown12 f => f.ops (f.wide, .w) (f.wide, .r) unused unused
  | .shflXor8 f => f.ops (f.wide, .w) (f.wide, .r) (f.narrowB, .r) unused
  | .shflXor12 f => f.ops (f.wide, .w) (f.wide, .r) unused unused
  | .voteAll f => f.ops (.s, .w) (f.wide, .r) unused unused
  | .voteAny f => f.ops (.s, .w) (f.wide, .r) unused unused
  | .voteEq f => f.ops (.s, .w) (f.wide, .r) unused unused
  | .voteBallot f => f.ops (.s, .w) (f.wide, .r) unused unused
  | .matchAny f => f.ops (.v, .w) (f.wide, .r) unused unused
  | .matchAll f => f.ops (.v, .w) (f.wide, .r) unused unused
  | .redw f => f.ops (f.wide, .w) (f.wide, .r) unused unused
  | .csrr f => [⟨f.csr, f.r, .w⟩]
  | .csrw f => [⟨f.csr, f.r, .r⟩]
  | .csrwSet f => [⟨f.csr, f.r, .r⟩]
  | .csrwClr f => [⟨f.csr, f.r, .r⟩]
  | .parkceilWrite f => [⟨f.csr, f.r, .r⟩]
  | .fadd8 f => f.ops (f.f, .w) (f.f, .r) (f.fB, .r) unused
  | .fadd12 f => f.ops (f.f, .w) (f.f, .r) unused unused
  | .fmul8 f => f.ops (f.f, .w) (f.f, .r) (f.fB, .r) unused
  | .fmul12 f => f.ops (f.f, .w) (f.f, .r) unused unused
  | .ffma f => f.ops (f.f, .w) (f.f, .r) (f.fB, .r) (f.f, .r)
  | .fmin8 f => f.ops (f.f, .w) (f.f, .r) (f.fB, .r) unused
  | .fmin12 f => f.ops (f.f, .w) (f.f, .r) unused unused
  | .fmax8 f => f.ops (f.f, .w) (f.f, .r) (f.fB, .r) unused
  | .fmax12 f => f.ops (f.f, .w) (f.f, .r) unused unused
  | .fcmp8 f => f.ops (f.cmp, .w) (f.f, .r) (f.fB, .r) unused
  | .fcmp12 f => f.ops (f.cmp, .w) (f.f, .r) unused unused
  | .fclass f => f.ops (f.f, .w) (f.f, .r) unused unused
  | .fcvtScalar f => f.ops (f.f, .w) (f.f, .r) unused unused
  | .fcvtBlock f => f.ops (f.f, .w) (f.f, .r) (f.sB, .r) (f.f, .r)
  | .frnd f => f.ops (f.f, .w) (f.f, .r) unused unused
  | .frcp f => f.ops (f.f, .w) (f.f, .r) unused unused
  | .fsqrt f => f.ops (f.f, .w) (f.f, .r) unused unused
  | .frsq f => f.ops (f.f, .w) (f.f, .r) unused unused
  | .fex2 f => f.ops (f.f, .w) (f.f, .r) unused unused
  | .flg2 f => f.ops (f.f, .w) (f.f, .r) unused unused
  | .fsin f => f.ops (f.f, .w) (f.f, .r) unused unused
  | .fcos f => f.ops (f.f, .w) (f.f, .r) unused unused
  | .ftanh f => f.ops (f.f, .w) (f.f, .r) unused unused
  | .pfma f => f.ops (f.f, .w) (f.f, .r) (f.fB, .r) (f.f, .r)
  | .amrg f => f.ops (.vq, .w) (.vq, .r) (.vq, .r) unused
  | .ld8 f => f.ops (f.data, .w) (f.addr, .r) (f.idx, .r) unused
  | .ld12 f => f.ops (f.data, .w) (f.addr, .r) unused unused
  | .st8 f => f.ops (f.data, .r) (f.addr, .r) (f.idx, .r) unused
  | .st12 f => f.ops (f.data, .r) (f.addr, .r) unused unused
  | .lds8 f => f.ops (f.data, .w) (f.idx, .r) (f.idx, .r) unused
  | .lds12 f => f.ops (f.data, .w) (f.idx, .r) unused unused
  | .sts8 f => f.ops (f.data, .r) (f.idx, .r) (f.idx, .r) unused
  | .sts12 f => f.ops (f.data, .r) (f.idx, .r) unused unused
  | .femSet8 f => f.ops unused (f.idx, .r) (f.idx, .r) unused
  | .femSet12 f => f.ops unused (f.idx, .r) unused unused
  | .femClr8 f => f.ops unused (f.idx, .r) (f.idx, .r) unused
  | .femClr12 f => f.ops unused (f.idx, .r) unused unused
  | .femTest8 f => f.ops (f.idx, .w) (f.idx, .r) (f.idx, .r) unused
  | .femTest12 f => f.ops (f.idx, .w) (f.idx, .r) unused unused
  | .ldg f => f.ops (f.data, .w) (f.addr, .r) (f.idx, .r) (.m, .w)
  | .sct f => f.ops (f.data, .r) (f.addr, .r) (f.idx, .r) (.m, .w)
  | .pref8 f => f.ops unused (f.addr, .r) (f.idx, .r) unused
  | .pref12 f => f.ops unused (f.addr, .r) unused unused
  | .fence f => f.ops unused unused unused unused
  | .atom f => f.ops (f.data, .w) (f.addr, .r) (f.data, .r) unused
  | .atomCas f => f.ops (f.data, .w) (f.addr, .r) (f.data, .r) (f.data, .r)
  | .red8 f => f.ops unused (f.addr, .r) (f.data, .r) unused
  | .red12 f => f.ops unused (f.addr, .r) unused unused
  | .poll f => f.ops (f.data, .rw) (f.addr, .r) unused unused
  | .tinfo f => f.ops (.vp, .w) (.s, .r) unused unused
  | .kget f => f.opsX (.vp, .w) (f.key, .r) unused unused (.vx, .w) unused
  | .kins f => f.opsX (.vp, .w) (f.key, .r) unused (f.imgC, .r) (.vx, .w) unused
  | .kdel f => f.opsX unused (f.key, .r) unused unused (.vx, .w) unused
  | .kseek f => f.opsX (.vq, .w) (f.key, .r) (f.key, .r) unused (.vx, .w) unused
  | .knext f => f.ops (.vp, .w) (.vq, .r) (.vx, .w) unused
  | .kprev f => f.ops (.vp, .w) (.vq, .r) (.vx, .w) unused
  | .kclose f => f.ops unused (.vq, .r) unused unused
  | .kpfx f => f.opsX (.vp, .w) (.vx, .r) (.vx, .r) unused (.vx, .w) (.vx, .w)
  | .kpfxi f => f.opsX (.vp, .w) (.vx, .r) (.vx, .r) (.vx, .r) (.vx, .w) (.vx, .w)
  | .krecl f => f.ops (.vx, .w) (.s, .r) unused unused
  | .sqres f => f.opsX (.vp, .w) (.vx, .r) unused unused (.vx, .w) unused
  | .sqcmt f => f.opsX unused (.vp, .r) (.vx, .r) unused unused unused
  | .sqabn f => f.opsX unused (.vp, .r) (.vx, .r) unused unused unused
  | .sqlen f => f.ops (.vp, .w) (.s, .r) unused unused
  | .sqwait f => f.opsX (.vp, .w) (.vp, .r) unused unused unused unused
  | .sqfork f => f.opsX unused (.vp, .r) unused (.vp, .r) unused unused
  | .sqdrop f => f.ops unused (.vp, .r) unused unused
  | .sqloc f => f.opsX (.vp, .w) (.vp, .r) unused unused (.vx, .w) unused
  | .tcfg8 f => f.ops (.t, .w) unused (.s, .r) unused
  | .tcfg12 f => f.ops (.t, .w) unused unused unused
  | .trdc f => f.ops (.vx, .w) (.t, .r) unused unused
  | .tld f => f.ops (.t, .w) (.vp, .r) (.vx, .r) (.vx, .r)
  | .tst f => f.ops (.t, .r) (.vp, .r) (.vx, .r) (.vx, .r)
  | .tzero f => f.ops (.t, .w) unused unused unused
  | .tmov f => f.ops (.t, .w) (.t, .r) unused unused
  | .mma f => f.ops unused (.vx, .r) (.vx, .r) unused
  | .mmas f => f.ops unused (.vx, .r) (.vx, .r) unused
  | .tcomp f => f.ops (.t, .w) (.t, .r) (.t, .w) (.vx, .r)
  | .tqnt f => f.ops (.t, .w) (.t, .r) (.vx, .r) (.vx, .r)
  | .tdq f => f.ops (.t, .w) (.t, .r) (.vx, .r) (.vx, .r)
  | .tred f => f.ops (.t, .w) (.t, .r) unused unused
  | .tscl f => f.ops (.t, .w) (.t, .r) (.vx, .r) (.vx, .r)
  | .vtopk f => f.ops (.t, .w) (.t, .r) (.vx, .r) (.t, .w)
  | .vtopkLn f => f.ops (.vx, .w) (.vx, .r) (.vx, .r) unused
  | .cpy f => f.ops (.vp, .r) (.vp, .r) (.vx, .r) (.vp, .r)
  | .cwait f => f.ops (.vp, .w) (.vp, .r) unused unused
  | .dec f => f.ops (.vx, .r) (.vp, .r) (.vx, .r) (.vp, .r)
  | .dtld f => f.ops (.vx, .w) (.vx, .r) unused unused
  | .gpool f => f.ops unused (.vp, .r) (.vx, .r) (.vp, .r)
  | .attn f => f.ops unused unused (.vx, .r) (.vp, .r)
  | .collAllred f => f.ops unused (.vp, .r) (.vx, .r) (.vp, .r)
  | .collRedsc f => f.ops unused (.vp, .r) (.vx, .r) (.vp, .r)
  | .collAllgath f => f.ops unused (.vp, .r) (.vx, .r) (.vp, .r)
  | .collAtoa f => f.ops unused (.vp, .r) (.vx, .r) (.vp, .r)
  | .efork f => f.ops unused (f.seqS 0, .r) (f.seqS 1, .r) (f.seqS 2, .r)
  | .erdv f => f.ops unused unused unused unused
  | .tfork f => f.ops (.vx, .w) (.vq, .r) (.vx, .r) unused
  | .tjoin f => f.ops unused (.vp, .r) unused unused
  | .rbeg f => f.ops unused unused unused unused
  | .rchk f => f.ops unused unused unused unused
  | .rend f => f.ops unused unused unused unused
  | .eretRetry f => f.ops (.v, .w) (.vp, .r) unused unused
  | .eretSkip f => f.ops (.v, .w) (.vp, .r) unused unused
  | .eretKill f => f.ops (.v, .w) (.vp, .r) unused unused
  | .tlbiCtx f => f.ops unused unused unused unused
  | .tlbiTbl f => f.ops unused (.vp, .r) unused unused
  | .tlbiVa f => f.ops unused (.vp, .r) unused unused
  | .tlbiS2 f => f.ops unused unused unused unused
  | .gcall f => f.ops (.vp, .w) (.vp, .r) unused unused
  | .cinvLine8 f => f.ops unused (.vp, .r) (.v, .r) unused
  | .cinvLine12 f => f.ops unused (.vp, .r) unused unused
  | .cinvAll f => f.ops unused unused unused unused ++ [⟨.none, f.imm.toNat, .n⟩]
  | .cwbLine8 f => f.ops unused (.vp, .r) (.v, .r) unused
  | .cwbLine12 f => f.ops unused (.vp, .r) unused unused
  | .cwbAll f => f.ops unused unused unused unused ++ [⟨.none, f.imm.toNat, .n⟩]
  | .ctxs f => f.ops unused (.vp, .r) (.vp, .r) (.vp, .r)
  | .ctxl f => f.ops unused (.vp, .r) (.vp, .r) (.vp, .r)
  | .kmig f => f.ops (.v, .w) (.vp, .r) (f.key, .r) (.v, .r)
  | .inj f => f.ops (.v, .w) (.vp, .r) (.vp, .r) unused
  | .smcall f => f.ops (.vp, .w) (.vp, .r) (.vp, .r) unused
  | .pad => []
  | .version _ => []
  | .ctxcreate _ => []
  | .ctxdestroy _ => []
  | .keyretire _ => []
  | .ecccount _ => []
  | .lookups _ => []
  | .setget _ => []
  | .setput _ => []
  | .attest _ => []
  | .attkey _ => []
  | .powercap _ => []
  | .thermal _ => []
  | .launchAccept _ => []
  | .resourceReport _ => []
  | .nodeDispatch _ => []
  | .starvePromotion _ => []
  | .headBlocked => []
  | .nodeRetire _ => []
  | .taskStart _ => []
  | .taskStealRetry _ => []
  | .heldStoreRelease _ => []
  | .atomicService _ => []
  | .atomicResultReturn _ => []
  | .homeMove _ _ => []
  | .rakeOperation _ => []
  | .tableReply _ => []
  | .fullEmptyLoadServe _ _ => []
  | .pollReread _ _ => []
  | .sqwaitRelease _ _ => []
  | .cwaitRelease _ _ => []
  | .tjoinRelease _ _ => []
  | .ldgLateArrival _ _ => []
  | .castDelivery _ => []
  | .erdvRendezvous _ => []
  | .cpyComplete _ => []
  | .decComplete _ => []
  | .gpoolComplete _ => []
  | .attnComplete _ => []
  | .collStart _ _ => []
  | .atoaBlockDelivery _ _ _ => []
  | .collComplete _ _ _ => []
  | .treeRecompute _ _ => []
  | .parkRetry _ _ => []
  | .commandFaultRetry _ => []
  | .smcFaultService _ _ => []
  | .pageMove _ _ _ => []
  | .preemptRequest _ _ => []
  | .forcedStop _ => []
  | .sumpSave _ => []
  | .saveCommit _ => []
  | .nodeResume _ => []
  | .nodeMove _ _ _ => []
  | .watchdogExpiry _ _ => []
  | .extwaitExpiry _ _ => []
  | .checkpoint _ => []
  | .strikeReport _ => []
  | .uncorrectableError _ => []
  | .linkUp _ _ _ => []
  | .linkRetransmitFail _ => []
  | .linkIdleTimeout _ => []
  | .idleFlit _ => []
  | .linkStateUpdate _ _ => []
  | .drainRound => []
  | .remoteRequest _ => []
  | .hostRequest _ => []
  | .interruptMessage _ _ => []
  | .runReassign _ _ _ => []
  | .reset _ => []
  | .throttleChange _ _ => []
  | .thermalTrip _ => []
  | .tileInstructionComplete _ => []
  | .engineCommandStart _ => []
  | .portTakenDown _ => []

/-- The modifier subfields the instruction admits; every other subfield is 0 (02 R56). -/
def Instr.modOk : Instr → Bool
  | .nop _ => true
  | .bra _ _ => true
  | .braNz _ _ _ => true
  | .braZ _ _ _ => true
  | .brx _ _ => true
  | .call _ _ _ => true
  | .callx _ _ _ => true
  | .ret _ _ => true
  | .exit _ => true
  | .join _ _ => true
  | .leave _ _ => true
  | .waitm _ _ => true
  | .bar _ _ => true
  | .elect _ _ => true
  | .yield _ => true
  | .trap _ _ => true
  | .bkpt _ _ => true
  | .uretRetry _ => true
  | .uretSkip _ => true
  | .trmp _ _ _ => true
  | .iadd8 f => f.modOk true true 2 false 0
  | .iadd12 f => f.modOk false true 2 false 0
  | .isub8 f => f.modOk true true 2 false 0
  | .isub12 f => f.modOk false true 2 false 0
  | .imul8 f => f.modOk true true 2 false 0
  | .imul12 f => f.modOk false true 2 false 0
  | .imulh8 f => f.modOk true true 0 true 0
  | .imulh12 f => f.modOk false true 0 true 0
  | .imad f => f.modOk true true 2 false 0
  | .idiv8 f => f.modOk true true 0 true 0
  | .idiv12 f => f.modOk false true 0 true 0
  | .idivRem8 f => f.modOk true true 0 true 0
  | .idivRem12 f => f.modOk false true 0 true 0
  | .imin8 f => f.modOk true true 0 true 0
  | .imin12 f => f.modOk false true 0 true 0
  | .imax8 f => f.modOk true true 0 true 0
  | .imax12 f => f.modOk false true 0 true 0
  | .iabs f => f.modOk false true 1 false 0
  | .shl8 f => f.modOk true true 0 false 0
  | .shl12 f => f.modOk false true 0 false 0
  | .shr8 f => f.modOk true true 0 false 0
  | .shr12 f => f.modOk false true 0 false 0
  | .shrSx8 f => f.modOk true true 0 false 0
  | .shrSx12 f => f.modOk false true 0 false 0
  | .rot8 f => f.modOk true true 0 false 0
  | .rot12 f => f.modOk false true 0 false 0
  | .bool8 f => f.modOk true true 0 false 0
  | .bool12 f => f.modOk false true 0 false 0
  | .bool16 f => f.modOk true true 0 false 0
  | .popc f => f.modOk false true 0 false 0
  | .clz f => f.modOk false true 0 false 0
  | .brev f => f.modOk false true 0 false 0
  | .bfx8 f => f.modOk true true 0 true 0
  | .bfx12 f => f.modOk false true 0 true 0
  | .bfi f => f.modOk true true 0 false 0
  | .icmp8 f => f.modOk true true 0 false 0
  | .icmp12 f => f.modOk false true 0 false 0
  | .sel f => f.modOk true true 0 false 0
  | .mov f => f.modOk false true 0 false 0
  | .movi f => f.modOk false true 0 false 0
  | .movs f => f.modOk false true 0 false 0
  | .movsFirst f => f.modOk false true 0 false 0
  | .mskAnd f => f.modOk false false 0 false 0
  | .mskOr f => f.modOk false false 0 false 0
  | .mskXor f => f.modOk false false 0 false 0
  | .mskAndn f => f.modOk false false 0 false 0
  | .mskNot f => f.modOk false false 0 false 0
  | .mskFroms f => f.modOk false false 0 false 0
  | .mskTos f => f.modOk false false 0 false 0
  | .mskPath f => f.modOk false false 0 false 0
  | .mpop f => f.modOk false false 0 false 0
  | .mpopTot f => f.modOk false false 0 false 0
  | .shflIdx8 f => f.modOk true true 0 false 12
  | .shflIdx12 f => f.modOk false true 0 false 12
  | .shflUp8 f => f.modOk true true 0 false 12
  | .shflUp12 f => f.modOk false true 0 false 12
  | .shflDown8 f => f.modOk true true 0 false 12
  | .shflDown12 f => f.modOk false true 0 false 12
  | .shflXor8 f => f.modOk true true 0 false 12
  | .shflXor12 f => f.modOk false true 0 false 12
  | .voteAll f => f.modOk false true 0 false 0
  | .voteAny f => f.modOk false true 0 false 0
  | .voteEq f => f.modOk false true 0 false 0
  | .voteBallot f => f.modOk false true 0 false 0
  | .matchAny f => f.modOk false true 0 false 0
  | .matchAll f => f.modOk false true 0 false 0
  | .redw f => f.modOk false true 0 false 0
  | .csrr f => f.modOk
  | .csrw f => f.modOk && f.csrn != 0x103
  | .csrwSet f => f.modOk && f.csrn != 0x103
  | .csrwClr f => f.modOk && f.csrn != 0x103
  | .parkceilWrite f => f.modOk && f.csrn == 0x103
  | .fadd8 f => f.modOk true 3 f.noFmt true false false
  | .fadd12 f => f.modOk false 3 f.noFmt true false false
  | .fmul8 f => f.modOk true 3 f.noFmt true false false
  | .fmul12 f => f.modOk false 3 f.noFmt true false false
  | .ffma f => f.modOk true 3 f.noFmt true true false
  | .fmin8 f => f.modOk true 0 f.noFmt true false false
  | .fmin12 f => f.modOk false 0 f.noFmt true false false
  | .fmax8 f => f.modOk true 0 f.noFmt true false false
  | .fmax12 f => f.modOk false 0 f.noFmt true false false
  | .fcmp8 f => f.modOk true 0 f.noFmt true false false
  | .fcmp12 f => f.modOk false 0 f.noFmt true false false
  | .fclass f => f.modOk false 0 f.noFmt false false false
  | .fcvtScalar f => f.modOk false 3 (f.fmt != f.src) false false false
  | .fcvtBlock f => f.modOk true 4 (f.fmt != f.src) false false false && !f.u
  | .frnd f => f.modOk false 3 f.noFmt false false false
  | .frcp f => f.modOk false 3 f.noFmt false false false
  | .fsqrt f => f.modOk false 3 f.noFmt false false false
  | .frsq f => f.modOk false 0 f.noFmt false false false
  | .fex2 f => f.modOk false 0 f.noFmt false false false
  | .flg2 f => f.modOk false 0 f.noFmt false false false
  | .fsin f => f.modOk false 0 f.noFmt false false false
  | .fcos f => f.modOk false 0 f.noFmt false false false
  | .ftanh f => f.modOk false 0 f.noFmt false false false
  | .pfma f => f.modOk true 3 ((f.fmt == .f16 || f.fmt == .bf16) && f.src == .f32) true true false
  | .amrg f => f.modOk false 0 f.noFmt false false true
  | .ld8 f => f.modOk f.ldSz f.ord.isLoad true 0 false false
  | .ld12 f => f.modOk f.ldSz f.ord.isLoad true 0 false false
  | .st8 f => f.modOk f.ldSz f.ord.isStore false 0 false false
  | .st12 f => f.modOk f.ldSz f.ord.isStore false 0 false false
  | .lds8 f => f.modOk true (f.ord.isLoad && f.scp.upToCore && f.feOrd) true 2 false false
  | .lds12 f => f.modOk true (f.ord.isLoad && f.scp.upToCore && f.feOrd) true 2 false false
  | .sts8 f => f.modOk true (f.ord.isStore && f.scp.upToCore && f.feOrd) false 1 false false
  | .sts12 f => f.modOk true (f.ord.isStore && f.scp.upToCore && f.feOrd) false 1 false false
  | .femSet8 f => f.modOk f.noSz (f.ord == .rlx) false 0 false false
  | .femSet12 f => f.modOk f.noSz (f.ord == .rlx) false 0 false false
  | .femClr8 f => f.modOk f.noSz (f.ord == .rlx) false 0 false false
  | .femClr12 f => f.modOk f.noSz (f.ord == .rlx) false 0 false false
  | .femTest8 f => f.modOk f.noSz (f.ord == .rlx) false 0 false false
  | .femTest12 f => f.modOk f.noSz (f.ord == .rlx) false 0 false false
  | .ldg f => f.modOk true (f.ord.isLoad && f.ord != .sc) true 0 false false
  | .sct f => f.modOk true f.ord.isStore false 0 false true
  | .pref8 f => f.modOk f.noSz (f.ord == .rlx) false 0 false true
  | .pref12 f => f.modOk f.noSz (f.ord == .rlx) false 0 false true
  | .fence f => f.modOk f.noSz (f.ord != .rlx) false 0 false false
  | .atom f => f.modOk f.atomSz true false 0 false false
  | .atomCas f => f.modOk (f.sz48 || f.sz == .b128) true false 0 false false
  | .red8 f => f.modOk f.redSz f.ord.isStore false 0 false false
  | .red12 f => f.modOk f.redSz f.ord.isStore false 0 false false
  | .poll f => f.modOk f.sz48 f.ord.isLoad false 0 true true
  | .tinfo f => f.modOk false false false false true false
  | .kget f => f.modOk false false false true false true
  | .kins f => f.modOk true true false true false true
  | .kdel f => f.modOk false false false true false true
  | .kseek f => f.modOk false false true true false true
  | .knext f => f.modOk false false false false false false
  | .kprev f => f.modOk false false false false false false
  | .kclose f => f.modOk false false false false false false
  | .kpfx f => f.modOk false false false false false true
  | .kpfxi f => f.modOk true false false false false true
  | .krecl f => f.modOk false false false false false false
  | .sqres f => f.modOk false false false false false true
  | .sqcmt f => f.modOk false false false false false true
  | .sqabn f => f.modOk false false false false false true
  | .sqlen f => f.modOk false false false false false false
  | .sqwait f => f.modOk false false false false false true
  | .sqfork f => f.modOk false false false false false true
  | .sqdrop f => f.modOk false false false false false false
  | .sqloc f => f.modOk false false false false false true
  | .tcfg8 f => f.modOk f.noOrd false false false
  | .tcfg12 f => f.modOk f.noOrd false false false
  | .trdc f => f.modOk f.noOrd false false false
  | .tld f => f.modOk f.ord.isLoad true false false
  | .tst f => f.modOk f.ord.isStore true false false
  | .tzero f => f.modOk f.noOrd false false false
  | .tmov f => f.modOk f.noOrd false true false
  | .mma f => f.modOk f.noOrd false false false
  | .mmas f => f.modOk f.noOrd false false false
  | .tcomp f => f.modOk f.noOrd false false true
  | .tqnt f => f.modOk f.noOrd false false false
  | .tdq f => f.modOk f.noOrd false false false
  | .tred f => f.modOk f.noOrd false false false
  | .tscl f => f.modOk f.noOrd false true false
  | .vtopk f => f.modOk f.noOrd false false false
  | .vtopkLn f => f.modOk f.noOrd false false false
  | .cpy f => f.modOk true true false 3
  | .cwait f => f.modOk false true false 0
  | .dec f => f.modOk true true false 0
  | .dtld f => f.modOk false false false 1
  | .gpool f => f.modOk true true false 0 && f.scp.wide
  | .attn f => f.modOk true true false 0 && f.scp.wide
  | .collAllred f => f.modOk true true true 0 && f.scp == .system
  | .collRedsc f => f.modOk true true true 0 && f.scp == .system
  | .collAllgath f => f.modOk true true true 0 && f.scp == .system
  | .collAtoa f => f.modOk true true true 0 && f.scp == .system
  | .efork f => f.modOk false false false 7 && f.x != 0
  | .erdv f => f.modOk false false false 0
  | .tfork f => f.modOk false false false 0
  | .tjoin f => f.modOk false false false 0
  | .rbeg f => f.modOk false false false 0
  | .rchk f => f.modOk false false false 0
  | .rend f => f.modOk false false false 0
  | .eretRetry f => f.modOk false && !f.long
  | .eretSkip f => f.modOk false && !f.long
  | .eretKill f => f.modOk false && !f.long
  | .tlbiCtx f => f.modOk false && !f.long
  | .tlbiTbl f => f.modOk false && !f.long
  | .tlbiVa f => f.modOk false && !f.long
  | .tlbiS2 f => f.modOk false && !f.long
  | .gcall f => f.modOk false && !f.long
  | .cinvLine8 f => f.modOk false && !f.long
  | .cinvLine12 f => f.modOk false && !f.long
  | .cinvAll f => f.modOk false
  | .cwbLine8 f => f.modOk false && !f.long
  | .cwbLine12 f => f.modOk false && !f.long
  | .cwbAll f => f.modOk false
  | .ctxs f => f.modOk false && !f.long
  | .ctxl f => f.modOk false && !f.long
  | .kmig f => f.modOk true && !f.long
  | .inj f => f.modOk false && !f.long
  | .smcall f => f.modOk false && !f.long
  | .pad => true
  | .version _ => true
  | .ctxcreate _ => true
  | .ctxdestroy _ => true
  | .keyretire _ => true
  | .ecccount _ => true
  | .lookups _ => true
  | .setget _ => true
  | .setput _ => true
  | .attest _ => true
  | .attkey _ => true
  | .powercap _ => true
  | .thermal _ => true
  | .launchAccept _ => true
  | .resourceReport _ => true
  | .nodeDispatch _ => true
  | .starvePromotion _ => true
  | .headBlocked => true
  | .nodeRetire _ => true
  | .taskStart _ => true
  | .taskStealRetry _ => true
  | .heldStoreRelease _ => true
  | .atomicService _ => true
  | .atomicResultReturn _ => true
  | .homeMove _ _ => true
  | .rakeOperation _ => true
  | .tableReply _ => true
  | .fullEmptyLoadServe _ _ => true
  | .pollReread _ _ => true
  | .sqwaitRelease _ _ => true
  | .cwaitRelease _ _ => true
  | .tjoinRelease _ _ => true
  | .ldgLateArrival _ _ => true
  | .castDelivery _ => true
  | .erdvRendezvous _ => true
  | .cpyComplete _ => true
  | .decComplete _ => true
  | .gpoolComplete _ => true
  | .attnComplete _ => true
  | .collStart _ _ => true
  | .atoaBlockDelivery _ _ _ => true
  | .collComplete _ _ _ => true
  | .treeRecompute _ _ => true
  | .parkRetry _ _ => true
  | .commandFaultRetry _ => true
  | .smcFaultService _ _ => true
  | .pageMove _ _ _ => true
  | .preemptRequest _ _ => true
  | .forcedStop _ => true
  | .sumpSave _ => true
  | .saveCommit _ => true
  | .nodeResume _ => true
  | .nodeMove _ _ _ => true
  | .watchdogExpiry _ _ => true
  | .extwaitExpiry _ _ => true
  | .checkpoint _ => true
  | .strikeReport _ => true
  | .uncorrectableError _ => true
  | .linkUp _ _ _ => true
  | .linkRetransmitFail _ => true
  | .linkIdleTimeout _ => true
  | .idleFlit _ => true
  | .linkStateUpdate _ _ => true
  | .drainRound => true
  | .remoteRequest _ => true
  | .hostRequest _ => true
  | .interruptMessage _ _ => true
  | .runReassign _ _ _ => true
  | .reset _ => true
  | .throttleChange _ _ => true
  | .thermalTrip _ => true
  | .tileInstructionComplete _ => true
  | .engineCommandStart _ => true
  | .portTakenDown _ => true

/-- The minor functions the instruction admits (02 R57); where the constructor fixes it, the field is 0. -/
def Instr.fnOk : Instr → Bool
  | .nop _ => true
  | .bra _ _ => true
  | .braNz _ _ _ => true
  | .braZ _ _ _ => true
  | .brx _ _ => true
  | .call _ _ _ => true
  | .callx _ _ _ => true
  | .ret _ _ => true
  | .exit _ => true
  | .join _ _ => true
  | .leave _ _ => true
  | .waitm _ _ => true
  | .bar _ g => decide (g < 256)
  | .elect _ _ => true
  | .yield _ => true
  | .trap _ n => decide (n < 256)
  | .bkpt _ n => decide (n < 256)
  | .uretRetry _ => true
  | .uretSkip _ => true
  | .trmp _ slot _ => decide (slot < 2048)
  | .iadd8 f => f.fn == 0
  | .iadd12 f => f.fn == 0
  | .isub8 f => f.fn == 0
  | .isub12 f => f.fn == 0
  | .imul8 f => f.fn == 0
  | .imul12 f => f.fn == 0
  | .imulh8 f => f.fn == 0
  | .imulh12 f => f.fn == 0
  | .imad f => f.fn == 0
  | .idiv8 f => f.fn == 0
  | .idiv12 f => f.fn == 0
  | .idivRem8 f => f.fn == 0
  | .idivRem12 f => f.fn == 0
  | .imin8 f => f.fn == 0
  | .imin12 f => f.fn == 0
  | .imax8 f => f.fn == 0
  | .imax12 f => f.fn == 0
  | .iabs f => f.fn == 0
  | .shl8 f => f.fn == 0
  | .shl12 f => f.fn == 0
  | .shr8 f => f.fn == 0
  | .shr12 f => f.fn == 0
  | .shrSx8 f => f.fn == 0
  | .shrSx12 f => f.fn == 0
  | .rot8 f => f.fn == 0
  | .rot12 f => f.fn == 0
  | .bool8 f => decide (f.fn ≤ 255)
  | .bool12 f => decide (f.fn ≤ 255)
  | .bool16 f => decide (f.fn ≤ 255)
  | .popc f => f.fn == 0
  | .clz f => f.fn == 0
  | .brev f => f.fn == 0
  | .bfx8 f => f.fn == 0
  | .bfx12 f => f.fn == 0
  | .bfi f => f.fn == 0
  | .icmp8 f => decide (f.fn ≤ 9)
  | .icmp12 f => decide (f.fn ≤ 9)
  | .sel f => f.fn == 0
  | .mov f => f.fn == 0
  | .movi f => f.fn == 0
  | .movs f => f.fn == 0
  | .movsFirst f => f.fn == 0
  | .mskAnd f => f.fn == 0
  | .mskOr f => f.fn == 0
  | .mskXor f => f.fn == 0
  | .mskAndn f => f.fn == 0
  | .mskNot f => f.fn == 0
  | .mskFroms f => f.fn == 0
  | .mskTos f => f.fn == 0
  | .mskPath f => f.fn == 0
  | .mpop f => f.fn == 0
  | .mpopTot f => f.fn == 0
  | .shflIdx8 f => f.fn == 0
  | .shflIdx12 f => f.fn == 0
  | .shflUp8 f => f.fn == 0
  | .shflUp12 f => f.fn == 0
  | .shflDown8 f => f.fn == 0
  | .shflDown12 f => f.fn == 0
  | .shflXor8 f => f.fn == 0
  | .shflXor12 f => f.fn == 0
  | .voteAll f => f.fn == 0
  | .voteAny f => f.fn == 0
  | .voteEq f => f.fn == 0
  | .voteBallot f => f.fn == 0
  | .matchAny f => f.fn == 0
  | .matchAll f => f.fn == 0
  | .redw f => decide (f.fn ≤ 7)
  | .csrr f => f.fn == 0
  | .csrw f => f.fn == 0
  | .csrwSet f => f.fn == 0
  | .csrwClr f => f.fn == 0
  | .parkceilWrite f => decide (f.fn ≤ 2)
  | .fadd8 f => f.fn == 0
  | .fadd12 f => f.fn == 0
  | .fmul8 f => f.fn == 0
  | .fmul12 f => f.fn == 0
  | .ffma f => f.fn == 0
  | .fmin8 f => f.fn == 0
  | .fmin12 f => f.fn == 0
  | .fmax8 f => f.fn == 0
  | .fmax12 f => f.fn == 0
  | .fcmp8 f => decide (f.fn ≤ 13)
  | .fcmp12 f => decide (f.fn ≤ 13)
  | .fclass f => f.fn == 0
  | .fcvtScalar f => f.fn == 0
  | .fcvtBlock f => f.fn == 0
  | .frnd f => f.fn == 0
  | .frcp f => f.fn == 0
  | .fsqrt f => f.fn == 0
  | .frsq f => f.fn == 0
  | .fex2 f => f.fn == 0
  | .flg2 f => f.fn == 0
  | .fsin f => f.fn == 0
  | .fcos f => f.fn == 0
  | .ftanh f => f.fn == 0
  | .pfma f => f.fn == 0
  | .amrg f => f.fn == 0
  | .ld8 f => f.fn == 0
  | .ld12 f => f.fn == 0
  | .st8 f => f.fn == 0
  | .st12 f => f.fn == 0
  | .lds8 f => f.fn == 0
  | .lds12 f => f.fn == 0
  | .sts8 f => f.fn == 0
  | .sts12 f => f.fn == 0
  | .femSet8 f => f.fn == 0
  | .femSet12 f => f.fn == 0
  | .femClr8 f => f.fn == 0
  | .femClr12 f => f.fn == 0
  | .femTest8 f => f.fn == 0
  | .femTest12 f => f.fn == 0
  | .ldg f => f.fn == 0
  | .sct f => f.fn == 0
  | .pref8 f => f.fn == 0
  | .pref12 f => f.fn == 0
  | .fence f => f.fn == 0
  | .atom f => decide (f.fn ≤ 15) && f.fn != 10
  | .atomCas f => f.fn == 0
  | .red8 f => decide (f.fn ≤ 11)
  | .red12 f => decide (f.fn ≤ 11)
  | .poll f => f.fn == 0
  | .tinfo _ => true
  | .kget _ => true
  | .kins _ => true
  | .kdel _ => true
  | .kseek _ => true
  | .knext _ => true
  | .kprev _ => true
  | .kclose _ => true
  | .kpfx _ => true
  | .kpfxi _ => true
  | .krecl _ => true
  | .sqres _ => true
  | .sqcmt _ => true
  | .sqabn _ => true
  | .sqlen _ => true
  | .sqwait _ => true
  | .sqfork _ => true
  | .sqdrop _ => true
  | .sqloc _ => true
  | .tcfg8 f => f.fn == 0
  | .tcfg12 f => f.fn == 0
  | .trdc f => f.fn == 0
  | .tld f => f.fn == 0
  | .tst f => f.fn == 0
  | .tzero f => f.fn == 0
  | .tmov f => f.fn == 0
  | .mma f => f.fn == 0
  | .mmas f => f.fn == 0
  | .tcomp f => f.fn == 0
  | .tqnt f => f.fn == 0
  | .tdq f => f.fn == 0
  | .tred f => decide (f.fn ≤ 3)
  | .tscl f => f.fn == 0
  | .vtopk f => f.fn == 0
  | .vtopkLn f => f.fn == 0
  | .cpy _ => true
  | .cwait _ => true
  | .dec _ => true
  | .dtld _ => true
  | .gpool _ => true
  | .attn _ => true
  | .collAllred _ => true
  | .collRedsc _ => true
  | .collAllgath _ => true
  | .collAtoa _ => true
  | .efork _ => true
  | .erdv _ => true
  | .tfork _ => true
  | .tjoin _ => true
  | .rbeg _ => true
  | .rchk _ => true
  | .rend _ => true
  | .eretRetry _ => true
  | .eretSkip _ => true
  | .eretKill _ => true
  | .tlbiCtx _ => true
  | .tlbiTbl _ => true
  | .tlbiVa _ => true
  | .tlbiS2 _ => true
  | .gcall _ => true
  | .cinvLine8 _ => true
  | .cinvLine12 _ => true
  | .cinvAll _ => true
  | .cwbLine8 _ => true
  | .cwbLine12 _ => true
  | .cwbAll _ => true
  | .ctxs _ => true
  | .ctxl _ => true
  | .kmig _ => true
  | .inj _ => true
  | .smcall _ => true
  | .pad => true
  | .version _ => true
  | .ctxcreate _ => true
  | .ctxdestroy _ => true
  | .keyretire _ => true
  | .ecccount _ => true
  | .lookups _ => true
  | .setget _ => true
  | .setput _ => true
  | .attest _ => true
  | .attkey _ => true
  | .powercap _ => true
  | .thermal _ => true
  | .launchAccept _ => true
  | .resourceReport _ => true
  | .nodeDispatch _ => true
  | .starvePromotion _ => true
  | .headBlocked => true
  | .nodeRetire _ => true
  | .taskStart _ => true
  | .taskStealRetry _ => true
  | .heldStoreRelease _ => true
  | .atomicService _ => true
  | .atomicResultReturn _ => true
  | .homeMove _ _ => true
  | .rakeOperation _ => true
  | .tableReply _ => true
  | .fullEmptyLoadServe _ _ => true
  | .pollReread _ _ => true
  | .sqwaitRelease _ _ => true
  | .cwaitRelease _ _ => true
  | .tjoinRelease _ _ => true
  | .ldgLateArrival _ _ => true
  | .castDelivery _ => true
  | .erdvRendezvous _ => true
  | .cpyComplete _ => true
  | .decComplete _ => true
  | .gpoolComplete _ => true
  | .attnComplete _ => true
  | .collStart _ _ => true
  | .atoaBlockDelivery _ _ _ => true
  | .collComplete _ _ _ => true
  | .treeRecompute _ _ => true
  | .parkRetry _ _ => true
  | .commandFaultRetry _ => true
  | .smcFaultService _ _ => true
  | .pageMove _ _ _ => true
  | .preemptRequest _ _ => true
  | .forcedStop _ => true
  | .sumpSave _ => true
  | .saveCommit _ => true
  | .nodeResume _ => true
  | .nodeMove _ _ _ => true
  | .watchdogExpiry _ _ => true
  | .extwaitExpiry _ _ => true
  | .checkpoint _ => true
  | .strikeReport _ => true
  | .uncorrectableError _ => true
  | .linkUp _ _ _ => true
  | .linkRetransmitFail _ => true
  | .linkIdleTimeout _ => true
  | .idleFlit _ => true
  | .linkStateUpdate _ _ => true
  | .drainRound => true
  | .remoteRequest _ => true
  | .hostRequest _ => true
  | .interruptMessage _ _ => true
  | .runReassign _ _ _ => true
  | .reset _ => true
  | .throttleChange _ _ => true
  | .thermalTrip _ => true
  | .tileInstructionComplete _ => true
  | .engineCommandStart _ => true
  | .portTakenDown _ => true

/-- The immediates the instruction admits (02 R56, 07 R180, 11 R262, 12 R285); a form without one has 0. -/
def Instr.immOk : Instr → Bool
  | .nop _ => true
  | .bra _ _ => true
  | .braNz _ _ _ => true
  | .braZ _ _ _ => true
  | .brx _ _ => true
  | .call _ _ _ => true
  | .callx _ _ _ => true
  | .ret _ _ => true
  | .exit _ => true
  | .join _ _ => true
  | .leave _ _ => true
  | .waitm _ _ => true
  | .bar _ _ => true
  | .elect _ _ => true
  | .yield _ => true
  | .trap _ _ => true
  | .bkpt _ _ => true
  | .uretRetry _ => true
  | .uretSkip _ => true
  | .trmp _ _ _ => true
  | .iadd8 f => f.imm == 0
  | .iadd12 _ => true
  | .isub8 f => f.imm == 0
  | .isub12 _ => true
  | .imul8 f => f.imm == 0
  | .imul12 _ => true
  | .imulh8 f => f.imm == 0
  | .imulh12 _ => true
  | .imad f => f.imm == 0
  | .idiv8 f => f.imm == 0
  | .idiv12 _ => true
  | .idivRem8 f => f.imm == 0
  | .idivRem12 _ => true
  | .imin8 f => f.imm == 0
  | .imin12 _ => true
  | .imax8 f => f.imm == 0
  | .imax12 _ => true
  | .iabs f => f.imm == 0
  | .shl8 f => f.imm == 0
  | .shl12 f => decide (f.imm.toNat ≤ 255)
  | .shr8 f => f.imm == 0
  | .shr12 f => decide (f.imm.toNat ≤ 255)
  | .shrSx8 f => f.imm == 0
  | .shrSx12 f => decide (f.imm.toNat ≤ 255)
  | .rot8 f => f.imm == 0
  | .rot12 f => decide (f.imm.toNat ≤ 255)
  | .bool8 f => f.imm == 0
  | .bool12 _ => true
  | .bool16 f => f.imm == 0
  | .popc f => f.imm == 0
  | .clz f => f.imm == 0
  | .brev f => f.imm == 0
  | .bfx8 f => f.imm == 0
  | .bfx12 f => decide (f.imm.toNat < 2 ^ 16)
  | .bfi f => f.imm == 0
  | .icmp8 f => f.imm == 0
  | .icmp12 _ => true
  | .sel f => f.imm == 0
  | .mov f => f.imm == 0
  | .movi _ => true
  | .movs f => f.imm == 0
  | .movsFirst f => f.imm == 0
  | .mskAnd f => f.imm == 0
  | .mskOr f => f.imm == 0
  | .mskXor f => f.imm == 0
  | .mskAndn f => f.imm == 0
  | .mskNot f => f.imm == 0
  | .mskFroms f => f.imm == 0
  | .mskTos f => f.imm == 0
  | .mskPath f => f.imm == 0
  | .mpop f => f.imm == 0
  | .mpopTot f => f.imm == 0
  | .shflIdx8 f => f.imm == 0
  | .shflIdx12 f => decide (f.imm.toNat ≤ 31)
  | .shflUp8 f => f.imm == 0
  | .shflUp12 f => decide (f.imm.toNat ≤ 31)
  | .shflDown8 f => f.imm == 0
  | .shflDown12 f => decide (f.imm.toNat ≤ 31)
  | .shflXor8 f => f.imm == 0
  | .shflXor12 f => decide (f.imm.toNat ≤ 31)
  | .voteAll f => f.imm == 0
  | .voteAny f => f.imm == 0
  | .voteEq f => f.imm == 0
  | .voteBallot f => f.imm == 0
  | .matchAny f => f.imm == 0
  | .matchAll f => f.imm == 0
  | .redw f => f.imm == 0
  | .csrr _ => true
  | .csrw _ => true
  | .csrwSet _ => true
  | .csrwClr _ => true
  | .parkceilWrite _ => true
  | .fadd8 f => f.imm == 0
  | .fadd12 _ => true
  | .fmul8 f => f.imm == 0
  | .fmul12 _ => true
  | .ffma f => f.imm == 0
  | .fmin8 f => f.imm == 0
  | .fmin12 _ => true
  | .fmax8 f => f.imm == 0
  | .fmax12 _ => true
  | .fcmp8 f => f.imm == 0
  | .fcmp12 _ => true
  | .fclass f => f.imm == 0
  | .fcvtScalar f => f.imm == 0
  | .fcvtBlock f => f.imm == 0
  | .frnd f => f.imm == 0
  | .frcp f => f.imm == 0
  | .fsqrt f => f.imm == 0
  | .frsq f => f.imm == 0
  | .fex2 f => f.imm == 0
  | .flg2 f => f.imm == 0
  | .fsin f => f.imm == 0
  | .fcos f => f.imm == 0
  | .ftanh f => f.imm == 0
  | .pfma f => f.imm == 0
  | .amrg f => f.imm == 0
  | .ld8 f => f.imm == 0
  | .ld12 _ => true
  | .st8 f => f.imm == 0
  | .st12 _ => true
  | .lds8 f => f.imm == 0
  | .lds12 _ => true
  | .sts8 f => f.imm == 0
  | .sts12 _ => true
  | .femSet8 f => f.imm == 0
  | .femSet12 _ => true
  | .femClr8 f => f.imm == 0
  | .femClr12 _ => true
  | .femTest8 f => f.imm == 0
  | .femTest12 _ => true
  | .ldg f => f.imm == 0
  | .sct f => f.imm == 0
  | .pref8 f => f.imm == 0
  | .pref12 _ => true
  | .fence f => f.imm == 0
  | .atom f => f.imm == 0
  | .atomCas f => f.imm == 0
  | .red8 f => f.imm == 0
  | .red12 _ => true
  | .poll _ => true
  | .tinfo _ => true
  | .kget _ => true
  | .kins _ => true
  | .kdel _ => true
  | .kseek _ => true
  | .knext _ => true
  | .kprev _ => true
  | .kclose _ => true
  | .kpfx _ => true
  | .kpfxi _ => true
  | .krecl _ => true
  | .sqres _ => true
  | .sqcmt _ => true
  | .sqabn _ => true
  | .sqlen _ => true
  | .sqwait _ => true
  | .sqfork _ => true
  | .sqdrop _ => true
  | .sqloc _ => true
  | .tcfg8 f => f.imm == 0
  | .tcfg12 f => tcfgOk f.imm.toNat
  | .trdc f => f.imm == 0
  | .tld f => f.imm == 0
  | .tst f => f.imm == 0
  | .tzero f => f.imm == 0
  | .tmov f => f.imm == 0
  | .mma f => f.imm == 0
  | .mmas f => f.imm == 0
  | .tcomp f => f.imm == 0
  | .tqnt f => f.imm == 0
  | .tdq f => f.imm == 0
  | .tred f => f.imm == 0
  | .tscl f => f.imm == 0
  | .vtopk f => f.imm == 0
  | .vtopkLn f => f.imm == 0
  | .cpy f => f.imm == 0
  | .cwait f => f.imm == 0
  | .dec f => f.imm == 0
  | .dtld f => f.imm == 0
  | .gpool f => f.imm == 0
  | .attn f => f.imm == 0
  | .collAllred f => f.imm == 0
  | .collRedsc f => f.imm == 0
  | .collAllgath f => f.imm == 0
  | .collAtoa f => f.imm == 0
  | .efork f => f.imm == 0
  | .erdv f => f.imm == 0
  | .tfork f => decide (f.imm.toNat < 64)
  | .tjoin f => f.imm == 0
  | .rbeg f => f.imm == 0
  | .rchk f => f.imm == 0
  | .rend f => f.imm == 0
  | .eretRetry f => f.imm == 0
  | .eretSkip f => f.imm == 0
  | .eretKill f => f.imm == 0
  | .tlbiCtx f => f.imm == 0
  | .tlbiTbl f => f.imm == 0
  | .tlbiVa f => f.imm == 0
  | .tlbiS2 f => f.imm == 0
  | .gcall f => f.imm == 0
  | .cinvLine8 f => f.imm == 0
  | .cinvLine12 _ => true
  | .cinvAll f => f.long || f.imm == 0
  | .cwbLine8 f => f.imm == 0
  | .cwbLine12 _ => true
  | .cwbAll f => f.long || f.imm == 0
  | .ctxs f => f.imm == 0
  | .ctxl f => f.imm == 0
  | .kmig f => f.imm == 0
  | .inj f => f.imm == 0
  | .smcall f => f.imm == 0
  | .pad => true
  | .version _ => true
  | .ctxcreate _ => true
  | .ctxdestroy _ => true
  | .keyretire _ => true
  | .ecccount _ => true
  | .lookups _ => true
  | .setget _ => true
  | .setput _ => true
  | .attest _ => true
  | .attkey _ => true
  | .powercap _ => true
  | .thermal _ => true
  | .launchAccept _ => true
  | .resourceReport _ => true
  | .nodeDispatch _ => true
  | .starvePromotion _ => true
  | .headBlocked => true
  | .nodeRetire _ => true
  | .taskStart _ => true
  | .taskStealRetry _ => true
  | .heldStoreRelease _ => true
  | .atomicService _ => true
  | .atomicResultReturn _ => true
  | .homeMove _ _ => true
  | .rakeOperation _ => true
  | .tableReply _ => true
  | .fullEmptyLoadServe _ _ => true
  | .pollReread _ _ => true
  | .sqwaitRelease _ _ => true
  | .cwaitRelease _ _ => true
  | .tjoinRelease _ _ => true
  | .ldgLateArrival _ _ => true
  | .castDelivery _ => true
  | .erdvRendezvous _ => true
  | .cpyComplete _ => true
  | .decComplete _ => true
  | .gpoolComplete _ => true
  | .attnComplete _ => true
  | .collStart _ _ => true
  | .atoaBlockDelivery _ _ _ => true
  | .collComplete _ _ _ => true
  | .treeRecompute _ _ => true
  | .parkRetry _ _ => true
  | .commandFaultRetry _ => true
  | .smcFaultService _ _ => true
  | .pageMove _ _ _ => true
  | .preemptRequest _ _ => true
  | .forcedStop _ => true
  | .sumpSave _ => true
  | .saveCommit _ => true
  | .nodeResume _ => true
  | .nodeMove _ _ _ => true
  | .watchdogExpiry _ _ => true
  | .extwaitExpiry _ _ => true
  | .checkpoint _ => true
  | .strikeReport _ => true
  | .uncorrectableError _ => true
  | .linkUp _ _ _ => true
  | .linkRetransmitFail _ => true
  | .linkIdleTimeout _ => true
  | .idleFlit _ => true
  | .linkStateUpdate _ _ => true
  | .drainRound => true
  | .remoteRequest _ => true
  | .hostRequest _ => true
  | .interruptMessage _ _ => true
  | .runReassign _ _ _ => true
  | .reset _ => true
  | .throttleChange _ _ => true
  | .thermalTrip _ => true
  | .tileInstructionComplete _ => true
  | .engineCommandStart _ => true
  | .portTakenDown _ => true

/-- The branch displacement, where the form has one (02 R56). -/
def Instr.disp : Instr → Option W32
  | .bra _ disp => some disp
  | .braNz _ _ disp => some disp
  | .braZ _ _ disp => some disp
  | .call _ _ disp => some disp
  | .trmp _ _ disp => some disp
  | _ => none

/-- The lengths and the number of minor functions of each assigned major opcode (02 R57, R59). -/
def majTable : List (Nat × List Nat × Nat) :=
  [(0x01, [8], 1), (0x02, [12], 1), (0x03, [8], 1), (0x04, [12], 1), (0x05, [8], 1), (0x06, [8], 1),
   (0x07, [8], 1), (0x08, [8], 1), (0x09, [8], 1), (0x0A, [8], 1), (0x0B, [8], 1), (0x0C, [8], 1),
   (0x0D, [8], 1), (0x0E, [8], 256), (0x0F, [8], 256), (0x10, [8], 2), (0x20, [8, 12], 1),
   (0x21, [8, 12], 1), (0x22, [8, 12], 1), (0x23, [8, 12], 1), (0x24, [16], 1), (0x25, [8, 12], 2),
   (0x26, [8, 12], 1), (0x27, [8, 12], 1), (0x28, [8], 1), (0x29, [8, 12], 1), (0x2A, [8, 12], 2),
   (0x2B, [8, 12], 1), (0x2C, [8, 12, 16], 256), (0x2D, [8], 1), (0x2E, [8], 1), (0x2F, [8], 1),
   (0x30, [8, 12], 1), (0x31, [16], 1), (0x32, [8, 12], 10), (0x33, [8], 1), (0x34, [8], 1),
   (0x35, [12], 1), (0x36, [8], 1), (0x37, [8], 8)] ++
  [(0x38, [8], 1), (0x39, [8, 12], 4), (0x3A, [8], 4), (0x3B, [8], 2), (0x3C, [8], 8), (0x3D, [8], 1),
   (0x3E, [8], 3), (0x50, [8, 12], 1), (0x51, [8, 12], 1), (0x52, [16], 1), (0x53, [8, 12], 1),
   (0x54, [8, 12], 1), (0x55, [8, 12], 14), (0x56, [8], 1), (0x57, [8, 16], 1), (0x58, [8], 1),
   (0x59, [8], 1), (0x5A, [8], 1), (0x5B, [8], 1), (0x5C, [8], 1), (0x5D, [8], 1), (0x5E, [8], 1),
   (0x5F, [8], 1), (0x60, [8], 1), (0x61, [16], 1), (0x62, [16], 1), (0x70, [8, 12], 1),
   (0x71, [8, 12], 1), (0x72, [8, 12], 1), (0x73, [8, 12], 1), (0x74, [8, 12], 3), (0x75, [16], 1),
   (0x76, [16], 1), (0x77, [8, 12], 1), (0x78, [8], 1), (0x79, [8, 16], 16), (0x7A, [8, 12], 12),
   (0x7B, [12], 1), (0x90, [8], 1), (0x91, [16], 1)] ++
  [(0x92, [16], 1), (0x93, [16], 1), (0x94, [16], 1), (0x95, [8], 1), (0x96, [8], 1), (0x97, [8], 1),
   (0x98, [16], 1), (0x99, [16], 1), (0x9A, [8], 1), (0x9B, [16], 1), (0x9C, [16], 1), (0x9D, [16], 1),
   (0x9E, [8], 1), (0x9F, [16], 1), (0xA0, [16], 1), (0xA1, [8], 1), (0xA2, [16], 1), (0xA8, [8, 12], 1),
   (0xA9, [8], 1), (0xAA, [16], 1), (0xAB, [16], 1), (0xAC, [8], 1), (0xAD, [8], 1), (0xAE, [8], 1),
   (0xAF, [8], 1), (0xB0, [16], 1), (0xB1, [16], 1), (0xB2, [16], 1), (0xB3, [8], 4), (0xB4, [16], 1),
   (0xB5, [16], 1), (0xC0, [16], 1), (0xC1, [8], 1), (0xC2, [16], 1), (0xC3, [16], 1), (0xC4, [16], 1),
   (0xC5, [16], 1), (0xC6, [16], 4), (0xC7, [16], 1), (0xC8, [8], 1)] ++
  [(0xC9, [12], 1), (0xCA, [8], 1), (0xCB, [8], 1), (0xCC, [8], 1), (0xCD, [8], 1), (0xE0, [8], 1),
   (0xE1, [8], 4), (0xE2, [8], 1), (0xE3, [8], 1), (0xE4, [8, 12], 2), (0xE5, [8, 12], 2),
   (0xE6, [16], 1), (0xE7, [16], 1), (0xE8, [16], 1), (0xE9, [16], 1), (0xF0, [12], 256),
   (0xF1, [12], 256), (0xF2, [12], 256), (0xF3, [12], 256), (0xF4, [12], 256), (0xF5, [12], 256),
   (0xF6, [12], 256), (0xF7, [12], 256)]

/-- The row of a major opcode. -/
def majRow (maj : Nat) : Option (List Nat × Nat) := (majTable.find? fun r => r.1 == maj).map fun r => r.2

/-- Major opcodes with a uniform form (02 R53). -/
def uniformMaj (maj : Nat) : Bool :=
  (decide (0x20 ≤ maj) && decide (maj ≤ 0x36) && maj != 0x36) || (decide (0x50 ≤ maj) && decide (maj ≤ 0x60))
    || maj == 0x70 || maj == 0x71 || maj == 0x02 || maj == 0x3D || maj == 0x3E

/-- Major opcodes that a pan unit lacks (01 R12, 16 R320). -/
def panLacks (maj : Nat) : Bool :=
  (decide (0xA8 ≤ maj) && decide (maj ≤ 0xDF) && maj != 0xC1 && maj != 0xC6)
    || (decide (0xE0 ≤ maj) && decide (maj ≤ 0xEF) && maj != 0xE3)

/-- Major opcodes whose minor function is an operand of one constructor. -/
def fnFree (maj : Nat) : Bool :=
  [0x0E, 0x0F, 0x2C, 0x32, 0x3C, 0x3E, 0x55, 0x79, 0x7A, 0xB3].contains maj || decide (0xF0 ≤ maj)

end Sys2Proof
end

