-- ==== Sys2Proof/WellFormed.lean ====
section
/-! DEFINITION. Well-formed instructions: those whose fields an encoding of the spec admits (02 R51–R56). -/

namespace Sys2Proof

/-- Every operand number lies in its class (02 R55). -/
def Instr.regOk (i : Instr) : Bool := i.opnds.all fun o => o.cls.admits o.num

/-- Every operand number lies in its class in an engine program (11 R266). -/
def Instr.seqRegOk (i : Instr) : Bool := i.opnds.all fun o => o.cls.seqAdmits o.num

/-- Words encode the instruction: it is the pad word or a row of R57, no service of `SMCALL` and no event. -/
def Instr.isCoded (i : Instr) : Bool := decide (i = .pad) || i.toRaw.isSome

/-- The predicate and the uniform bit are legal, and every field fits its bits (02 R51–R53). -/
def Raw.headOk (r : Raw) : Bool := r.inRange && decide (r.pm ≤ 12) && (!r.u || uniformMaj r.maj)

/-- The instruction is one that the encoding tables allow (02 R61, items 3–12 except DISP, which needs an address). -/
def Instr.wellFormed (i : Instr) : Bool :=
  decide (i = .pad) || (i.toRaw.any Raw.headOk && i.fnOk && i.modOk && i.regOk && i.immOk)

end Sys2Proof
end

