-- ==== Sys2Proof/Decode.lean ====
section
/-! DEFINITION. The decoder and the encoder (02 R46–R62). The decoder is total: any address and any bits give
an instruction or the subcode of ILLEGAL that R61 reports first. The checks of R61 that need the node's
declarations (VREG, TILE, CASTRD) are `declCheck`. -/

namespace Sys2Proof

/-- The key under which an instruction stands in the tables below. -/
def rowKey (maj fn len : Nat) : Nat := (maj * 256 + fn) * 32 + len

/-- The key of an instruction's fields. -/
def Raw.key (r : Raw) : Nat := rowKey r.maj (if fnFree r.maj then 0 else r.fn) r.len

/-- The first entry under a key. -/
def pick {α : Type} (k : Nat) : List (Nat × α) → Option α
  | [] => none
  | (k', x) :: t => if k = k' then some x else pick k t

/-- The integer class (07 R179). -/
def intTable : List (Nat × (Raw → IntF → Instr)) :=
  [(rowKey 0x20 0 8, fun _ f => .iadd8 f),
   (rowKey 0x20 0 12, fun _ f => .iadd12 f),
   (rowKey 0x21 0 8, fun _ f => .isub8 f),
   (rowKey 0x21 0 12, fun _ f => .isub12 f),
   (rowKey 0x22 0 8, fun _ f => .imul8 f),
   (rowKey 0x22 0 12, fun _ f => .imul12 f),
   (rowKey 0x23 0 8, fun _ f => .imulh8 f),
   (rowKey 0x23 0 12, fun _ f => .imulh12 f),
   (rowKey 0x24 0 16, fun _ f => .imad f),
   (rowKey 0x25 0 8, fun _ f => .idiv8 f),
   (rowKey 0x25 0 12, fun _ f => .idiv12 f),
   (rowKey 0x25 1 8, fun _ f => .idivRem8 f),
   (rowKey 0x25 1 12, fun _ f => .idivRem12 f),
   (rowKey 0x26 0 8, fun _ f => .imin8 f),
   (rowKey 0x26 0 12, fun _ f => .imin12 f),
   (rowKey 0x27 0 8, fun _ f => .imax8 f),
   (rowKey 0x27 0 12, fun _ f => .imax12 f),
   (rowKey 0x28 0 8, fun _ f => .iabs f),
   (rowKey 0x29 0 8, fun _ f => .shl8 f),
   (rowKey 0x29 0 12, fun _ f => .shl12 f),
   (rowKey 0x2A 0 8, fun _ f => .shr8 f),
   (rowKey 0x2A 0 12, fun _ f => .shr12 f),
   (rowKey 0x2A 1 8, fun _ f => .shrSx8 f),
   (rowKey 0x2A 1 12, fun _ f => .shrSx12 f),
   (rowKey 0x2B 0 8, fun _ f => .rot8 f),
   (rowKey 0x2B 0 12, fun _ f => .rot12 f),
   (rowKey 0x2C 0 8, fun r f => .bool8 { f with fn := r.fn }),
   (rowKey 0x2C 0 12, fun r f => .bool12 { f with fn := r.fn }),
   (rowKey 0x2C 0 16, fun r f => .bool16 { f with fn := r.fn }),
   (rowKey 0x2D 0 8, fun _ f => .popc f),
   (rowKey 0x2E 0 8, fun _ f => .clz f),
   (rowKey 0x2F 0 8, fun _ f => .brev f),
   (rowKey 0x30 0 8, fun _ f => .bfx8 f),
   (rowKey 0x30 0 12, fun _ f => .bfx12 f),
   (rowKey 0x31 0 16, fun _ f => .bfi f),
   (rowKey 0x32 0 8, fun r f => .icmp8 { f with fn := r.fn }),
   (rowKey 0x32 0 12, fun r f => .icmp12 { f with fn := r.fn }),
   (rowKey 0x33 0 8, fun _ f => .sel f),
   (rowKey 0x34 0 8, fun _ f => .mov f),
   (rowKey 0x35 0 12, fun _ f => .movi f)] ++
  [(rowKey 0x36 0 8, fun _ f => if f.x = 1 then .movsFirst { f with x := 0 } else .movs f),
   (rowKey 0x37 0 8, fun _ f => .mskAnd f),
   (rowKey 0x37 1 8, fun _ f => .mskOr f),
   (rowKey 0x37 2 8, fun _ f => .mskXor f),
   (rowKey 0x37 3 8, fun _ f => .mskAndn f),
   (rowKey 0x37 4 8, fun _ f => .mskNot f),
   (rowKey 0x37 5 8, fun _ f => .mskFroms f),
   (rowKey 0x37 6 8, fun _ f => .mskTos f),
   (rowKey 0x37 7 8, fun _ f => .mskPath f),
   (rowKey 0x38 0 8, fun _ f => if f.x = 1 then .mpopTot { f with x := 0 } else .mpop f),
   (rowKey 0x39 0 8, fun _ f => .shflIdx8 f),
   (rowKey 0x39 0 12, fun _ f => .shflIdx12 f),
   (rowKey 0x39 1 8, fun _ f => .shflUp8 f),
   (rowKey 0x39 1 12, fun _ f => .shflUp12 f),
   (rowKey 0x39 2 8, fun _ f => .shflDown8 f),
   (rowKey 0x39 2 12, fun _ f => .shflDown12 f),
   (rowKey 0x39 3 8, fun _ f => .shflXor8 f),
   (rowKey 0x39 3 12, fun _ f => .shflXor12 f),
   (rowKey 0x3A 0 8, fun _ f => .voteAll f),
   (rowKey 0x3A 1 8, fun _ f => .voteAny f),
   (rowKey 0x3A 2 8, fun _ f => .voteEq f),
   (rowKey 0x3A 3 8, fun _ f => .voteBallot f),
   (rowKey 0x3B 0 8, fun _ f => .matchAny f),
   (rowKey 0x3B 1 8, fun _ f => .matchAll f),
   (rowKey 0x3C 0 8, fun r f => .redw { f with fn := r.fn })]

/-- The floating-point class (08 R201). -/
def fpTable : List (Nat × (Raw → FpF → Instr)) :=
  [(rowKey 0x50 0 8, fun _ f => .fadd8 f),
   (rowKey 0x50 0 12, fun _ f => .fadd12 f),
   (rowKey 0x51 0 8, fun _ f => .fmul8 f),
   (rowKey 0x51 0 12, fun _ f => .fmul12 f),
   (rowKey 0x52 0 16, fun _ f => .ffma f),
   (rowKey 0x53 0 8, fun _ f => .fmin8 f),
   (rowKey 0x53 0 12, fun _ f => .fmin12 f),
   (rowKey 0x54 0 8, fun _ f => .fmax8 f),
   (rowKey 0x54 0 12, fun _ f => .fmax12 f),
   (rowKey 0x55 0 8, fun r f => .fcmp8 { f with fn := r.fn }),
   (rowKey 0x55 0 12, fun r f => .fcmp12 { f with fn := r.fn }),
   (rowKey 0x56 0 8, fun _ f => .fclass f),
   (rowKey 0x57 0 8, fun _ f => .fcvtScalar f),
   (rowKey 0x57 0 16, fun _ f => .fcvtBlock f),
   (rowKey 0x58 0 8, fun _ f => .frnd f),
   (rowKey 0x59 0 8, fun _ f => .frcp f),
   (rowKey 0x5B 0 8, fun _ f => .fsqrt f),
   (rowKey 0x5A 0 8, fun _ f => .frsq f),
   (rowKey 0x5C 0 8, fun _ f => .fex2 f),
   (rowKey 0x5D 0 8, fun _ f => .flg2 f),
   (rowKey 0x5E 0 8, fun _ f => .fsin f),
   (rowKey 0x5F 0 8, fun _ f => .fcos f),
   (rowKey 0x60 0 8, fun _ f => .ftanh f),
   (rowKey 0x61 0 16, fun _ f => .pfma f),
   (rowKey 0x62 0 16, fun _ f => .amrg f)]

/-- The memory class (09 R218). -/
def memTable : List (Nat × (Raw → MemF → Instr)) :=
  [(rowKey 0x70 0 8, fun _ f => .ld8 f),
   (rowKey 0x70 0 12, fun _ f => .ld12 f),
   (rowKey 0x71 0 8, fun _ f => .st8 f),
   (rowKey 0x71 0 12, fun _ f => .st12 f),
   (rowKey 0x72 0 8, fun _ f => .lds8 f),
   (rowKey 0x72 0 12, fun _ f => .lds12 f),
   (rowKey 0x73 0 8, fun _ f => .sts8 f),
   (rowKey 0x73 0 12, fun _ f => .sts12 f),
   (rowKey 0x74 0 8, fun _ f => .femSet8 f),
   (rowKey 0x74 0 12, fun _ f => .femSet12 f),
   (rowKey 0x74 1 8, fun _ f => .femClr8 f),
   (rowKey 0x74 1 12, fun _ f => .femClr12 f),
   (rowKey 0x74 2 8, fun _ f => .femTest8 f),
   (rowKey 0x74 2 12, fun _ f => .femTest12 f),
   (rowKey 0x75 0 16, fun _ f => .ldg f),
   (rowKey 0x76 0 16, fun _ f => .sct f),
   (rowKey 0x77 0 8, fun _ f => .pref8 f),
   (rowKey 0x77 0 12, fun _ f => .pref12 f),
   (rowKey 0x78 0 8, fun _ f => .fence f),
   (rowKey 0x79 0 8, fun r f => .atom { f with fn := r.fn }),
   (rowKey 0x79 0 16, fun _ f => .atomCas f),
   (rowKey 0x7A 0 8, fun r f => .red8 { f with fn := r.fn }),
   (rowKey 0x7A 0 12, fun r f => .red12 { f with fn := r.fn }),
   (rowKey 0x7B 0 12, fun _ f => .poll f)]

/-- The table and sequence class (10 R239). -/
def tabTable : List (Nat × (Raw → TabF → Instr)) :=
  [(rowKey 0x90 0 8, fun _ f => .tinfo f),
   (rowKey 0x91 0 16, fun _ f => .kget f),
   (rowKey 0x92 0 16, fun _ f => .kins f),
   (rowKey 0x93 0 16, fun _ f => .kdel f),
   (rowKey 0x94 0 16, fun _ f => .kseek f),
   (rowKey 0x95 0 8, fun _ f => .knext f),
   (rowKey 0x96 0 8, fun _ f => .kprev f),
   (rowKey 0x97 0 8, fun _ f => .kclose f),
   (rowKey 0x98 0 16, fun _ f => .kpfx f),
   (rowKey 0x99 0 16, fun _ f => .kpfxi f),
   (rowKey 0x9A 0 8, fun _ f => .krecl f),
   (rowKey 0x9B 0 16, fun _ f => .sqres f),
   (rowKey 0x9C 0 16, fun _ f => .sqcmt f),
   (rowKey 0x9D 0 16, fun _ f => .sqabn f),
   (rowKey 0x9E 0 8, fun _ f => .sqlen f),
   (rowKey 0x9F 0 16, fun _ f => .sqwait f),
   (rowKey 0xA0 0 16, fun _ f => .sqfork f),
   (rowKey 0xA1 0 8, fun _ f => .sqdrop f),
   (rowKey 0xA2 0 16, fun _ f => .sqloc f)]

/-- The tile class (11 R268). -/
def tileTable : List (Nat × (Raw → TileF → Instr)) :=
  [(rowKey 0xA8 0 8, fun _ f => .tcfg8 f),
   (rowKey 0xA8 0 12, fun _ f => .tcfg12 f),
   (rowKey 0xA9 0 8, fun _ f => .trdc f),
   (rowKey 0xAA 0 16, fun _ f => .tld f),
   (rowKey 0xAB 0 16, fun _ f => .tst f),
   (rowKey 0xAC 0 8, fun _ f => .tzero f),
   (rowKey 0xAD 0 8, fun _ f => .tmov f),
   (rowKey 0xAE 0 8, fun _ f => .mma f),
   (rowKey 0xAF 0 8, fun _ f => .mmas f),
   (rowKey 0xB0 0 16, fun _ f => .tcomp f),
   (rowKey 0xB1 0 16, fun _ f => .tqnt f),
   (rowKey 0xB2 0 16, fun _ f => .tdq f),
   (rowKey 0xB3 0 8, fun r f => .tred { f with fn := r.fn }),
   (rowKey 0xB4 0 16, fun _ f => .tscl f),
   (rowKey 0xB5 0 16, fun _ f => if f.x then .vtopkLn { f with x := false } else .vtopk f)]

/-- The engine class (12 R285). -/
def engTable : List (Nat × (Raw → EngF → Instr)) :=
  [(rowKey 0xC0 0 16, fun _ f => .cpy f),
   (rowKey 0xC1 0 8, fun _ f => .cwait f),
   (rowKey 0xC2 0 16, fun _ f => .dec f),
   (rowKey 0xC3 0 16, fun _ f => .dtld f),
   (rowKey 0xC4 0 16, fun _ f => .gpool f),
   (rowKey 0xC5 0 16, fun _ f => .attn f),
   (rowKey 0xC6 0 16, fun _ f => .collAllred f),
   (rowKey 0xC6 1 16, fun _ f => .collRedsc f),
   (rowKey 0xC6 2 16, fun _ f => .collAllgath f),
   (rowKey 0xC6 3 16, fun _ f => .collAtoa f),
   (rowKey 0xC7 0 16, fun _ f => .efork f),
   (rowKey 0xC8 0 8, fun _ f => .erdv f),
   (rowKey 0xC9 0 12, fun _ f => .tfork f),
   (rowKey 0xCA 0 8, fun _ f => .tjoin f),
   (rowKey 0xCB 0 8, fun _ f => .rbeg f),
   (rowKey 0xCC 0 8, fun _ f => .rchk f),
   (rowKey 0xCD 0 8, fun _ f => .rend f)]

/-- The system class (16 R320). -/
def sysTable : List (Nat × (Raw → SysF → Instr)) :=
  [(rowKey 0xE0 0 8, fun _ f =>
      if f.act = 0 then .eretRetry f else if f.act = 1 then .eretSkip { f with act := 0 }
      else if f.act = 2 then .eretKill { f with act := 0 } else .eretRetry f),
   (rowKey 0xE1 0 8, fun _ f => .tlbiCtx f),
   (rowKey 0xE1 1 8, fun _ f => .tlbiTbl f),
   (rowKey 0xE1 2 8, fun _ f => .tlbiVa f),
   (rowKey 0xE1 3 8, fun _ f => .tlbiS2 f),
   (rowKey 0xE3 0 8, fun _ f => .gcall f),
   (rowKey 0xE4 0 8, fun _ f => .cinvLine8 f),
   (rowKey 0xE4 0 12, fun _ f => .cinvLine12 f),
   (rowKey 0xE4 1 8, fun _ f => .cinvAll f),
   (rowKey 0xE4 1 12, fun _ f => .cinvAll { f with long := true }),
   (rowKey 0xE5 0 8, fun _ f => .cwbLine8 f),
   (rowKey 0xE5 0 12, fun _ f => .cwbLine12 f),
   (rowKey 0xE5 1 8, fun _ f => .cwbAll f),
   (rowKey 0xE5 1 12, fun _ f => .cwbAll { f with long := true }),
   (rowKey 0xE6 0 16, fun _ f => .ctxs f),
   (rowKey 0xE7 0 16, fun _ f => .ctxl f),
   (rowKey 0xE8 0 16, fun _ f => .kmig f),
   (rowKey 0xE9 0 16, fun _ f => .inj f),
   (rowKey 0xE2 0 8, fun _ f => .smcall f)]

/-- The control class and the CSR accesses (07 R165, R166, R195). -/
def ctlTable : List (Nat × (Raw → Pred → W32 → Option Instr)) :=
  [(rowKey 0x01 0 8, fun _ p _ => some (.nop p)),
   (rowKey 0x02 0 12, fun r p i =>
      if bitsAt r.mod 0 2 = 0 then some (.bra p i) else if bitsAt r.mod 0 2 = 1 then some (.braNz p r.a i)
      else if bitsAt r.mod 0 2 = 2 then some (.braZ p r.a i) else none),
   (rowKey 0x03 0 8, fun r p _ => some (.brx p r.a)),
   (rowKey 0x04 0 12, fun r p i => some (.call p r.d i)),
   (rowKey 0x05 0 8, fun r p _ => some (.callx p r.d r.a)),
   (rowKey 0x06 0 8, fun r p _ => some (.ret p r.a)),
   (rowKey 0x07 0 8, fun _ p _ => some (.exit p)),
   (rowKey 0x08 0 8, fun r p _ => some (.join p r.d)),
   (rowKey 0x09 0 8, fun r p _ => some (.leave p r.d)),
   (rowKey 0x0A 0 8, fun r p _ => some (.waitm p r.a)),
   (rowKey 0x0B 0 8, fun r p _ => some (.bar p r.b)),
   (rowKey 0x0C 0 8, fun r p _ => some (.elect p r.d)),
   (rowKey 0x0D 0 8, fun _ p _ => some (.yield p)),
   (rowKey 0x0E 0 8, fun r p _ => some (.trap p r.fn)),
   (rowKey 0x0F 0 8, fun r p _ => some (.bkpt p r.fn)),
   (rowKey 0x10 0 8, fun _ p _ => some (.uretRetry p)),
   (rowKey 0x10 1 8, fun _ p _ => some (.uretSkip p)),
   (rowKey 0x3D 0 8, fun r _ _ => some (.csrr (CsrF.ofRaw r false))),
   (rowKey 0x3E 0 8, fun r _ _ =>
      let f := CsrF.ofRaw r true
      if f.csrn = 0x103 then some (.parkceilWrite { f with fn := r.fn })
      else if r.fn = 0 then some (.csrw f) else if r.fn = 1 then some (.csrwSet f) else some (.csrwClr f))]

/-- The instruction whose fields these are, before the checks of modifiers and operands; none where a
subfield holds a reserved code. -/
def build (r : Raw) : Option Instr :=
  if r.maj ≤ 0x1F || r.maj = 0x3D || r.maj = 0x3E then
    (pick r.key ctlTable).bind fun g => g r ⟨r.pm, r.pn⟩ (BitVec.ofNat 32 r.imm)
  else if r.maj ≤ 0x4F then (pick r.key intTable).bind fun g => (IntF.ofRaw r).map (g r)
  else if r.maj ≤ 0x6F then (pick r.key fpTable).bind fun g => (FpF.ofRaw r).map (g r)
  else if r.maj ≤ 0x8F then (pick r.key memTable).bind fun g => (MemF.ofRaw r).map (g r)
  else if r.maj ≤ 0xA7 then (pick r.key tabTable).map fun g => g r (TabF.ofRaw r)
  else if r.maj ≤ 0xBF then (pick r.key tileTable).bind fun g => (TileF.ofRaw r).map (g r)
  else if r.maj ≤ 0xDF then (pick r.key engTable).map fun g => g r (EngF.ofRaw r)
  else if r.maj ≤ 0xEF then (pick r.key sysTable).map fun g => g r (SysF.ofRaw r)
  else some (.trmp ⟨r.pm, r.pn⟩ ((r.maj - 0xF0) * 256 + r.fn) (BitVec.ofNat 32 r.imm))

/-- A displacement that breaks R56 at this address. -/
def dispBad (addr : Nat) (d : W32) : Bool :=
  d.toNat % 4 != 0 || decide ((addr : Int) + d.toInt < 0) || decide ((2 ^ 50 : Int) ≤ (addr : Int) + d.toInt)

/-- The branch displacement of `i`, if it has one, is legal at `addr`. -/
def dispOk (addr : Nat) (i : Instr) : Bool := !(i.disp.any (dispBad addr))

/-- Steps 9–12 of R61: MOD, REG, DISP, IMM; `regs` are the limits of its register fields. -/
def checkWith (regs : Instr → Bool) (addr : Nat) (r : Raw) (i : Instr) : Decoded :=
  match i.toRaw with
  | none => .illegal .mod
  | some r' =>
    if r'.mod ≠ r.mod ∨ r'.ext ≠ r.ext ∨ r'.u ≠ r.u ∨ r'.fn ≠ r.fn ∨ i.modOk = false then .illegal .mod
    else if r'.d ≠ r.d ∨ r'.a ≠ r.a ∨ r'.b ≠ r.b ∨ r'.c ≠ r.c ∨ regs i = false then .illegal .reg
    else if dispOk addr i = false then .illegal .disp
    else if i.immOk = false then .illegal .imm
    else .ok i

/-- The checks with the classes of 02 R55. -/
def checkBuilt (addr : Nat) (r : Raw) (i : Instr) : Decoded := checkWith Instr.regOk addr r i

/-- Steps 1–12 of R61 on the bits `w` found at `addr` (bit 0 first); `pan` for a pan unit. -/
def decodeWith (regs : Instr → Bool) (pan : Bool) (addr w : Nat) : Decoded :=
  if w % 4 = 3 then (if w % 2 ^ 32 = 3 then .ok .pad else .illegal .padw)
  else
    let r := Raw.unpack w
    if 32 < addr % 32 + r.len then .illegal .line
    else match majRow r.maj with
      | none => .illegal .maj
      | some (lens, fns) =>
        if pan && panLacks r.maj then .illegal .panclass
        else if lens.contains r.len = false then .illegal .len
        else if 12 < r.pm then .illegal .pred
        else if r.u && !uniformMaj r.maj then .illegal .uform
        else if fns ≤ r.fn then .illegal .fn
        else match build r with
          | none => .illegal .mod
          | some i => checkWith regs addr r i

/-- The decoder of a warp: a compute core's, or a pan unit's. -/
def decode (pan : Bool) (addr w : Nat) : Decoded := decodeWith Instr.regOk pan addr w

/-- The decoder of a sequencer (11 R266). -/
def decodeSeq (addr w : Nat) : Decoded := decodeWith Instr.seqRegOk false addr w

/-- The decoder on bytes, low address first. -/
def decodeBytes (pan : Bool) (addr : Nat) (bs : List Byte) : Decoded := decode pan addr (ofLe bs)

/-- The length that the first word's length code gives (02 R46, R62). -/
def lenOfWord (w : Nat) : Nat :=
  if w % 4 = 0 then 8 else if w % 4 = 1 then 12 else if w % 4 = 2 then 16 else 4

/-- The length of an instruction in bytes. -/
def Instr.len (i : Instr) : Nat :=
  match i.toRaw with | some r => r.len | none => 4

/-- The bits of an instruction, bit 0 first; none for a service or an event. -/
def encode (i : Instr) : Option Nat :=
  if i = .pad then some 3 else i.toRaw.map Raw.pack

/-- The bytes of an instruction, low address first. -/
def encodeBytes (i : Instr) : Option (List Byte) := (encode i).map (leBytes i.len)

/-- What the node's declarations forbid: steps 13–15 of R61 (01 R18, R19, R43). `n` is the low vector register
count, `t` the tile demand, `cast` says that the node's DSTMODE is CAST. -/
def declCheck (n t : Nat) (cast : Bool) (i : Instr) : Option Illegal :=
  if i.opnds.any fun o => o.vregs.any fun v => decide (n ≤ v) && decide (v ≤ 223) then some .vreg
  else if i.opnds.any fun o => o.cls == .t && decide (t ≤ o.num) then some .tile
  else if cast && i.opnds.any fun o => o.rd && o.cls == .v && decide (240 ≤ o.num) then some .castrd
  else none

/-- The instruction the decoder reads from an instruction of the table whose bits are `w`: the words as they lie in
memory, from an address where no fetch line is crossed, on a compute core. -/
def decodeTableWord (nbits w : Nat) : Option Instr :=
  match decodeBytes false 0 (leBytes 16 (w % 2 ^ nbits)) with
  | .ok i => some i
  | .illegal _ => none

end Sys2Proof
end

