-- ==== Sys2Proof/Machine/Ops.lean ====
section
/-! DEFINITION. The issue of one instruction by a warp: the active path and the executing lanes (01 R25, R27; 02 R52),
registers and operands (01 R17, 02 R48, R53, R55), queue ports and casts (01 R42, R43), fragments (01 R32), and the
one operation that takes traps (07 R174, 16 R314) and parks faults (18 R360, R361). -/

namespace Sys2Proof.Machine

/-- The requests that have left their instruction and are not performed. -/
def State.inFlight (s : State) : List Req := s.held ++ s.atomQ ++ s.rakeQ

/-- The requests that wait in the compare buffers of REDUNDANT nodes (19 R385). -/
def State.buffered (s : State) : List Req :=
  s.nodes.flatMap fun e => e.2.pairs.flatMap fun p => (p.copies.take 1).flatMap fun c => c.buf.map (·.2)

/-- The lanes of a request. -/
def Req.lanes (r : Req) : List Nat := match r.kind with | .table t => t.lanes.map (·.lane) | _ => [r.who.lane]

/-! ### Lanes and warps -/

/-- Change the elements of a list by their position, counted from `k`. -/
def mapFrom {α : Type} (f : Nat → α → α) : Nat → List α → List α
  | _, [] => []
  | k, x :: t => f k x :: mapFrom f (k + 1) t

def Warp.lane (w : Warp) (l : Nat) : Lane := w.lanes.getD l { st := .never }

/-- Change the lanes that `p` selects. -/
def Warp.onLanes (w : Warp) (p : Nat → Bool) (f : Lane → Lane) : Warp :=
  { w with lanes := mapFrom (fun i x => if p i then f x else x) 0 w.lanes }

def Warp.setLane (w : Warp) (l : Nat) (f : Lane → Lane) : Warp := w.onLanes (fun i => i == l) f

def Warp.isSeq (w : Warp) : Bool := match w.role with | .seq _ _ => true | _ => false

/-- The eligible lanes, ascending (01 R24). -/
def Warp.eligible (w : Warp) : List Nat := allLanes.filter fun l => (w.lane l).st == .running

/-- The least of these program counters. -/
def minPc (w : Warp) : List Nat → Option Nat
  | [] => none
  | l :: t => match minPc w t with
    | none => some (w.lane l).pc
    | some p => some (min (w.lane l).pc p)

/-- The issue PC (01 R27): the PC of the oldest eligible lane once some age reaches AGELIM (ties: lowest PC), otherwise the
least PC. -/
def Warp.issuePc (w : Warp) : Option Nat :=
  let e := w.eligible
  let oldest := e.foldl (fun m l => max m (w.lane l).age) 0
  if e.any fun l => decide (w.agelim ≤ (w.lane l).age) then minPc w (e.filter fun l => (w.lane l).age == oldest)
  else minPc w e

/-- The active path at an issue PC (01 R25). -/
def Warp.activeAt (w : Warp) (pc : Nat) : List Nat := w.eligible.filter fun l => (w.lane l).pc == pc

/-! ### Registers -/

/-- A lane's vector register (01 R17): v240–v255 have no storage. -/
def Warp.vreg (w : Warp) (r l : Nat) : Nat := (getD (0 : W32) w.v (r * 32 + l)).toNat
/-- A scalar register: `s0` reads 0. -/
def Warp.sreg (w : Warp) (r : Nat) : Nat := if r = 0 then 0 else (getD (0 : W64) w.s r).toNat
def Warp.mreg (w : Warp) (r : Nat) : Nat := (getD (0 : W32) w.m r).toNat
def Warp.setV (w : Warp) (r l val : Nat) : Warp := { w with v := put 0 (r * 32 + l) (BitVec.ofNat 32 val) w.v }
/-- Writes to `s0` are ignored. -/
def Warp.setS (w : Warp) (r val : Nat) : Warp := if r = 0 then w else { w with s := put 0 r (BitVec.ofNat 64 val) w.s }
def Warp.setM (w : Warp) (r val : Nat) : Warp := { w with m := put 0 r (BitVec.ofNat 32 val) w.m }

/-- The value of a register operand of a class (02 R55); a sequencer's V, VP and VQ fields name its scalar registers
(11 R266). -/
def Warp.rdReg (w : Warp) (c : Cls) (r l : Nat) : Nat :=
  if w.isSeq then
    match c with
    | .vp => w.sreg r
    | .m => w.mreg r
    | .s => w.sreg r
    | .none => 0
    | .bad => 0
    | .t => 0
    | _ => w.sreg r % 2 ^ 32
  else match c with
    | .v => w.vreg r l
    | .vx => w.vreg r l
    | .vp => w.vreg r l + w.vreg (r + 1) l * 2 ^ 32
    | .vq => w.vreg r l + w.vreg (r + 1) l * 2 ^ 32 + w.vreg (r + 2) l * 2 ^ 64 + w.vreg (r + 3) l * 2 ^ 96
    | .s => w.sreg r
    | .m => w.mreg r
    | _ => 0

/-- Write a register operand of a class. -/
def Warp.wrReg (w : Warp) (c : Cls) (r l val : Nat) : Warp :=
  if w.isSeq then
    match c with
    | .m => w.setM r val
    | .v => w.setS r (val % 2 ^ 32)
    | .vx => w.setS r (val % 2 ^ 32)
    | .none => w
    | .bad => w
    | .t => w
    | _ => w.setS r val
  else match c with
    | .v => w.setV r l val
    | .vx => w.setV r l val
    | .vp => (w.setV r l val).setV (r + 1) l (val / 2 ^ 32)
    | .vq => (((w.setV r l val).setV (r + 1) l (val / 2 ^ 32)).setV (r + 2) l (val / 2 ^ 64)).setV (r + 3) l (val / 2 ^ 96)
    | .s => w.setS r val
    | .m => w.setM r val
    | _ => w

/-- The core index of a unit in its node (01 R11): the units of each copy stand in ascending order. -/
def Node.coreIdx (n : Node) (u : Nat) : Nat := ((n.units.idxOf? u).orElse fun _ => (n.units2.idxOf? u).orElse fun _ => n.units3.idxOf? u).getD 0

/-! ### Queue ports and casts -/

/-- The channel of a port, if it is bound (12 R299). -/
def Node.channel (n : Node) (r : Nat) : Option Nat :=
  let b := n.desc.qbind.getD (r - 240) 0
  if bitAt b 7 then some (b % 16) else none

/-- The cast entry of a cast name (12 R299). -/
def Node.castEntry (n : Node) (r : Nat) : W64 := n.desc.casts.getD (r - 240) 0

/-- The entries of a channel of a launch. -/
def State.chanEntries (s : State) (lk c : Nat) : List (List W32) :=
  ((find lk s.launches).bind fun l => find c l.channels).elim [] fun ch => ch.entries

/-- Put the entries of a channel. -/
def State.setChan (s : State) (lk c : Nat) (es : List (List W32)) : State :=
  { s with launches := adjust lk (fun l => { l with channels := insert c { entries := es } l.channels }) s.launches }

/-- Deliver elements, by lane, to `v`r of a node: one queue entry, with 0 for the other lanes, or one cast for each consumer
(01 R42, R43). -/
def State.pushPort (s : State) (nk : Nat) (n : Node) (wk unit r elected : Nat) (els : List (Nat × Nat)) : State :=
  if n.desc.cast then
    let entry := n.castEntry r
    (List.range 8).foldl (fun (s : State) k =>
      if bitAt entry.toNat k then
        let c : Cast := { id := s.nextId, warp := wk, node := nk, unit := unit, consumer := k, entry := entry,
                          lanes := els.map fun e => (e.1, BitVec.ofNat 32 e.2), elected := elected }
        { s with casts := s.casts ++ [c], nextId := s.nextId + 1 }
      else s) s
  else match n.channel r with
    | none => s
    | some c =>
      let e := allLanes.map fun k => BitVec.ofNat 32 ((find k els).getD 0)
      s.setChan n.launch c (s.chanEntries n.launch c ++ [e])

/-- A port can take one more entry, or a cast name one more value. -/
def State.portRoom (s : State) (n : Node) (wk r : Nat) : Bool :=
  if n.desc.cast then !(s.casts.any fun k => k.warp == wk && k.entry == n.castEntry r)
  else match n.channel r with
    | none => true
    | some c => decide ((s.chanEntries n.launch c).length < Config.channelSize)

/-! ### Pending full/empty loads at a stop (09 R223, 17 R343) -/

/-- The full/empty loads of a warp that their granule's bit has not served, oldest first. -/
def State.feOf (s : State) (wk : Nat) : List FePend := s.fePend.filter fun p => p.who.warp == wk && p.got.isNone
/-- The device without them. -/
def State.dropFe (s : State) (wk : Nat) : State :=
  { s with fePend := s.fePend.filter fun p => !(p.who.warp == wk && p.got.isNone) }

/-- Cancel a warp's pending full/empty loads: each lane is set back to its `LDS` and runs on from there. DESIGN CHOICE (log entry 84): of several
pending loads of one lane the spec does not say which one its PC is set back to; it is the oldest. -/
def Warp.cancelFe (w : Warp) (ps : List FePend) : Warp :=
  ps.reverse.foldl (fun (w : Warp) p =>
    let w := w.setLane p.who.lane fun y =>
      if y.st = .exited ∨ y.st = .never then y
      else if y.st = .waiting then { y with st := .running, wait := .none, pc := p.at_ }
      else { y with pc := p.at_ }
    { w with pend := w.pend.filter fun q => q.req != p.id }) w

/-! ### One issue -/

/-- One contribution to the signature of a copy (19 R384, 20 R440): a signed operation of one lane, of one or two parts,
each an address and at most 16 bytes. -/
structure Contrib where
  lane : Nat
  parts : List (Nat × List Byte)
  deriving DecidableEq, Repr

/-- What an instruction sends out of its core, or signs. -/
structure Emit where
  lanes : List Nat
  req : Option ReqKind := none
  cmd : Option Cmd := none
  contribs : List Contrib := []
  /-- compared first and performed once in a REDUNDANT node (19 R387) -/
  once : Bool := false
  /-- registers that the request's result is written to -/
  pend : List (Nat × Nat) := []
  /-- fetch waits for the reply (10 R240) -/
  suspend : Bool := false
  /-- it goes to a device or strongly ordered page -/
  dev : Bool := false
  deriving DecidableEq, Repr

/-- What one issue works on: the device, the issuing warp and its node taken out of it, the instruction, and what the
instruction has raised so far. -/
structure Issue where
  s : State
  wk : Nat
  w : Warp
  nk : Nat
  n : Node
  i : Instr
  at_ : Nat
  act : List Nat
  ex : List Nat
  /-- the queue entry that an operand popped, by operand position -/
  popped : List (Nat × List W32) := []
  /-- results for `v240`–`v255`: register, lane, value -/
  outs : List (Nat × Nat × Nat) := []
  /-- user traps: lane, cause, subcode -/
  traps : List (Nat × Nat × Nat) := []
  /-- faults that park: lane and fault -/
  parks : List (Nat × FaultInfo) := []
  /-- `GCALL`: the destination and each lane's argument -/
  gcall : Option (Nat × List (Nat × Nat)) := none
  /-- the node is killed at the end of this issue: reason, cause, subcode -/
  kill : Option (Nat × Nat × Nat) := none
  /-- requests and commands of this issue, in order -/
  emits : List Emit := []
  /-- the instruction turned out to wait: nothing happens -/
  wait : Bool := false
  deriving DecidableEq, Repr

/-- The predicate in a lane (02 R52). -/
def Warp.pred (w : Warp) (p : Pred) (l : Nat) : Bool := (p.pm == 12 || bitAt (w.mreg p.pm) l) != p.pn

/-- An armed flip of a register strikes it (16 R328, 19 R393). -/
def Warp.strike (w : Warp) (f : Flip) : Warp :=
  let reg := bitsAt f.sel 4 8
  let bit := bitsAt f.sel 17 6
  if bitsAt f.sel 2 2 = 0 then
    let l := bitsAt f.sel 12 5
    w.setV reg l (w.vreg reg l ^^^ 2 ^ (bit % 32))
  else if bitsAt f.sel 2 2 = 1 then w.setS reg (w.sreg reg ^^^ 2 ^ bit)
  else w

/-- The flips armed for a copy of a warp take place at its issue: register flips strike, store flips become pending
(20 R394). -/
def applyFlips (w : Warp) (n : Node) : Warp × Node :=
  let mine (f : Flip) : Bool := f.warp == w.idx && f.copy == w.copy && !f.pending
  if n.flips.any mine then
    ((n.flips.filter mine).foldl Warp.strike w,
     { n with flips := (n.flips.filter fun f => !mine f || bitsAt f.sel 2 2 == 2).map fun f =>
        if mine f then { f with pending := true } else f })
  else (w, n)

/-- What an issue at a PC does to the eligible lanes: the active path takes the successor, and the others age (01 R25, R27). DESIGN CHOICE (log entry
95): a lane that the end of the same issue releases was not eligible when it began, and does not age. -/
def Warp.advance (w : Warp) (pc len : Nat) : Warp :=
  w.onLanes (fun l => (w.lane l).st == .running) fun x =>
    if x.pc = pc then { x with pc := pc + len, age := 0 } else { x with age := x.age + 1 }

/-- Begin an issue: the issuing warp, its issue PC and active path; its lanes take the successor and new ages (01 R25, R27; 02 R52). -/
def State.start (s : State) (i : Instr) (p : Pred) : Option Issue :=
  s.cur.bind fun wk => (find wk s.warps).bind fun w => (find w.node s.nodes).bind fun n => w.issuePc.map fun pc =>
    let (w, n) := applyFlips w n
    let act := w.activeAt pc
    { s := s, wk := wk, w := w.advance pc i.len, nk := w.node, n := n, i := i, at_ := pc, act := act, ex := act.filter (w.pred p) }

namespace Issue

/-- The elected lane: the lowest of the active path (11 R264). -/
def elected (x : Issue) : Nat := x.act.headD 0
/-- The lowest executing lane. -/
def lowest (x : Issue) : Nat := x.ex.headD 0
/-- The lanes that execute: those whose predicate holds, but every lane of the active path for `SEL` (07 R187). -/
def doers (x : Issue) : List Nat := match x.i with | .sel _ => x.act | _ => x.ex
/-- The instruction executes: its predicate holds in some lane of the active path (02 R53). -/
def once (x : Issue) : Bool := !x.doers.isEmpty
def lvl (x : Issue) : Nat := x.n.desc.lvl
def ctx (x : Issue) : Ctx := x.s.ctx x.n.ctx
def launch (x : Issue) : Launch := (find x.n.launch x.s.launches).getD { ctx := x.n.ctx, id := 0 }

/-- Operand `k` of the instruction. -/
def opnd (x : Issue) (k : Nat) : Opnd := x.i.opnds.getD k ⟨.none, 0, .n⟩

/-- The value of operand `k` in lane `l`: a register, or the element of the entry that a queue port popped. -/
def val (x : Issue) (k l : Nat) : Nat :=
  let o := x.opnd k
  match find k x.popped with
  | some e => (e.getD l 0).toNat
  | none => x.w.rdReg o.cls o.num l

/-- Write operand `k` in lane `l`: a register, or an element for a queue port or cast. -/
def set (x : Issue) (k l v : Nat) : Issue :=
  let o := x.opnd k
  if !x.w.isSeq && o.cls == .v && decide (240 ≤ o.num) then { x with outs := x.outs ++ [(o.num, l, v % 2 ^ 32)] }
  else { x with w := x.w.wrReg o.cls o.num l v }

/-- Write operand `k` in every listed lane with a function of the lane. -/
def setAll (x : Issue) (k : Nat) (ls : List Nat) (f : Nat → Nat) : Issue := ls.foldl (fun x l => x.set k l (f l)) x

/-- OR flags into a lane's FFLAGS (04 R97). -/
def flag (x : Issue) (l fl : Nat) : Issue :=
  { x with w := x.w.setLane l fun y => { y with fflags := y.fflags ||| fl } }

def trap (x : Issue) (l cause sub : Nat) : Issue := { x with traps := x.traps ++ [(l, cause, sub)] }
/-- Every lane of a list traps. -/
def trapLanes (x : Issue) (ls : List Nat) (cause sub : Nat) : Issue :=
  { x with traps := x.traps ++ ls.map fun l => (l, cause, sub) }
def trapAct (x : Issue) (cause sub : Nat) : Issue := x.trapLanes x.act cause sub
def park (x : Issue) (l : Nat) (f : FaultInfo) : Issue := { x with parks := x.parks ++ [(l, f)] }
/-- The whole active path parks (11 R269, 12 R286). -/
def parkAct (x : Issue) (f : FaultInfo) : Issue := { x with parks := x.parks ++ x.act.map fun l => (l, f) }
def setPc (x : Issue) (l pc : Nat) : Issue := { x with w := x.w.setLane l fun y => { y with pc := pc } }

/-! ### The scoreboard, queue ports and casts -/

/-- Registers of an operand: class (0 V, 1 S, 2 M) and number. -/
def regsOf (seq : Bool) (o : Opnd) : List (Nat × Nat) :=
  if seq then
    match o.cls with
    | .m => [(2, o.num)] | .none => [] | .bad => [] | .t => [] | _ => [(1, o.num)]
  else match o.cls with
    | .s => [(1, o.num)] | .m => [(2, o.num)] | _ => o.vregs.map fun r => (0, r)

def channel (x : Issue) (r : Nat) : Option Nat := x.n.channel r

/-- Operands that name `v240`–`v255`: position, number, written. -/
def ports (x : Issue) : List (Nat × Nat × Bool) :=
  if x.w.isSeq then []
  else (x.i.opnds.zipIdx.filter fun e => e.1.cls == .v && decide (240 ≤ e.1.num)).flatMap fun e =>
    (if e.1.rd then [(e.2, e.1.num, false)] else []) ++ (if e.1.wr then [(e.2, e.1.num, true)] else [])

/-- A port without a channel, or a cast without consumers, is named (01 R42, R43). -/
def unbound (x : Issue) : Bool :=
  x.ports.any fun e =>
    if x.n.desc.cast then (x.n.castEntry e.2.1).toNat % 256 == 0 else (x.channel e.2.1).isNone

def chanLen (x : Issue) (c : Nat) : Nat := (x.s.chanEntries x.n.launch c).length

/-- A pop from an empty queue, a push to a full one, or a write to a cast not yet accepted (01 R42, R43). DESIGN CHOICE (log entry 97): an instruction
that pops and pushes one full channel does not stall: its pops make the room. -/
def portStall (x : Issue) : Bool :=
  if x.n.desc.cast then
    x.ports.any fun e => e.2.2 && x.s.casts.any fun k => k.warp == x.wk && k.entry == x.n.castEntry e.2.1
  else
    (List.range 16).any fun c =>
      let pops := (x.ports.filter fun e => !e.2.2 && x.channel e.2.1 == some c).length
      let pushes := (x.ports.filter fun e => e.2.2 && x.channel e.2.1 == some c).length
      decide (x.chanLen c < pops) || (pushes != 0 && decide (Config.channelSize < x.chanLen c - pops + pushes))

/-- A register that casts deliver to is read while its cast-full bit is clear (01 R43). -/
def castStall (x : Issue) : Bool :=
  x.i.opnds.any fun o => o.rd && (regsOf x.w.isSeq o).any fun r =>
    (r.1 == (if x.w.isSeq then 1 else 0)) && find r.2 x.w.castFull == some false

/-- A read or a write meets a pending write of the warp (02 R48). Operands are held for the lanes of the active path, or of
the whole warp where the instruction reads other lanes (07 R190). -/
def scoreStall (x : Issue) (lanes : List Nat) : Bool :=
  x.w.pend.any fun p => p.cls != 3 && (x.i.opnds.any fun o => (regsOf x.w.isSeq o).contains (p.cls, p.num))
    && (p.cls != 0 || p.lanes.any fun l => lanes.contains l)

/-- The lanes whose pending registers hold the instruction back: a lane exchange reads those of the whole warp (07 R190). -/
def scoreLanes (x : Issue) : List Nat :=
  match x.i with
  | .shflIdx8 _ => allLanes | .shflIdx12 _ => allLanes | .shflUp8 _ => allLanes | .shflUp12 _ => allLanes
  | .shflDown8 _ => allLanes | .shflDown12 _ => allLanes | .shflXor8 _ => allLanes | .shflXor12 _ => allLanes
  | _ => x.act

/-- Fetch is suspended, earlier accesses of the context are awaited (16 R323), or the scoreboard holds a register (02 R48). -/
def blocked (x : Issue) : Bool :=
  x.w.suspended.isSome || (!x.w.drain.isEmpty && (x.s.inFlight ++ x.s.buffered).any fun r => x.w.drain.contains r.id) || x.scoreStall x.scoreLanes

/-- The stalls that hold any instruction back (17 R341). -/
def stalled (x : Issue) : Bool := x.blocked || (x.once && !x.unbound && (x.portStall || x.castStall))

/-- A request is one of these lanes of the issuing warp. -/
def owns (x : Issue) (ls : List Nat) (r : Req) : Bool :=
  r.who.warp == x.wk && r.lanes.any fun l => ls.contains l

/-- Requests of these lanes that have not been performed (05 R137), those in a compare buffer among them (19 R440). -/
def outstanding (x : Issue) (ls : List Nat) : Bool := (x.s.inFlight ++ x.s.buffered).any (x.owns ls)

/-- Pop the heads that the source ports name, in operand order, and clear the cast-full bits of registers read. -/
def takePorts (x : Issue) : Issue :=
  if !x.once then x
  else
    let x := if x.n.desc.cast then x else x.ports.foldl (fun x e =>
      if e.2.2 then x
      else match x.channel e.2.1 with
        | none => x
        | some c =>
          let es := x.s.chanEntries x.n.launch c
          { x with popped := x.popped ++ [(e.1, es.headD [])], s := x.s.setChan x.n.launch c es.tail }) x
    let read := x.i.opnds.flatMap fun o => if o.rd then regsOf x.w.isSeq o else []
    let cls := if x.w.isSeq then 1 else 0
    let w := x.w
    { x with w := { w with castFull := w.castFull.map fun e => if read.contains (cls, e.1) then (e.1, false) else e } }

end Issue

/-! ### Fragments -/

/-- The lanes of a fragment, ascending. -/
def Warp.fragLanes (w : Warp) (f : Nat) : List Nat :=
  (List.range w.lanes.length).filter fun l =>
    (w.lane l).frag == f && (w.lane l).st != .exited && (w.lane l).st != .never
def Warp.frag (w : Warp) (f : Nat) : Option Frag := w.frags.find? fun g => g.id == f
def Warp.parentOf (w : Warp) (f : Nat) : Nat := (w.frag f).elim 0 fun g => g.parent
def Warp.setFrag (w : Warp) (g : Frag) : Warp :=
  { w with frags := w.frags.map fun h => if h.id = g.id then g else h }

/-- The identifier of a new fragment of lanes of `src`: the lowest free one from 1 to 32 (01 R32). Where all are in use each fragment holds
one lane, so that `src` is left without lanes and its own is free. -/
def Warp.freeFrag (w : Warp) (src : Nat) : Nat :=
  (((List.range 32).map (· + 1)).find? fun k => !(w.frags.any fun g => g.id == k)).getD src

/-- Remove one empty fragment: its children take its parent (01 R32). -/
def Warp.dropFrag (w : Warp) (f : Nat) : Warp :=
  let p := w.parentOf f
  { w with frags := (w.frags.filter fun g => g.id != f).map fun g => if g.parent = f then { g with parent := p } else g }

/-- Dissolve every fragment without lanes (01 R32). -/
def Warp.dissolve (w : Warp) : Warp :=
  w.frags.foldl (fun w' g => if (w'.fragLanes g.id).isEmpty then w'.dropFrag g.id else w') w

/-- Form a new fragment of these lanes of a source fragment. -/
def Warp.formFrag (w : Warp) (ls : List Nat) (src : Nat) (mk : Frag → Frag) : Warp × Nat :=
  let id := w.freeFrag src
  let parent := if id = src then w.parentOf src else src
  let w := if id = src then w.dropFrag src else w
  let w := { w with frags := w.frags ++ [mk { id := id, parent := parent }] }
  (w.onLanes (fun l => ls.contains l) fun y => { y with frag := id }, id)

/-- The distinct values of a list, in order of first occurrence. -/
def distinct : List Nat → List Nat
  | [] => []
  | a :: t => a :: (distinct t).filter fun b => b != a

namespace Issue

/-- Lanes of a parked fragment whose access passed leave it for its parent; `caught` lanes trap, or a `GCALL` holds them, and leave it for a
fragment of their own (01 R32). A fragment that all its lanes leave closes its record (18 R361, R363); `place` says where a record lies. -/
def leaveFrag (x : Issue) (place : RecRef → Option (Nat × Nat)) (gone caught : List Nat) (f : Nat) : Issue :=
  match x.w.frag f with
  | none => x
  | some g =>
    let w := x.w.onLanes (fun l => gone.contains l && !caught.contains l && (x.w.lane l).frag == f) fun y => { y with frag := g.parent }
    let left := (w.fragLanes f).all caught.contains
    { x with w := (if left then w.setFrag { g with park := none } else w).dissolve
             s := match left, g.park.bind (·.open_) with | true, some r => x.s.resolveAt x.n.ctx r (place r) 1 | _, _ => x.s }

/-- The parked fragments of lanes whose access passed are left. Whether a request that suspends fetch passes is known with its reply. -/
def leaveParked (x : Issue) : Issue :=
  if x.emits.any (·.suspend) then x else
  let stay := x.parks.map (·.1)
  let caught := x.traps.map (·.1) ++ x.gcall.elim [] fun g => g.2.map (·.1)
  let gone := x.act.filter fun l => !stay.contains l
  let frs := (distinct (gone.map fun l => (x.w.lane l).frag)).filter fun f => ((x.w.frag f).bind (·.park)).isSome
  frs.foldl (fun y f => y.leaveFrag (x.s.recPlace x.n.ctx) gone caught f) x

/-- A trap record of this issue (16 R315). -/
def trapRec (x : Issue) (frag : Nat) (lanes : List Nat) (cause sub epc : Nat) (dbl : Bool) (args : List (Nat × Nat)) : TrapRec :=
  { launchId := x.launch.id, frag := frag, warp := x.w.idx, node := x.n.idx, lanes := maskOf lanes, epc := epc, dbl := dbl,
    from_ := x.lvl, sub := sub, cause := cause, args := args }

/-- SUB of a fault record (18 R363). -/
def faultSub (f : FaultInfo) (cmd : Bool) : Nat := f.level + f.kind * 4 + (if cmd then 16 else 0)

/-- The sequence that a first-stage fault of a level goes to (18 R363). -/
def faultTbl (lvl : Nat) : Nat := if lvl = 2 then 9 else 8

/-- Append the record of a first-stage fault; none for a second-stage fault, or while the sequence is full. The record of a
sequencer is that of an engine command (11 R266, 18 R362). -/
def faultRecord (x : Issue) (frag : Nat) (ls : List Nat) (f : FaultInfo) (vas : List (Nat × Nat)) : Issue × Option RecRef :=
  if 0x18 ≤ f.code then (x, none)
  else
    let r := if x.w.isSeq then x.trapRec 63 [] f.code (faultSub f true) x.at_ false [(0, f.va)]
      else x.trapRec frag ls f.code (faultSub f false) x.at_ false vas
    match x.s.appendTrap x.n.ctx (faultTbl x.lvl) r with
    | none => (x, none)
    | some (s, ref) => ({ x with s := s }, some ref)

/-- The same fault of the same page as an open record (18 R363). -/
def sameFault (a b : FaultInfo) : Bool :=
  a.code == b.code && a.level == b.level && a.page == b.page && a.pageSize == b.pageSize

/-- Park the faulting lanes of one source fragment (18 R360, R361, R363). -/
def parkFrag (x : Issue) (src : Nat) : Issue :=
  let mine := x.parks.filter fun e => (x.w.lane e.1).frag == src
  match mine with
  | [] => x
  | (_, f) :: _ =>
    let ls := mine.map (·.1)
    let vas := mine.map fun e => (e.1, e.2.va)
    let x := { x with w := x.w.onLanes (fun l => ls.contains l) fun y => { y with st := .parked, pc := x.at_ } }
    match (x.w.frag src).bind fun g => g.park.map fun p => (g, p) with
    | some (g, p) =>
      if sameFault f p.fault then
        let (x, ref) := if p.open_.isSome then (x, p.open_) else x.faultRecord src ls f vas
        let d := min (2 * p.d) x.ctx.parkceil
        { x with w := x.w.setFrag { g with park := some { d := d, due := x.s.clock x.w.unit + d, fault := f, vas := vas, open_ := ref } } }
      else
        let s := match p.open_ with | some r => x.s.resolveRec x.n.ctx r 1 | none => x.s
        let (x, ref) := ({ x with s := s } : Issue).faultRecord src ls f vas
        { x with w := x.w.setFrag { g with park := some { d := 64, due := x.s.clock x.w.unit + 64, fault := f, vas := vas, open_ := ref } } }
    | none =>
      let id := x.w.freeFrag src
      let (x, ref) := x.faultRecord id ls f vas
      let (w, _) := x.w.formFrag ls src fun g =>
        { g with park := some { d := 64, due := x.s.clock x.w.unit + 64, fault := f, vas := vas, open_ := ref } }
      { x with w := w.dissolve }

/-- Park the faulting lanes, one fragment for each source fragment (01 R32). -/
def parkAll (x : Issue) : Issue :=
  (distinct (x.parks.map fun e => (x.w.lane e.1).frag)).foldl (fun x f => x.parkFrag f) x

/-- Escalate a new fragment (07 R174, 16 R314): hold it with its record, or have the node killed. -/
def escalate (x : Issue) (ls : List Nat) (src cause sub : Nat) (dbl : Bool) (gcallD : Option Nat)
    (args : List (Nat × Nat)) : Issue :=
  if x.lvl = 2 then { x with kill := some (0x15, cause, sub) }
  else
    let id := x.w.freeFrag src
    let tbl := if x.lvl = 0 then 8 else 9
    let r := x.trapRec id ls cause sub x.at_ dbl args
    let (s, ref) := match x.s.appendTrap x.n.ctx tbl r with | some (s, r) => (s, some r) | none => (x.s, none)
    let esc : Escalation := { cause := cause, sub := sub, epc := x.at_, dbl := dbl, gcallD := gcallD, args := args,
                              ref := ref, due := x.s.clock x.w.unit + 64 }
    let (w, _) := x.w.formFrag ls src fun g => { g with esc := some esc }
    { x with s := s, w := (w.onLanes (fun l => ls.contains l) fun y => { y with st := .parked, pc := x.at_ }).dissolve }

/-- Take the user traps of the lanes that were in one source fragment, and were (or were not) in their handler, in `w0` (07 R174, 01 R32, R33). -/
def trapFrag (x : Issue) (w0 : Warp) (src : Nat) (hnd : Bool) : Issue :=
  let mine := x.traps.filter fun e => (w0.lane e.1).frag == src && (w0.lane e.1).inHandler == hnd
  match mine with
  | [] => x
  | (_, cause, sub) :: _ =>
    let ls := mine.map (·.1)
    let code (l : Nat) : Nat := (mine.find? fun e => e.1 == l).elim 0 fun e => e.2.1 + e.2.2 * 2 ^ 8
    if hnd then
      x.escalate ls src cause sub true none (ls.map fun l => (l, (x.w.lane l).uepc.toNat))
    else
      let w : Warp := { x.w with lanes := mapFrom (fun l y =>
        if ls.contains l then { y with ucause := code l, uepc := BitVec.ofNat 32 x.at_ } else y) 0 x.w.lanes }
      let x := { x with w := w }
      if w.utvec.toNat = 0 then x.escalate ls src cause sub false none (ls.map fun l => (l, x.at_ % 2 ^ 32))
      else
        let (w, _) := w.formFrag ls src fun g => { g with trap := true }
        { x with w := (w.onLanes (fun l => ls.contains l) fun y =>
            { y with st := .running, inHandler := true, pc := w.utvec.toNat }).dissolve }

/-- Take every user trap that the instruction raised (07 R174). A sequencer's trap aborts its fork (11 R266). DESIGN CHOICE (log entry 96): where one
instruction forms several fragments, 01 R32 does not say which takes the lowest free identifier first. Parked fragments come before trapping ones,
each kind by the first lane of its source fragment, and of one source fragment the lanes outside their handler before those inside it. -/
def takeTraps (x : Issue) : Issue :=
  match x.w.role, x.traps with
  | .seq _ parent, (_, cause, sub) :: _ =>
    let f (p : Warp) : Warp := { p with fork := p.fork.map fun k => { k with fail := some (k.fail.getD (cause, sub)) } }
    { x with s := { x.s with warps := adjust parent f x.s.warps }, traps := [] }
  | _, _ =>
    (distinct (x.traps.map fun e => (x.w.lane e.1).frag)).foldl (fun y f => (y.trapFrag x.w f false).trapFrag x.w f true) x

/-- Hold the executing lanes of a `GCALL`, one fragment for each source fragment (16 R314, R326): their D pair pends until the
`ERET`, under the number 0 that no request has. -/
def takeGcall (x : Issue) : Issue :=
  match x.gcall with
  | none => x
  | some (d, args) =>
    (distinct (args.map fun e => (x.w.lane e.1).frag)).foldl (fun x f =>
      let mine := args.filter fun e => (x.w.lane e.1).frag == f
      let y := x.escalate (mine.map (·.1)) f 0 0 false (some d) mine
      let w := y.w
      let hold (r : Nat) : Pend := { cls := 0, num := r, lanes := mine.map (·.1), req := 0 }
      if x.lvl = 2 then y else { y with w := { w with pend := w.pend ++ [hold d, hold (d + 1)] } }) x

/-! ### Releases -/

/-- The lanes that wait on mask `m`. -/
def waiters (w : Warp) (m : Nat) : List Nat := allLanes.filter fun l => (w.lane l).st == .waiting && (w.lane l).wait == .mask m

/-- Release the waiters of a mask whose every member waits on it (01 R30); lanes of a late fragment whose rejoin mask it is
return to the parent (09 R226). -/
def releaseMask (w : Warp) (m : Nat) : Warp :=
  let ws := waiters w m
  if !ws.isEmpty && (lanesOf (w.mreg m)).all fun l => ws.contains l then
    let back (y : Lane) : Nat := match w.frag y.frag with
      | some g => if g.rejoin = some m then g.parent else y.frag
      | none => y.frag
    (w.onLanes (fun l => ws.contains l) fun y => { y with st := .running, wait := .none, frag := back y }).dissolve
  else w

/-- Evaluate every mask (01 R30). -/
def releaseMasks (w : Warp) : Warp := (List.range 12).foldl releaseMask w

/-- Deliver the results for `v240`–`v255`: one queue entry for each port, or one cast for each consumer (01 R42, R43). -/
def pushOuts (x : Issue) : Issue :=
  (distinct (x.outs.map (·.1))).foldl (fun x r =>
    let mine := (x.outs.filter fun e => e.1 == r).map fun e => (e.2.1, e.2.2)
    { x with s := x.s.pushPort x.nk x.n x.wk x.w.unit r x.elected mine }) x

/-- The pending registers of a request's result (02 R48). -/
def pendOf (regs : List (Nat × Nat)) (lanes : List Nat) (req : Nat) : List Pend :=
  regs.map fun p => { cls := p.1, num := p.2, lanes := lanes, req := req }

/-- A request leaves its instruction: held in its core, with the registers that its result is written to pending
(02 R48, 05 R137). -/
def sendReq (x : Issue) (s : State) (e : Emit) (k : ReqKind) : State :=
  let r : Req := { id := s.nextId, who := ⟨x.wk, e.lanes.headD 0⟩, ctx := x.n.ctx, node := x.nk, unit := x.w.unit,
                   issued := s.clock x.w.unit, hold := if x.ctx.hold then Config.holdCycles else 0, dev := e.dev, kind := k }
  let f (w : Warp) : Warp :=
    { w with pend := w.pend ++ pendOf e.pend e.lanes r.id
             suspended := if e.suspend then some r.id else w.suspended }
  { s with held := s.held ++ [r], nextId := s.nextId + 1, warps := adjust x.wk f s.warps }

/-- A command enters the queue of its unit (12 R286). -/
def sendCmd (s : State) (c : Cmd) : State :=
  { s with cmds := s.cmds ++ [{ c with id := s.nextId, issued := s.clock c.unit }], nextId := s.nextId + 1 }

/-- Send everything that an issue emitted. -/
def route (x : Issue) (s : State) : State :=
  x.emits.foldl (fun s e =>
    let s := match e.req with | some k => x.sendReq s e k | none => s
    match e.cmd with | some c => sendCmd s c | none => s) s

/-- The sequencers of a fork that a trap has aborted stop (01 R39, 11 R266). -/
def dropAborted (w : Warp) (s : State) : State :=
  match w.role with
  | .seq _ parent =>
    match (find parent s.warps).bind (·.fork) with
    | some k => if k.fail.isSome then { s with warps := s.warps.filter fun e => !k.seqs.contains e.1 } else s
    | none => s
  | _ => s

/-- End an issue: parked and trapping lanes form their fragments, releases are evaluated, results leave, the warp and node
go back into the device, and `out` takes what the issue emitted. -/
def finishWith (x : Issue) (out : Issue → State → State) : State :=
  let x := x.leaveParked.parkAll.takeTraps.takeGcall.pushOuts
  let s := out x ((x.s.setWarp x.wk (releaseMasks x.w)).setNode x.nk x.n)
  let s := { dropAborted x.w s with issues := s.issues + 1 }
  match x.kill with
  | some (r, c, sub) => s.killNode x.nk r c sub
  | none => s

def finish (x : Issue) : State := x.finishWith route

end Issue

end Sys2Proof.Machine
end

