-- ==== Sys2Proof/Machine/Redund.lean ====
section
/-! DEFINITION. REDUNDANT nodes (12 R303; 19 R382–R392; 20 R395, R440): signatures, the compare buffer, the logs that the
other copies read, and the comparison, the rollback and the third copy. -/

namespace Sys2Proof.Machine

/-! ### Signatures (19 R384) -/

/-- The polynomial of the CRC-64 of ECMA-182. -/
def crcPoly : Nat := 0x42F0E1EBA9EA3693

def crcBits : Nat → Nat → Nat
  | 0, c => c
  | k + 1, c => crcBits k (if bitAt c 63 then (c * 2 % 2 ^ 64) ^^^ crcPoly else c * 2 % 2 ^ 64)

/-- Fold bytes into a signature. -/
def crcFold (sig : Nat) (bs : List Byte) : Nat := bs.foldl (fun c b => crcBits 8 (c ^^^ (b.toNat * 2 ^ 56))) sig

/-- The 32 bytes of one part of a contribution (19 R384, 20 R440). -/
def contribBytes (r : Raw) (lane : Nat) (p : Nat × List Byte) : List Byte :=
  leBytes 8 p.1 ++ leBytes 2 r.maj ++ leBytes 2 r.fn ++ leBytes 2 r.mod ++ [BitVec.ofNat 8 lane, 0]
    ++ (p.2 ++ List.replicate 16 0).take 16

namespace CopySt

/-- Close the running chunk. -/
def close (c : CopySt) : CopySt := { c with chunks := c.chunks ++ [(c.sig, c.cnt)], sig := 0, cnt := 0 }

/-- Fold one signed operation; the 64th closes the chunk. -/
def sign (c : CopySt) (r : Raw) (k : Contrib) : CopySt :=
  let c := { c with sig := (k.parts.foldl (fun g p => crcFold g (contribBytes r k.lane p)) c.sig), cnt := c.cnt + 1 }
  if c.cnt = 64 then c.close else c

/-- A copy begins a new interval: everything compared is gone. -/
def fresh (c : CopySt) : CopySt :=
  { c with sig := 0, cnt := 0, chunks := [], buf := [], takenOnce := [], undo := [], undoFe := [], meet := .none, pass := false, struck := false }

/-- Entries of the compare buffer (19 R385, R440): one for each signed operation, of which a warp issues one for a lane in a cycle; a `KMIG` is one for
the warp. -/
def entries (c : CopySt) : Nat :=
  let lanes (r : Req) : List Nat := match r.kind with
    | .table t => (match t.instr with | .kmig _ => [32] | _ => r.lanes)
    | _ => r.lanes
  ((c.buf.flatMap fun e => (lanes e.2).map fun l => (e.2.issued, l)).eraseDups).length

/-- The chunk of the operation signed last (19 R384). -/
def lastChunk (c : CopySt) : Nat := if c.cnt = 0 then c.chunks.length - 1 else c.chunks.length

/-- The copy stands at a comparison after which a new interval begins (12 R303; 19 R392), and has not been let through. -/
def atEnd (c : CopySt) : Bool :=
  !c.pass && (match c.meet with | .rchk => true | .rend => true | .exit => true | .stop => true | _ => false)

end CopySt

/-! ### Pairs -/

def Node.pair (n : Node) (idx : Nat) : Option Pair := n.pairs.find? fun p => p.idx == idx
def Node.setPair (n : Node) (p : Pair) : Node := { n with pairs := n.pairs.map fun q => if q.idx = p.idx then p else q }
def Pair.onCopy (p : Pair) (k : Nat) (f : CopySt → CopySt) : Pair :=
  { p with copies := mapFrom (fun i c => if i = k then f c else c) 0 p.copies }
def State.pairAt (s : State) (nk idx : Nat) : Option Pair := (find nk s.nodes).bind fun n => n.pair idx
def State.setPairAt (s : State) (nk : Nat) (p : Pair) : State := { s with nodes := adjust nk (fun n => n.setPair p) s.nodes }

/-- The pairs that checkpoint together with one: those of its PAIR groups (19 R383), as node key and warp index. -/
def State.pairMates (s : State) (nk idx : Nat) : List (Nat × Nat) :=
  match find nk s.nodes with
  | none => [(nk, idx)]
  | some n =>
    let gs := ((find n.launch s.launches).elim [] fun l => l.groups).filter fun g => g.pair && g.members.contains (n.idx, idx)
    match gs with
    | [] => [(nk, idx)]
    | _ => (gs.flatMap fun g => g.members.filterMap fun m => (s.nodeKey n.launch m.1).map fun k => (k, m.2)).eraseDups

/-- Entries of a log that a lane has. -/
def laneEntries (log : List LogEnt) (l : Nat) : List LogEnt := log.filter fun e => e.lane == l

/-! ### Comparison -/

/-- The buffered requests of a chunk of a copy leave in program order (19 R385), under the numbers that the leading copy's have, as its warp awaits
their replies. -/
def State.releaseChunk (s : State) (lead c : CopySt) (i : Nat) : State :=
  let reqs (c : CopySt) : List Req := (c.buf.filter fun e => e.1 == i).map (·.2)
  let names := reqs lead
  { s with held := s.held ++ (reqs c).zipIdx.map fun e => match names[e.2]? with
      | some n => { e.1 with id := n.id, who := n.who }
      | none => e.1 }

/-- A warp's registers and lanes as its checkpoint holds them; it runs on from there. -/
def Warp.restore (w : Warp) (k : Ckpt) : Warp :=
  { w with v := k.v, s := k.s, m := k.m, lanes := k.lanes, frags := k.frags, utvec := k.utvec, pend := k.pend, suspended := none, stop := .running }

/-- The checkpoint of a warp with these lanes (20 R395). -/
def Warp.ckpt (w : Warp) (lanes : List Lane) : Ckpt :=
  { v := w.v, s := w.s, m := w.m, lanes := lanes, frags := w.frags, utvec := w.utvec, pend := w.pend.filter fun p => p.req == 0 }

/-- The unit of a copy of a warp. -/
def State.copyUnit (s : State) (nk idx k : Nat) : Option Nat :=
  (s.pairAt nk idx).bind fun p => p.copies[k]?.bind fun c =>
    match find c.warp s.warps with
    | some w => some w.unit
    | none => (find nk s.nodes).bind fun n => (n.copyUnits k)[idx / max 1 n.desc.w]?

/-- An engine command's write to the partition of a copy (19 R386): its granules' bits are set where it is their last write (05 R112), and the copy
remembers what was there. -/
def State.copyWrite (s : State) (nk idx k off : Nat) (bs : List Byte) (last : Bool) : State :=
  match s.copyUnit nk idx k, find nk s.nodes, s.pairAt nk idx with
  | some u, some n, some p =>
    let o := n.partBase u + off
    let keep (c : CopySt) : CopySt := { c with
      undo := ((List.range bs.length).map fun i => (spKey u (o + i), s.spByte u (o + i))) ++ c.undo
      undoFe := ((List.range bs.length).map fun i => (feKey u (o + i), s.feBit u (o + i))) ++ c.undoFe }
    let s := (s.setPairAt nk (p.onCopy k keep)).spWrite u o bs
    if last then s.setFeRange u o bs.length else s
  | _, _, _ => s

/-- A copy as it stood at its checkpoint; where it has none, it stays. -/
def CopySt.back (c : CopySt) : CopySt :=
  match c.ck with
  | none => { c with struck := false }
  | some k => { c.fresh with taken := k.taken, steps := k.steps, open_ := k.open_ }

/-- Roll one pair back to its checkpoint (19 R388). A warp that was to stop for a pre-emption has its time to run again (R392). -/
def State.rollbackPair (s : State) (nk idx : Nat) : State :=
  match s.pairAt nk idx with
  | none => s
  | some p =>
    let pdl := ((find nk s.nodes).bind fun n => find n.launch s.launches).elim 65536 fun l => l.pdl
    let s := p.copies.foldl (fun (s : State) c =>
      match c.ck with
      | none => s
      | some k => { s with
          warps := adjust c.warp (fun w => { w.restore k with pdleft := if w.preq then pdl else w.pdleft }) s.warps
          fePend := s.fePend.filter fun f => f.who.warp != c.warp
          scratch := c.undo.foldl (fun m e => put 0 e.1 e.2 m) s.scratch
          fe := c.undoFe.foldl (fun m e => put false e.1 e.2 m) s.fe }) s
    let s := s.setPairAt nk { p with
      copies := p.copies.map CopySt.back, decided := 0, mismatch := p.mismatch + 1
      log := match p.copies.head?.bind (·.ck) with | some k => p.log.take k.logLen | none => p.log }
    let earlier (id : Nat) : Bool := !p.once.any fun e => e.val == some (.cmd id)
    (p.writes.filter fun e => earlier e.cmd).foldl (fun (s : State) e =>
      p.copies.zipIdx.foldl (fun (s : State) c => s.copyWrite nk idx c.2 e.off e.bytes e.last) s) s

/-- Roll back a pair and the pairs that checkpoint together with it (19 R383, R388). -/
def State.rollback (s : State) (nk idx : Nat) : State := (s.pairMates nk idx).foldl (fun s m => s.rollbackPair m.1 m.2) s

/-- Start the third copy from the leading copy's checkpoint (19 R389); none while no core set is free (log entry 94). -/
def State.startThird (s : State) (nk idx : Nat) : Option State :=
  match find nk s.nodes, s.pairAt nk idx with
  | some n, some p =>
    match p.copies with
    | [lead, trail] =>
      match lead.ck, find lead.warp s.warps with
      | some k, some w =>
        let others := [w.unit] ++ ((find trail.warp s.warps).map (·.unit)).toList
        let us := if n.units3.isEmpty then s.fitCopy true n ((n.units ++ n.units2).map fun u => u / 96) false
          else [n.units, n.units2, n.units3].find? fun us => !others.any us.contains
        us.map fun us =>
          let u := us.getD (idx / n.desc.w) 0
          let size := n.desc.scr * 65536
          let old := lead.undo.foldl (fun m e => put 0 e.1 e.2 m) s.scratch
          let oldFe := lead.undoFe.foldl (fun m e => put false e.1 e.2 m) s.fe
          let n3 : Node := if n.units3.isEmpty then
              us.foldl (fun (n : Node) v => n.bindSlots (s.usedSlots v) v) { n with banks := n.banks ++ s.runsOn n us }
            else n
          let (src, dst) := (n.partBase w.unit, n3.partBase u)
          let s := { s with
            scratch := (List.range size).foldl (fun m i =>
              put 0 (spKey u (dst + i)) (getD 0 old (spKey w.unit (src + i))) m) s.scratch
            fe := (List.range (size / 16)).foldl (fun m i =>
              put false (feKey u (dst + 16 * i)) (getD false oldFe (feKey w.unit (src + 16 * i))) m) s.fe }
          let wk := s.nextId
          let w3 : Warp := { w.restore k with copy := 2, unit := u, slot := n3.slotOf u (idx % n.desc.w) }
          let c3 : CopySt := { warp := wk, open_ := k.open_, taken := k.taken, steps := k.steps, ck := some k }
          let s := { s with warps := insert wk w3 s.warps, nextId := wk + 1, nodes := adjust nk (fun n => { n with units3 := if n.units3.isEmpty then us else n.units3, slots := n3.slots, banks := n3.banks }) s.nodes,
                                runOwner := (List.range n.desc.scr).foldl (fun m i => insert (u * 16 + (n3.bankOn u + i)) n.ctx m) s.runOwner }
          s.setPairAt nk { p with copies := [lead, trail, c3] }
      | _, _ => none
    | _ => none
  | _, _ => none

/-- Two copies signed a chunk equally. -/
def CopySt.agrees (a b : CopySt) (i : Nat) : Bool := (a.chunks[i]?).isSome && a.chunks[i]? == b.chunks[i]?

/-- The next chunk is decided: its entries are in the buffers no more. -/
def Pair.pastChunk (p : Pair) : Pair :=
  { p with decided := p.decided + 1, copies := p.copies.map fun c => { c with buf := c.buf.filter fun e => e.1 != p.decided } }

/-- The copies that no strike has reached and that signed a chunk as another such copy did, lowest first (19 R389). -/
def Pair.agreeing (p : Pair) (i : Nat) : List (CopySt × Nat) :=
  let ok := p.copies.zipIdx.filter fun e => !e.1.struck
  ok.filter fun e => ok.any fun f => f.2 != e.2 && e.1.agrees f.1 i

/-- What becomes of the next chunk of a pair that every copy has closed (19 R385, R388, R389), or of a strike that reached one of two copies; none while
a copy has not closed it, or the third copy waits for a core set. -/
def State.decideChunk (s : State) (nk idx : Nat) (p : Pair) : Option State :=
  let i := p.decided
  let two := decide (p.copies.length ≤ 2)
  let differ : Option State := if !two then some (s.killNode nk 0x11 0 0) else if p.mismatch = 0 then some (s.rollback nk idx) else s.startThird nk idx
  if two && p.copies.any (·.struck) then differ
  else if !(p.copies.all fun c => c.struck || (c.chunks[i]?).isSome) then none
  else match p.agreeing i, p.copies.head? with
    | e :: _, some lead => some ((s.releaseChunk lead e.1 i).setPairAt nk p.pastChunk)
    | _, _ => differ

/-- A copy agreed with another on every chunk of the interval, and no strike has reached it. -/
def Pair.inMajority (p : Pair) (k : Nat) : Bool :=
  (p.copies[k]?).elim false fun c => !c.struck && (List.range p.decided).all fun i => p.copies.zipIdx.any fun e => e.2 != k && c.agrees e.1 i

/-- The copy that performs the once-operation at which a chunk ended: the leading one, and of three the lowest that the chunk is released for
(19 R387, R389). -/
def Pair.performer (p : Pair) : Nat :=
  if p.copies.length ≤ 2 then 0 else ((p.agreeing (p.decided - 1)).head?).elim 0 fun e => e.2

/-- Every reply that a warp awaits has come. -/
def State.repliesIn (s : State) (wk : Nat) : Bool :=
  (find wk s.warps).elim true fun w => w.suspended.isNone && w.pend.all fun p => p.req == 0

/-- Every copy of a pair stands where an interval ends, with every chunk decided and every reply in. -/
def State.atEnd (s : State) (p : Pair) : Bool :=
  p.copies.all fun c => c.struck || (c.atEnd && decide (c.chunks.length ≤ p.decided) && s.repliesIn c.warp)

/-- The warps of a pair have retired. -/
def State.pairGone (s : State) (p : Pair) : Bool := p.copies.all fun c => (find c.warp s.warps).isNone

/-- A pair of a PAIR group has reached its own `RCHK` or `REND` (19 R383), or never will: its warps have retired, or its node has ended. -/
def State.mateReached (s : State) (nk idx : Nat) : Bool :=
  match find nk s.nodes with
  | none => true
  | some n => n.st.final || match n.pair idx with
    | some p => s.pairGone p || s.atEnd p
    | none => !n.pairs.isEmpty

/-- A copy comes to stand as another does, in registers, lanes and what either wrote to scratchpad since the checkpoint (19 R389). -/
def State.alignCopy (s : State) (nk : Nat) (from_ to_ : CopySt) : State :=
  match find nk s.nodes, find from_.warp s.warps, find to_.warp s.warps with
  | some n, some w, some v =>
    let old := to_.undo.foldl (fun m e => put 0 e.1 e.2 m) s.scratch
    let oldFe := to_.undoFe.foldl (fun m e => put false e.1 e.2 m) s.fe
    let (src, dst) := (n.partBase w.unit, n.partBase v.unit)
    { s with
      warps := insert to_.warp { w with unit := v.unit, slot := v.slot, copy := v.copy } s.warps
      scratch := from_.undo.foldl (fun m e => put 0 (spKey v.unit (dst + (e.1 - spKey w.unit src))) (getD 0 s.scratch e.1) m) old
      fe := from_.undoFe.foldl (fun m e => put false (feKey v.unit (dst + (e.1 - feKey w.unit src) * 16)) (getD false s.fe e.1) m) oldFe }
  | _, _, _ => s

/-- The core set that no copy of any warp of the node uses any more is freed (19 R389). -/
def State.freeSet (s : State) (nk : Nat) : State :=
  match find nk s.nodes with
  | none => s
  | some n =>
    let used := [n.units, n.units2, n.units3].filter fun us => (s.warpsOf nk).any fun e => us.contains e.2.unit
    match used with
    | [a, b] =>
      if n.units3.isEmpty then s
      else s.setNode nk { n with units := a, units2 := b, units3 := [], banks := n.banks.filter fun e => (a ++ b).contains e.1
                                 slots := n.slots.filter fun e => (a ++ b).contains (e.1 / 64) }
    | _ => s

/-- The copies that pass an `RCHK` or `REND`, the one that supplies the checkpoint first: of three copies those in the majority for every chunk; beside a
lone one the model's choice is the lowest other (19 R389; log entry 94). -/
def Pair.keeps (p : Pair) : List Nat :=
  let all := List.range p.copies.length
  if p.copies.length ≤ 2 then all
  else match all.filter p.inMajority with
    | [k] => [k, if k = 0 then 1 else 0]
    | l => l.take 2

/-- A log without the first entries of each lane, as many as given. -/
def dropFirst (m : List (Nat × Nat)) : List LogEnt → List LogEnt
  | [] => []
  | e :: t => if 0 < getD 0 m e.lane then dropFirst (put 0 e.lane (getD 0 m e.lane - 1) m) t else e :: dropFirst m t

/-- Entries of the load log that every one of these copies has taken, by lane. -/
def takenByAll (cs : List CopySt) : List (Nat × Nat) :=
  allLanes.map fun l => (l, (cs.map fun c => getD 0 c.taken l).foldl min ((cs.head?.elim 0 fun c => getD 0 c.taken l)))

/-- The lanes that the checkpoint at the end of an interval records (20 R395): after an `RCHK` or a `REND` as that instruction leaves them. -/
def CopySt.endLanes (c : CopySt) (w : Warp) : List Lane :=
  match c.meet, w.issuePc with
  | .rchk, some pc => (w.advance pc 8).lanes
  | .rend, some pc => (w.advance pc 8).lanes
  | _, _ => w.lanes

/-- A copy begins the interval after a comparison: its checkpoint is that of `ck`, and it is let through. `from_` are the entries of the load log that go. -/
def CopySt.enter (c : CopySt) (ck : Option Ckpt) (from_ : List (Nat × Nat)) (logLen : Nat) : CopySt :=
  let taken := c.taken.map fun e => (e.1, e.2 - getD 0 from_ e.1)
  let stays := match c.meet with | .rend => false | .exit => false | _ => c.open_
  { c.fresh with
    meet := c.meet, pass := true, steps := 0, taken := taken
    ck := ck.map fun k => { k with taken := taken, logLen := logLen, steps := 0, open_ := stays } }

/-- The flips of a warp index after its copies have been numbered anew; those of a copy that is gone go with it. -/
def renumberFlips (idx : Nat) (keep : List Nat) (fs : List Flip) : List Flip :=
  fs.filterMap fun f => if f.warp = idx then (keep.idxOf? f.copy).map fun k => { f with copy := k } else some f

/-- Let the copies of a pair pass the end of an interval (12 R303; 19 R387, R389; 20 R395): the new checkpoint is taken for all at once, the once-log is
empty, and of three copies the two in the majority stay, the first of which supplies the checkpoint. -/
def State.passPair (s : State) (nk idx : Nat) : State :=
  match s.pairAt nk idx with
  | none => s
  | some p =>
    let keep := p.keeps
    let three := decide (2 < p.copies.length)
    if s.pairGone p then s
    else if three && decide (keep.length < 2) then s.killNode nk 0x11 0 0
    else
      let s := match (keep[0]?).bind fun k => p.copies[k]?, (keep[1]?).bind fun k => p.copies[k]? with
        | some a, some b => if three && !p.inMajority (keep.getD 1 0) then s.alignCopy nk a b else s
        | _, _ => s
      let lead := (keep[0]?).bind fun k => p.copies[k]?
      let kept := keep.filterMap fun k => (p.copies[k]?).map fun c =>
        if three && !p.inMajority k then { c with taken := (lead.elim c fun a => a).taken, meet := (lead.elim c fun a => a).meet } else c
      let gone := (p.copies.zipIdx.filter fun e => !keep.contains e.2).map fun e => e.1.warp
      let s := { s with warps := s.warps.filter fun e => !gone.contains e.1 }
      let number (m : List (Nat × Warp)) (e : CopySt × Nat) : List (Nat × Warp) :=
        adjust e.1.warp (fun w => { w with copy := e.2 }) m
      let s := { s with warps := kept.zipIdx.foldl number s.warps
                        nodes := adjust nk (fun n => { n with flips := renumberFlips idx keep n.flips }) s.nodes }
      let ckOf (c : CopySt) : Option Ckpt := (find c.warp s.warps).map fun w => w.ckpt (c.endLanes w)
      let drop := takenByAll kept
      let log := dropFirst drop p.log
      let go (c : CopySt) : CopySt := c.enter (if three then lead.bind ckOf else ckOf c) drop log.length
      let s := s.setPairAt nk { p with copies := kept.map go, log := log, once := [], writes := [], decided := 0, mismatch := 0, since := s.nextId }
      if gone.isEmpty then s else s.freeSet nk

/-- What the comparison of a pair does next (19 R383, R385, R387–R389): it decides a chunk, or the pair and those that checkpoint with it pass the end of
their interval; none where it waits. -/
def State.compare (s : State) (nk idx : Nat) : Option State :=
  (s.pairAt nk idx).bind fun p =>
    match s.decideChunk nk idx p with
    | some t => some t
    | none =>
      let mates := s.pairMates nk idx
      if !s.pairGone p && s.atEnd p && mates.all fun m => s.mateReached m.1 m.2 then some (mates.foldl (fun s m => s.passPair m.1 m.2) s) else none

/-- The pairs of the running REDUNDANT nodes. -/
def State.redPairs (s : State) : List (Nat × Nat) :=
  (s.nodes.filter fun e => e.2.desc.red && e.2.st == .running).flatMap fun e => e.2.pairs.map fun p => (e.1, p.idx)

/-! ### One issue of a copy -/

/-- What a lane reads at an address: its own held store's byte, or memory's (05 R137). `buf` are its buffered requests. -/
def State.ownByte (s : State) (wk l : Nat) (buf : List Req) (tag pa : Nat) : Byte :=
  let own := (s.held ++ buf).filterMap fun r => match r.kind with
    | .store _ bs => if r.who.warp == wk && r.who.lane == l then find pa bs else none
    | _ => none
  own.getLast?.getD (s.rdByte tag pa)

namespace Issue

def red (x : Issue) : Bool := x.n.desc.red
def pair (x : Issue) : Option Pair := x.n.pair x.w.idx
def copySt (x : Issue) : CopySt := ((x.pair.bind fun p => p.copies[x.w.copy]?)).getD { warp := x.wk }
def setCopy (x : Issue) (f : CopySt → CopySt) : Issue :=
  match x.pair with | some p => { x with n := x.n.setPair (p.onCopy x.w.copy f) } | none => x
/-- The copy is within a region. -/
def inRegion (x : Issue) : Bool := x.red && x.copySt.open_

/-- Take the next entry of the load log for a lane of a copy that reads no memory itself (19 R386). -/
def takeLog (x : Issue) (l : Nat) : Issue × Option LogVal :=
  match x.pair with
  | none => (x, none)
  | some p =>
    let k := getD 0 x.copySt.taken l
    match (laneEntries p.log l)[k]?.bind (·.val) with
    | none => ({ x with wait := true }, none)
    | some v => (x.setCopy fun c => { c with taken := insert l (k + 1) c.taken }, some v)

/-- The leading copy records what a lane received, or the request that will bring it. -/
def putLog (x : Issue) (l req : Nat) (v : Option LogVal) : Issue :=
  match x.pair with
  | none => x
  | some p =>
    let e : LogEnt := { lane := l, req := req, val := v }
    let p := { p with log := p.log ++ [e] }
    { x with n := x.n.setPair (p.onCopy 0 fun c => { c with taken := insert l (getD 0 c.taken l + 1) c.taken }) }

/-- What a lane of the issuing warp reads at an address. -/
def laneByte (x : Issue) (l tag pa : Nat) : Byte := x.s.ownByte x.wk l (x.copySt.buf.map (·.2)) tag pa

/-- Read the pieces of an access for a lane: as a number, low byte first. A poisoned word kills the node (19 R375). In the
trailing copies the value is the leading copy's. -/
def readMem (x : Issue) (l : Nat) (ps : List Piece) : Issue × Nat :=
  if x.red && x.w.copy != 0 then
    match x.takeLog l with
    | (x, some (.data v)) => (x, v)
    | (x, _) => ({ x with wait := true }, 0)
  else
    let v := ofLe (ps.flatMap fun p => (List.range p.n).map fun i => x.laneByte l p.tag (p.pa + i))
    let x := if x.s.badRead x.w.unit ps then { x with kill := some (0x12, 0, 0) } else x
    if x.red then (x.putLog l 0 (some (.data v)), v) else (x, v)

/-- The bytes of an access laid over its pieces. -/
def pieceCells (ps : List Piece) (bs : List Byte) : List (Nat × List (Nat × Byte)) :=
  match ps with
  | [] => []
  | p :: t => (p.tag, ((bs.take p.n).zipIdx).map fun e => (p.pa + e.2, e.1)) :: pieceCells t (bs.drop p.n)

/-- The pending flips of the data of a lane's store (20 R394). -/
def strikes (x : Issue) (l : Nat) (f : Flip) : Bool := f.pending && f.warp == x.w.idx && f.copy == x.w.copy && bitsAt f.sel 12 5 == l

/-- The data of a lane's store of `n` bytes once its pending flips have taken place (20 R394). -/
def flipped (x : Issue) (l n v : Nat) : Nat :=
  (x.n.flips.filter (x.strikes l)).foldl (fun v f => v ^^^ 2 ^ (bitsAt f.sel 17 6 % (8 * n))) v

/-- They are consumed. -/
def useFlips (x : Issue) (l : Nat) : Issue := { x with n := { x.n with flips := x.n.flips.filter fun f => !x.strikes l f } }

/-- The stores whose data a pending flip strikes (20 R394). -/
def struck (x : Issue) : Bool := match x.i with | .st8 _ => true | .st12 _ => true | .sct _ => true | _ => false

/-- A lane stores the `n` low bytes of `v` over these pieces of an access at `va` (09 R220): each piece is a held write. -/
def storeRaw (x : Issue) (l va n v : Nat) (ps : List Piece) : Issue :=
  let bs := leBytes n v
  let dev := ps.any fun p => decide (2 ≤ p.mt)
  let c : Contrib := { lane := l, parts := [(va, bs)] }
  let es := (pieceCells ps bs).zipIdx.map fun e =>
    ({ lanes := [l], req := some (.store e.1.1 e.1.2), contribs := if e.2 = 0 then [c] else [], dev := dev } : Emit)
  { x with emits := x.emits ++ es }

/-- The same with the lane's pending flips. -/
def storeMem (x : Issue) (l va n v : Nat) (ps : List Piece) : Issue :=
  if x.struck then (x.useFlips l).storeRaw l va n (x.flipped l n v) ps else x.storeRaw l va n v ps

/-- Write bytes of a scratchpad, remembering in a REDUNDANT node what was there (19 R385, R388); with an offset to sign it
under, it is a signed operation. -/
def writeSp (x : Issue) (l unit off : Nat) (sigOff : Option Nat) (bs : List Byte) (fe : Option Bool) : Issue :=
  let x := if x.red then
      x.setCopy fun c => { c with
        undo := ((List.range bs.length).map fun i => (spKey unit (off + i), x.s.spByte unit (off + i))) ++ c.undo
        undoFe := if fe.isSome then (feKey unit off, x.s.feBit unit off) :: c.undoFe else c.undoFe }
    else x
  let s := if bs.isEmpty then x.s else x.s.spWrite unit off bs
  let s := match fe with | some b => s.setFe unit off b | none => s
  let x := { x with s := s }
  match x.red, sigOff with
  | true, some o => { x with emits := x.emits ++ [{ lanes := [l], contribs := [{ lane := l, parts := [(o, bs)] }] }] }
  | _, _ => x

/-- A request that waits in the compare buffer for its chunk: a store, or a mutation whose reply fetch does not wait for (19 R385). -/
def buffered (e : Emit) : Bool :=
  !e.once && match e.req with | some (.table _) => !e.contribs.isEmpty | some _ => true | none => false

/-- Fold the contributions of what an issue emitted. Each of its buffered requests has the number of the chunk of its last operation, and of a chunk that
is decided already none is left; the registers that the reply to a mutation changes pend, and the load log awaits it. -/
def signEmits (x : Issue) (buffer : Bool) : Issue :=
  match x.i.toRaw with
  | none => x
  | some r =>
    x.emits.foldl (fun x e =>
      let x := x.setCopy fun c => e.contribs.foldl (fun c k => c.sign r k) c
      let k := x.copySt.lastChunk
      match e.req with
        | some q =>
          if buffer && buffered e then
            let rq : Req := { id := x.s.nextId, who := ⟨x.wk, e.lanes.headD 0⟩, ctx := x.n.ctx, node := x.nk, unit := x.w.unit,
                              issued := x.s.clock x.w.unit, hold := if x.ctx.hold then Config.holdCycles else 0, dev := e.dev, kind := q }
            let lead := x.w.copy == 0
            let w := x.w
            let x := { x with s := { x.s with nextId := x.s.nextId + 1 },
                              w := { w with pend := w.pend ++ if lead then pendOf e.pend e.lanes rq.id else []
                                            suspended := if lead && e.suspend then some rq.id else w.suspended } }
            let x := if lead && (match q with | .table _ => true | _ => false) then e.lanes.foldl (fun (x : Issue) l => x.putLog l rq.id none) x else x
            if (x.pair.elim 0 fun p => p.decided) ≤ k then x.setCopy fun c => { c with buf := c.buf ++ [(k, rq)] } else x
          else x
        | none => x) x

/-- Write a value that another copy received into the registers of a lane. -/
def deliver (x : Issue) (l : Nat) : LogVal → Issue
  | .atom v fl => (x.set 0 l v).flag l fl
  | .cmd id =>
    let mine := (x.pair.elim [] fun p => p.writes).filter fun e => e.cmd == id
    mine.foldl (fun (x : Issue) e =>
      let bs := e.bytes
      let o := x.n.partBase x.w.unit + e.off
      let x := x.writeSp l x.w.unit o none bs none
      let fes := (List.range bs.length).map fun i => (feKey x.w.unit (o + i), x.s.feBit x.w.unit (o + i))
      let x := x.setCopy fun c => { c with undoFe := fes ++ c.undoFe }
      if e.last then { x with s := x.s.setFeRange x.w.unit o bs.length } else x) x
  | .tab o =>
    let w (x : Issue) (k : Nat) (v : Option Nat) : Issue := match v with | some v => x.set k l v | none => x
    let x := w (w (w (w x 0 o.d) 2 o.b) 4 o.sr) 5 o.xr
    let x := match o.hint with
      | some h =>
        let q := (x.opnd 1).num
        { x with w := (x.w.wrReg .v (q + 2) l (h % 2 ^ 32)).wrReg .v (q + 3) l (h / 2 ^ 32) }
      | none => x
    match o.trap, o.fault with
    | some (c, b), _ => x.trap l c b
    | none, some f => x.park l f
    | none, none => x
  | _ => x

/-- Give the lanes of an emitted request the once-log's results from the one they have not taken; none while a result is
still on its way. -/
def takeOnce (x : Issue) (ls : List Nat) : Option Issue :=
  ls.foldl (fun (o : Option Issue) l => o.bind fun (x : Issue) => x.pair.bind fun p =>
    let k := getD 0 x.copySt.takenOnce l
    ((laneEntries p.once l)[k]?.bind (·.val)).map fun v =>
      (x.setCopy fun c => { c with takenOnce := insert l (k + 1) c.takenOnce }).deliver l v) (some x)

/-- The once-log already holds results for these lanes (19 R387). -/
def onceLogged (x : Issue) (ls : List Nat) : Bool :=
  match x.pair with
  | none => false
  | some p => ls.all fun l => decide (getD 0 x.copySt.takenOnce l < (laneEntries p.once l).length)

/-- A copy performs its once-operations, and the once-log awaits their results. -/
def performOnce (x : Issue) (s : State) : State :=
  x.emits.foldl (fun s e =>
    let id := s.nextId
    let s := match e.req with | some k => x.sendReq s e k | none => s
    let s := match e.cmd with | some c => sendCmd s c | none => s
    let quick : Option LogVal := match e.cmd, e.req with
      | some _, _ => some (.cmd (s.nextId - 1))
      | none, some (.atomic a) => if a.d.isNone then some .done else none
      | none, some _ => none
      | none, none => some .done
    if e.req.isNone && e.cmd.isNone then s
    else match s.pairAt x.nk x.w.idx with
      | none => s
      | some p =>
        let ent (l : Nat) : LogEnt := { lane := l, req := id, val := quick }
        let p := { p with once := p.once ++ e.lanes.map ent }
        s.setPairAt x.nk (p.onCopy x.w.copy fun c =>
          { c with takenOnce := e.lanes.foldl (fun m l => insert l (getD 0 m l + 1) m) c.takenOnce })) s

/-- The leading copy sends its reads; the load log awaits their replies. -/
def sendReads (x : Issue) (s : State) : State :=
  (x.emits.filter fun e => !buffered e).foldl (fun s e =>
    match e.req with
    | some (.table t) =>
      let id := s.nextId
      let s := x.sendReq s e (.table t)
      match s.pairAt x.nk x.w.idx with
      | none => s
      | some p =>
        let ent (l : Nat) : LogEnt := { lane := l, req := id, val := none }
        let p := { p with log := p.log ++ e.lanes.map ent }
        s.setPairAt x.nk (p.onCopy 0 fun c => { c with taken := e.lanes.foldl (fun m l => insert l (getD 0 m l + 1) m) c.taken })
    | _ => s) s

/-- Lanes of an emission that must lie within a region (12 R303). -/
def outsideLanes (x : Issue) : List Nat :=
  x.emits.flatMap fun e =>
    if e.cmd.isSome then x.act
    else if e.req.isSome && !e.contribs.isEmpty then e.lanes
    else []

/-- The emission is signed and compared before it is performed. -/
def hasOnce (x : Issue) : Bool := x.emits.any fun e => e.once

/-- A copy that reads no memory takes the value of a lane's request from the load log (19 R386): at once, or, of a mutation that waits in the compare buffer,
when the reply comes; until the leading copy has issued it, the copy waits. -/
def takeReply (x : Issue) (e : Emit) (l : Nat) : Issue :=
  if buffered e then
    match (x.pair.bind fun p => (laneEntries p.log l)[getD 0 x.copySt.taken l]?) with
    | some ⟨_, id, none⟩ =>
      let w := x.w
      { x with w := { w with pend := w.pend ++ pendOf e.pend [l] id, suspended := if e.suspend then some id else w.suspended } }.setCopy
        fun c => { c with taken := insert l (getD 0 c.taken l + 1) c.taken }
    | _ => match x.takeLog l with
      | (x, some v) => x.deliver l v
      | (x, none) => { x with wait := true }
  else match x.takeLog l with
    | (x, some v) => x.deliver l v
    | (x, none) => { x with wait := true }

/-- The copy takes the values of all its requests. -/
def takeReplies (x : Issue) : Issue :=
  (x.emits.filter fun e => match e.req with | some (.table _) => true | _ => false).foldl
    (fun (x : Issue) e => e.lanes.foldl (fun (x : Issue) l => x.takeReply e l) x) x

end Issue

/-- A copy arrives at a comparison (19 R387; 12 R303): `z` holds what it has signed, and `x` its issue, whose flips have taken place. Its chunk ends, and
nothing else of the issue happens before the copies have been compared. -/
def State.arrive (s : State) (x z : Issue) (k : Meet) : State :=
  let z := z.setCopy fun c => { c.close with meet := k }
  { s with
    nodes := adjust x.nk (fun n => { n with pairs := z.n.pairs, flips := x.n.flips }) s.nodes
    warps := adjust x.wk (fun w => { w with v := x.w.v, s := x.w.s }) s.warps
    meets := s.meets + 1 }

/-- A copy comes to an `RCHK`, a `REND` or an `EXIT` within its region (12 R303): it waits until the copies have met and
compared, then `go` is the rest. -/
def State.meetAt (s : State) (x : Issue) (k : Meet) (go : Issue → State) : State :=
  let c := x.copySt
  if c.meet = .none then s.arrive x x k
  else if !c.pass then s
  else go (x.setCopy fun c => { c with meet := .none, pass := false })

/-- Take the checkpoint of an `RBEG` for a copy as its warp now stands (20 R395). -/
def State.takeCkpt (s : State) (nk wk : Nat) : State :=
  match find wk s.warps with
  | none => s
  | some w =>
    match s.pairAt nk w.idx with
    | none => s
    | some p => s.setPairAt nk (p.onCopy w.copy fun c =>
        { c with ck := some { w.ckpt w.lanes with taken := c.taken, logLen := p.log.length, steps := c.steps } })

/-- End an issue of a copy of a REDUNDANT node. `x` is the issue before its effect and `z` after it; `post` is what the device
does with the outcome. -/
def redFinish (s : State) (x z : Issue) (post : Issue → State → State) : State :=
  let y := z.setCopy fun c => { c with steps := c.steps + 1 }
  let c := x.copySt
  let full := x.w.copy = 0 && y.emits.any (fun e => !e.contribs.isEmpty) && decide (x.n.slack ≤ c.entries)
  if !c.open_ && !y.outsideLanes.isEmpty then
    let bad := y.outsideLanes.eraseDups
    post y ({ x with traps := y.traps ++ bad.map fun l => (l, 0x0C, 1), parks := y.parks } : Issue).finish
  else if y.hasOnce then
    let ls := y.emits.flatMap (·.lanes)
    let p := x.pair
    if c.meet != .once then
      if full then s
      else
        let z : Issue := { x with emits := y.emits }
        s.arrive x (z.signEmits false) .once
    else if (p.elim 0 fun p => p.decided) < c.chunks.length then s
    else
      let y := y.setCopy fun c => { c with meet := .none }
      if x.w.copy = (p.elim 0 fun p => p.performer) && !y.onceLogged ls then post y (y.finishWith Issue.performOnce)
      else
        let y0 : Issue := { x with parks := y.parks, traps := y.traps, n := y.n }
        match y0.takeOnce ls with
        | none => s
        | some z => post z (z.finishWith fun _ t => t)
  else if full then s
  else
    let y := if c.open_ then y.signEmits true else y
    if x.w.copy = 0 then post y (y.finishWith Issue.sendReads)
    else
      let z := y.takeReplies
      if z.wait then s else post z (z.finishWith fun _ t => t)

/-- Fill the log entry that a request's result answers (19 R386, R387). -/
def State.fillLog (s : State) (nk wk req lane : Nat) (v : LogVal) : State :=
  match find nk s.nodes, find wk s.warps with
  | some n, some w =>
    if n.desc.red then
      match n.pair w.idx with
      | none => s
      | some p =>
        let fill (e : LogEnt) : LogEnt := if e.req = req ∧ e.lane = lane ∧ e.val = none then { e with val := some v } else e
        s.setPairAt nk { p with log := p.log.map fill, once := p.once.map fill }
    else s
  | _, _ => s

end Sys2Proof.Machine
end

