-- ==== Sys2Proof/Machine/Spans.lean ====
section
/-! DEFINITION. Where the accesses of a lane to scratchpad lie (05 R110, R111), and the stretches of memory and of scratchpad that an engine command
reads and writes for its issuing lanes: one party's accesses to a common byte follow its program order (05 R118, 24 R435). -/

namespace Sys2Proof.Machine

/-! ### Scratchpad places -/

/-- The displacement of a form: sx of B, or IMM32 in the 12-byte form (09 R219). -/
def dispB (x : Issue) (l : Nat) : Int := sxInt 32 (x.val 2 l)

/-- The unit and the place of `n` bytes at a scratchpad offset: in the node's partition, or in the window of a group
(05 R110, R111). -/
def spPlace (x : Issue) (o : Int) (n : Nat) : Option (Nat × Nat) :=
  if o < 0 then none
  else
    let o := o.toNat
    if o < 2 ^ 20 then (if o + n ≤ x.n.partSize then some (x.w.unit, x.n.partBase x.w.unit + o) else none)
    else
      let k := o / 2 ^ 20 - 1
      if 3 < k || !bitAt x.w.grps.toNat (32 + k) then none
      else match x.launch.groups[bitsAt x.w.grps.toNat (8 * k) 8]? with
        | none => none
        | some g =>
          let owner := (g.members.head?.bind fun m => x.s.nodeKey x.n.launch m.1).bind fun k => find k x.s.nodes
          match g.win, owner with
          | true, some w => if o % 2 ^ 20 + n ≤ w.partSize then some (x.w.unit, w.partBase x.w.unit + o % 2 ^ 20) else none
          | _, _ => none

/-- The offset of a scratchpad form (09 R219). -/
def spOff (x : Issue) (l : Nat) (d : Int) : Int := (x.val 1 l % 2 ^ 32 : Nat) + d

/-! ### Sizes of a collective (12 R296, 21 R408) -/

/-- Bytes of an element. -/
def collSize (dt : Nat) : Nat := if dt = 1 ∨ dt = 2 then 2 else 4

/-- The bytes that chunks cover (R408); `fn` is the function of `COLL`. -/
def collBytes (fn p count dt : Nat) : Nat := (if fn = 0 then 1 else p) * count * collSize dt

/-- The number of chunks of a command (R408). -/
def collChunks (fn p count dt chunk : Nat) : Nat := if fn = 3 then p else ceilDiv (collBytes fn p count dt) chunk

def Coll.bytes (k : Coll) : Nat := collBytes k.fn k.p k.count k.dt
def Coll.chunks (k : Coll) : Nat := collChunks k.fn k.p k.count k.dt k.chunk
/-- Bytes of one member's block, of `REDSC` and `ALLGATH`. -/
def Coll.block (k : Coll) : Nat := k.count * collSize k.dt

/-! ### Spans -/

/-- A stretch of bytes that a command reads or writes: of scratchpad, under their keys, or of memory. -/
structure Span where
  sp : Bool
  lo : Nat
  len : Nat
  wr : Bool
  deriving DecidableEq, Repr

/-- A stretch meets `n` bytes. -/
def Span.meets (a : Span) (sp : Bool) (lo n : Nat) : Bool := a.sp == sp && decide (a.lo < lo + n) && decide (lo < a.lo + a.len)

/-- The pages of `n` bytes at an address that a command can reach. -/
def State.memSpan (s : State) (c : Cmd) (wr : Bool) (va n : Nat) : List Span :=
  (pageRuns (n / 8192 + 2) va n).filterMap fun e =>
    match s.translate c.ctx (some c.launch) (if wr then 1 else 0) e.1 with
    | .ok pa _ => some ⟨false, pa, e.2, wr⟩
    | _ => none

/-- `n` bytes of the partition of a command's node, in every copy of a REDUNDANT one. -/
def State.partSpan (s : State) (c : Cmd) (wr : Bool) (off n : Nat) : List Span :=
  match find c.node s.nodes with
  | none => []
  | some nd => ((if nd.desc.red then nd.allUnits else [c.unit])).map fun u => ⟨true, spKey u (nd.partBase u + off), n, wr⟩

/-- What a collective reads and writes. -/
def State.collSpans (s : State) (c : Cmd) (k : Coll) : List Span :=
  let send := if k.fn = 2 then k.block
    else if k.fn = 3 then ((s.rdVirt c.ctx k.cnta (4 * k.p)).elim 0 fun bs => ((List.range k.p).map fun r => ofLe ((bs.drop (4 * r)).take 4)).sum) * 2 ^ k.rowlg
    else k.bytes
  let recv := if k.fn = 1 then k.block else if k.fn = 3 then 0 else k.bytes
  s.memSpan c false k.send send ++ s.memSpan c true k.recv recv ++ s.memSpan c true k.marka k.chunks ++ s.memSpan c true (k.comm + 16) 4
    ++ (if k.fn = 3 then s.memSpan c false k.cnta (4 * k.p) ++ s.memSpan c true k.dlva (4 * k.p) else [])

/-- The stretches that a command has still to read or write, but for its completion word. -/
def State.cmdSpans (s : State) (c : Cmd) : List Span :=
  match c.instr with
  | .cpy f =>
    (if bitAt f.x 0 then s.partSpan c true c.d c.b else s.memSpan c true c.d c.b)
      ++ (if c.ready then [] else if bitAt f.x 1 then s.partSpan c false c.a c.b else s.memSpan c false c.a c.b)
  | .dec _ => s.memSpan c false c.a (2 * c.b) ++ s.partSpan c true c.d (if c.table.length = 256 then c.b else ceilDiv c.b 2)
  | .gpool _ => s.partSpan c true (bitsAt c.block 224 32) (4 * bitsAt c.block 112 16 + 4)
  | .attn _ =>
    let heads := bitsAt c.block 52 4
    s.partSpan c true (bitsAt c.block 288 32) (4096 * heads) ++ s.partSpan c true (bitsAt c.block 256 32) (32 * heads)
      ++ if c.ready then [] else s.partSpan c false (bitsAt c.block 320 32) (4 * heads * bitsAt c.block 56 8)
  | _ => c.coll.elim [] (s.collSpans c)

/-- The command reads rows that it chooses as it runs. -/
def Cmd.readsRows (c : Cmd) : Bool := match c.instr with | .gpool _ => true | .attn _ => true | _ => false

/-- The tables in whose rows a command has still to read or write. -/
def Cmd.rowTables (c : Cmd) : List Nat :=
  match c.instr with
  | .cpy f => (if bitAt f.x 0 then [] else [c.d / 2 ^ 50]) ++ if c.ready || bitAt f.x 1 then [] else [c.a / 2 ^ 50]
  | .dec _ => [c.a / 2 ^ 50]
  | .gpool _ => [c.a]
  | .attn _ => [bitsAt c.block 0 14]
  | _ => c.coll.elim [] fun k => [k.send / 2 ^ 50, k.recv / 2 ^ 50]

/-- The commands under way that lanes of a warp have issued before a number, those of a saved node's queue among them. -/
def State.earlierCmds (s : State) (wk : Nat) (ls : List Nat) (id : Nat) : List Cmd :=
  (s.cmds ++ s.nodes.flatMap fun e => e.2.savedCmds).filter fun c => c.warp == wk && decide (c.id < id) && c.lanes.any ls.contains

/-- A write of `n` bytes by lanes of a warp under a number comes after what their earlier commands still read and write there (24 R435). Where a command
chooses its rows as it runs, every write to memory waits for it. -/
def State.behindCmds (s : State) (wk : Nat) (ls : List Nat) (id : Nat) (sp : Bool) (lo n : Nat) : Bool :=
  (s.earlierCmds wk ls id).any fun c => (c.code.isNone && (!sp && c.readsRows || (s.cmdSpans c).any fun a => a.meets sp lo n))
    || (!sp && decide (c.donePa < lo + n) && decide (lo < c.donePa + 8))

/-- A request that writes memory stands behind an earlier command of its lanes (24 R435). -/
def State.reqBehind (s : State) (r : Req) : Bool :=
  match r.kind with
  | .store _ bs => bs.any fun b => s.behindCmds r.who.warp r.lanes r.id false b.1 1
  | .atomic a => s.behindCmds r.who.warp r.lanes r.id false a.pa a.size
  | .table t => (match t.instr with | .kins _ => true | .kpfxi _ => true | _ => false)
      && t.lanes.any fun l => (s.earlierCmds r.who.warp r.lanes r.id).any fun c => c.code.isNone && c.rowTables.contains l.tbl

/-- A write of an earlier request of the command's lanes, or an access of an earlier command of theirs, to bytes that the command writes has not been
performed: the command begins after it (24 R435). -/
def State.cmdBehind (s : State) (c : Cmd) : Bool :=
  let ws := (s.cmdSpans c).filter (·.wr)
  let mine (r : Req) : Bool := r.who.warp == c.warp && decide (r.id < c.id) && r.lanes.any c.lanes.contains
  let hits (r : Req) : Bool := match r.kind with
    | .store _ bs => bs.any fun b => ws.any fun a => a.meets false b.1 1
    | .atomic q => ws.any fun a => a.meets false q.pa q.size
    | .table t => (match t.instr with | .kins _ => true | .kpfxi _ => true | _ => false) && t.lanes.any fun l => c.rowTables.contains l.tbl
  ((s.inFlight ++ s.buffered).any fun r => mine r && hits r)
    || (s.earlierCmds c.warp c.lanes c.id).any fun q => q.code.isNone
      && (ws.any fun a => !a.sp && q.readsRows || (s.cmdSpans q).any fun b => a.meets b.sp b.lo b.len)

namespace Issue

/-- A lane's write to scratchpad stands behind an earlier command of its own (24 R435). -/
def spBehind (x : Issue) (n : Nat) (d : Nat → Int) : Bool :=
  !x.s.cmds.isEmpty && x.ex.any fun l =>
    match spPlace x (spOff x l (d l)) n with
    | some (u, off) => x.s.behindCmds x.wk [l] x.s.nextId true (spKey u off) n
    | none => false

/-- An earlier command of these lanes still reads or writes the partition. -/
def partBusy (x : Issue) (ls : List Nat) : Bool :=
  (x.s.earlierCmds x.wk ls x.s.nextId).any fun c => c.code.isNone && (x.s.cmdSpans c).any (·.sp)

end Issue

end Sys2Proof.Machine
end

