-- ==== Sys2Proof/Machine/Stall.lean ====
section
/-! DEFINITION. The stalls that an instruction's own entry states (17 R341), and the issue of an instruction: where it is
stalled it waits, otherwise its effect happens. -/

namespace Sys2Proof.Machine

/-- The level that a CSR number requires (16 R311). -/
def csrLevel (n : Nat) : Nat := if 0x200 ≤ n then 2 else if 0x100 ≤ n then 1 else 0

/-- The table or sequence operation only releases, or orders nothing (10 R258). -/
def tabRelaxed : Instr → Bool
  | .tinfo _ => true | .kclose _ => true | .kdel _ => true | .sqcmt _ => true | .sqabn _ => true | .sqdrop _ => true
  | _ => false

/-- The request acquires, or is ordered before every later access of its lanes (05 R124, R133; 10 R258). -/
def Req.acquires (r : Req) : Bool :=
  match r.kind with
  | .store _ _ => false
  | .atomic a => a.acq
  | .table t => !tabRelaxed t.instr

namespace Issue

/-- The order carries a release (05 R121). -/
def relOrd (o : Order) : Bool := o == .rel || o == .ar || o == .sc

/-- An atomic of these lanes is still outstanding: their later reads wait for it (05 R118). -/
def atomicOut (x : Issue) (ls : List Nat) : Bool :=
  (x.s.held ++ x.s.atomQ).any fun r =>
    r.who.warp == x.wk && ls.contains r.who.lane && (match r.kind with | .atomic _ => true | _ => false)

/-- A request of these lanes to a device or strongly ordered page is still in the core, in a compare buffer perhaps (05 R136, 19 R440). -/
def devOut (x : Issue) (ls : List Nat) : Bool := (x.s.held ++ x.s.buffered).any fun r => r.dev && x.owns ls r

/-- Full/empty loads of these lanes whose granule's bit has not served them (09 R223). -/
def fePending (x : Issue) (ls : List Nat) : Bool :=
  x.s.fePend.any fun p => p.got.isNone && p.who.warp == x.wk && ls.contains p.who.lane

/-- A request of these lanes that acquires, or comes before every later access of its lane, has not been performed (05 R124, R133; 10 R258). -/
def acqReqOut (x : Issue) (ls : List Nat) : Bool := (x.s.inFlight ++ x.s.buffered).any fun r => r.acquires && x.owns ls r

/-- An acquiring read of these lanes has not been performed: no later access of theirs is, before it (05 R124 case 1, R135). -/
def acqOut (x : Issue) (ls : List Nat) : Bool := x.fePending ls || x.acqReqOut ls

/-- What an access that is performed at its issue waits for: acquiring reads, and accesses to strongly ordered pages (05 R136). -/
def accessWaits (x : Issue) (ls : List Nat) : Bool := x.acqOut ls || x.devOut ls

/-- What a request that leaves the core behind the lanes' earlier ones waits for (05 R137, 10 R259). -/
def sendWaits (x : Issue) (ls : List Nat) : Bool := x.fePending ls

/-- What a release waits for: every earlier access of the lanes (05 R124 case 2, R137). -/
def releaseWaits (x : Issue) (ls : List Nat) : Bool := x.outstanding ls || x.fePending ls

/-- What a read of memory of these lanes waits for: as any access, and for their own atomics (05 R118); with order SC for all their requests
(R128). -/
def loadWaits (x : Issue) (o : Order) (ls : List Nat) : Bool :=
  x.accessWaits ls || x.atomicOut ls || (o == .sc && x.outstanding ls)

/-- What an `LDS` waits for; one with a full/empty qualifier may stand behind the lane's earlier ones (09 R222–R224). -/
def ldsWaits (x : Issue) (f : MemF) : Bool :=
  (if f.fe = .plain then x.accessWaits x.ex else x.acqReqOut x.ex || x.devOut x.ex) || (f.ord == .sc && x.outstanding x.ex)

/-- What an `STS` waits for: with a release order or `SF` it is a release (05 R135, 09 R222); its bytes follow what the lanes' commands do with them
(24 R435). `d` is the displacement. -/
def stsWaits (x : Issue) (f : MemF) (d : Nat → Int) : Bool :=
  x.accessWaits x.ex || ((relOrd f.ord || f.fe != .plain) && x.releaseWaits x.ex) || x.spBehind f.sz.bytes d

/-- Commands of the unit that have not left its queue (12 R286). -/
def queueFull (x : Issue) : Bool :=
  decide (Config.cmdQueue ≤ (x.s.cmds.filter fun c => c.unit == x.w.unit && !c.started).length)

/-- A command waits for a place in the queue and for what an access of an issuing lane waits for, and an acquiring one for all their held
stores (05 R134, R137). -/
def cmdWaits (x : Issue) (acq : Bool) : Bool :=
  x.once && (x.queueFull || x.accessWaits x.act || (acq && x.outstanding x.act))

/-- A collective also reads memory at its issue, after the elected lane's atomics (05 R118, 22 R417). -/
def collWaits (x : Issue) (acq : Bool) : Bool := x.cmdWaits acq || (x.once && x.atomicOut [x.elected])

/-- Tile instructions of this warp that are not complete (04 R98). -/
def tilesOut (x : Issue) : Bool := x.s.tileQ.any fun t => t.warp == x.wk

/-- Tile instructions of this node on this core that are not complete: a `TST`, which reads its tile at issue, waits for
them (11 R265). -/
def tilesHere (x : Issue) : Bool := x.s.tileQ.any fun t => t.node == x.nk && t.unit == x.w.unit

/-- What a `TLD` or `TST` waits for as an access of the elected lane (05 R118, R128, R136); full/empty loads of the active path come before an
`SP` form (11 R269). -/
def tileAccess (x : Issue) (f : TileF) : Bool :=
  if f.sp then x.accessWaits [x.elected] || x.fePending x.act else x.loadWaits f.ord [x.elected]

/-- The reads at issue of a tile instruction follow the elected lane's acquires and scratchpad accesses (14 R306), those of a block `FCVT` those of
every executing lane (08 R215). -/
def readsWait (x : Issue) : Bool := x.once && x.accessWaits (x.elected :: x.ex)

/-- A named sequencer of the core is not idle (01 R38). -/
def seqBusy (x : Issue) (sel : Nat) : Bool :=
  x.s.warps.any fun e => e.2.unit == x.w.unit && (match e.2.role with | .seq k _ => bitAt sel k | _ => false)

/-- An open fork whose sequencers have not all met at `ERDV` (01 R40), or whose tile instructions are not complete. -/
def forkOpen (x : Issue) : Bool :=
  match x.w.fork with
  | none => false
  | some k => k.fail.isNone && (k.seqs.any fun q =>
      (match find q x.s.warps with | some w => !w.atErdv | none => false) || x.s.tileQ.any fun t => t.warp == q)

/-- A `DEC` of this node on this core still uses the generation four below the next one (12 R291). -/
def decBusy (x : Issue) : Bool :=
  let g := ((find x.w.unit x.n.decomp).getD {}).gen
  x.s.cmds.any fun c => c.node == x.nk && c.unit == x.w.unit && c.gen == (g + 65533) % 65536
    && (match c.instr with | .dec _ => true | _ => false)

/-- Commands that a sequencer issued and that have not completed (09 R230). -/
def seqCmdsOut (x : Issue) : Bool := x.w.isSeq && x.s.cmds.any fun c => c.warp == x.wk

/-- A table or sequence request of these lanes has not been performed. -/
def tableOut (x : Issue) (ls : List Nat) : Bool :=
  (x.s.inFlight ++ x.s.buffered).any fun r => (match r.kind with | .table _ => true | _ => false) && x.owns ls r

/-- What a `FENCE` waits for in the executing lanes (09 R230, 05 R124 case 4): their reads; with order REL, AR or SC everything, and in a sequencer
its commands. -/
def fenceWaits (x : Issue) (o : Order) : Bool :=
  x.once && (x.fePending x.ex || x.atomicOut x.ex || x.tableOut x.ex || (relOrd o && (x.releaseWaits x.ex || x.seqCmdsOut)))

/-- A register waits for a request's result. -/
def replyOut (x : Issue) : Bool := x.w.pend.any fun p => p.req != 0

/-- What the instruction's entry, or the order of its accesses, makes it wait for. -/
def waits (x : Issue) : Bool :=
  match x.i with
  | .ld8 f => x.loadWaits f.ord x.ex
  | .ld12 f => x.loadWaits f.ord x.ex
  | .ldg f => x.loadWaits f.ord x.ex
  | .poll f => x.loadWaits f.ord x.ex
  | .cwait _ => x.loadWaits .acq x.ex
  | .tjoin _ => x.loadWaits .acq x.ex
  | .st8 _ => x.sendWaits x.ex
  | .st12 _ => x.sendWaits x.ex
  | .sct _ => x.sendWaits x.ex
  | .atom f => x.sendWaits x.ex || (f.ord == .sc && x.outstanding x.ex)
  | .atomCas f => x.sendWaits x.ex || (f.ord == .sc && x.outstanding x.ex)
  | .red8 _ => x.sendWaits x.ex
  | .red12 _ => x.sendWaits x.ex
  | .fence f => x.fenceWaits f.ord
  | .lds8 f => x.ldsWaits f
  | .lds12 f => x.ldsWaits f
  | .sts8 f => x.stsWaits f (dispB x)
  | .sts12 f => x.stsWaits f fun _ => f.imm.toInt
  | .femSet8 _ => x.accessWaits x.ex || x.releaseWaits x.ex
  | .femSet12 _ => x.accessWaits x.ex || x.releaseWaits x.ex
  | .femClr8 _ => x.accessWaits x.ex
  | .femClr12 _ => x.accessWaits x.ex
  | .femTest8 _ => x.accessWaits x.ex
  | .femTest12 _ => x.accessWaits x.ex
  | .kget _ => x.sendWaits x.ex
  | .kins f => x.sendWaits x.ex || (f.img && x.accessWaits x.ex)
  | .kdel _ => x.sendWaits x.ex
  | .kseek _ => x.sendWaits x.ex
  | .knext _ => x.sendWaits x.ex
  | .kprev _ => x.sendWaits x.ex
  | .kpfx _ => x.accessWaits x.ex
  | .kpfxi _ => x.accessWaits x.ex
  | .krecl _ => x.sendWaits x.ex
  | .kmig _ => x.sendWaits x.ex
  | .sqres _ => x.sendWaits x.ex
  | .sqcmt _ => x.sendWaits x.ex
  | .sqabn _ => x.sendWaits x.ex
  | .sqlen _ => x.sendWaits x.ex
  | .sqwait _ => x.sendWaits x.ex
  | .sqfork _ => x.sendWaits x.ex
  | .sqdrop _ => x.sendWaits x.ex
  | .sqloc _ => x.sendWaits x.ex
  | .tinfo _ => x.sendWaits x.ex
  | .kclose _ => x.sendWaits x.ex
  | .bar _ _ => x.releaseWaits x.ex
  | .efork f => x.once && x.w.fork.isNone && (x.seqBusy f.x || x.releaseWaits x.act)
  | .tfork _ => x.releaseWaits x.ex
  | .dtld _ => x.once && (x.decBusy || x.accessWaits [x.elected])
  | .cpy f => x.cmdWaits f.acq
  | .dec f => x.cmdWaits f.acq
  | .gpool f => x.cmdWaits f.acq
  | .attn f => x.cmdWaits f.acq
  | .collAllred f => x.collWaits f.acq
  | .collRedsc f => x.collWaits f.acq
  | .collAllgath f => x.collWaits f.acq
  | .collAtoa f => x.collWaits f.acq
  | .tld f => x.once && x.tileAccess f
  | .tst f => x.once && (x.tilesHere || x.tileAccess f || (f.sp && x.partBusy [x.elected]))
  | .mma _ => x.readsWait
  | .mmas _ => x.readsWait
  | .tcomp _ => x.readsWait
  | .tqnt _ => x.readsWait
  | .tdq _ => x.readsWait
  | .tscl _ => x.readsWait
  | .fcvtBlock _ => x.readsWait
  | .csrr f => f.csrn == 0x028 && x.tilesOut
  | .rbeg _ => x.red && x.replyOut
  | .eretRetry _ => x.releaseWaits x.ex
  | .eretSkip _ => x.releaseWaits x.ex
  | .eretKill _ => x.releaseWaits x.ex
  | .tlbiCtx _ => x.once && x.releaseWaits [x.elected]
  | .tlbiTbl _ => x.once && x.releaseWaits [x.elected]
  | .tlbiVa _ => x.once && x.releaseWaits [x.elected]
  | .tlbiS2 _ => x.once && x.releaseWaits [x.elected]
  | .cinvLine8 _ => x.once && x.releaseWaits [x.elected]
  | .cinvLine12 _ => x.once && x.releaseWaits [x.elected]
  | .cinvAll _ => x.once && x.releaseWaits [x.elected]
  | .cwbLine8 _ => x.once && x.releaseWaits [x.elected]
  | .cwbLine12 _ => x.once && x.releaseWaits [x.elected]
  | .cwbAll _ => x.once && x.releaseWaits [x.elected]
  | .smcall _ => x.once && x.releaseWaits x.act
  | .ctxs _ => x.once && x.sendWaits x.act
  | .ctxl _ => x.once && x.sendWaits x.act
  | _ => false

/-! ### Privilege -/

/-- The lowest level that may execute a system instruction (02 R57, R58). -/
def levelOf : Instr → Nat
  | .eretRetry _ => 1 | .eretSkip _ => 1 | .eretKill _ => 1
  | .tlbiCtx _ => 1 | .tlbiTbl _ => 1 | .tlbiVa _ => 1 | .tlbiS2 _ => 2
  | .smcall _ => 1
  | .cinvLine8 _ => 1 | .cinvLine12 _ => 1 | .cinvAll _ => 1
  | .cwbLine8 _ => 1 | .cwbLine12 _ => 1 | .cwbAll _ => 1
  | .ctxs _ => 2 | .ctxl _ => 2 | .kmig _ => 2 | .inj _ => 2
  | _ => 0

/-- The CSR that an instruction names. -/
def csrOf : Instr → Option Nat
  | .csrr f => some f.csrn | .csrw f => some f.csrn | .csrwSet f => some f.csrn | .csrwClr f => some f.csrn
  | .parkceilWrite f => some f.csrn
  | _ => none

/-- The privilege check, which follows the checks of decoding (02 R58): cause PRIV, subcode SYSINS or LEVEL, for the executing lanes. -/
def denied (x : Issue) : Option (Nat × Nat) :=
  if !x.once then none
  else if x.lvl < levelOf x.i then some (0x0B, 3)
  else match csrOf x.i with
    | some n => if x.lvl < csrLevel n then some (0x0B, 2) else none
    | none => none

/-- The instruction reads a register or a tile of which a granule is poisoned (19 R375). -/
def readsPoison (x : Issue) (p : Pred) : Bool :=
  x.s.poison.any fun e => match e with
    | .reg w c n g =>
      let same (r : Nat) : Bool := if c = 0 then r == n else if c = 1 then r / 2 == n / 2 else r / 4 == n / 4
      w == x.wk && ((c == 2 && p.pm != 12 && same p.pm)
        || (x.once && (c != 0 || x.doers.any fun l => l / 4 == g)
          && x.i.opnds.any fun o => o.rd && (regsOf x.w.isSeq o).any fun r => r.1 == c && same r.2))
    | .tile k core t _ =>
      k == x.nk && core == x.n.coreIdx x.w.unit && x.once && x.i.opnds.any fun o => o.rd && o.cls == .t && o.num == t
    | _ => false

/-- A `v` register written in all four lanes of a granule is poisoned no more (19 R375). -/
def clearPoison (x : Issue) : Issue :=
  if x.s.poison.isEmpty then x
  else
    let ls := x.doers.filter fun l => !(x.traps.any fun e => e.1 == l) && !(x.parks.any fun e => e.1 == l)
    let gone (e : PoisonLoc) : Bool := match e with
      | .reg w 0 n g => w == x.wk && ([0, 1, 2, 3].all fun k => ls.contains (4 * g + k))
          && x.i.opnds.any fun o => o.wr && (regsOf x.w.isSeq o).contains (0, n)
      | _ => false
    { x with s := { x.s with poison := x.s.poison.filter fun e => !gone e } }

end Issue

/-- The issue of an instruction is held back (17 R341). -/
def Issue.held (x : Issue) : Bool :=
  x.stalled || x.waits || (!x.ports.isEmpty && x.once && x.releaseWaits x.doers)

/-- End an issue: in a REDUNDANT node it is one of a copy (12 R303). -/
def Issue.close (x : Issue) (s : State) (y : Issue) (post : Issue → State → State) : State :=
  if x.red then redFinish s x y post else post y y.finish

/-- Issue an instruction (01 R25): where the scoreboard or fetch holds it back nothing changes; below its level it traps (02 R58); where it is held
back otherwise nothing changes; a port without a channel, or a cast without consumers, traps its lanes (01 R42, R43); a poisoned operand kills the
node (19 R375); otherwise `body` is its effect, and `post` what the device does with the outcome once the warp is back in it. DESIGN CHOICE (log entry 101):
the queue ports are read before `body`, so an entry stays popped where `body` traps the whole active path, as a block `FCVT` does with FMTDIV (08 R211). -/
def State.issueThen (s : State) (i : Instr) (p : Pred) (body : Issue → Issue) (post : Issue → State → State) :
    Host.Outcome State Fault Refusal :=
  match s.start i p with
  | none => .fault .noIssuer
  | some x =>
    if x.blocked then .next s
    else match x.denied with
      | some (c, b) => .next (x.close s (x.trapLanes x.ex c b) fun _ t => t)
      | none =>
        if x.held then .next s
        else if x.once && x.unbound then .next (x.close s (x.trapLanes x.doers 6 1) fun _ t => t)
        else if x.readsPoison p then .next ({ x with kill := some (0x12, 0, 0) } : Issue).finish
        else
          let y := (body x.takePorts).clearPoison
          if y.wait then .next s else .next (x.close s y post)

/-- Issue an instruction whose effect ends with the issue. -/
def State.issue (s : State) (i : Instr) (p : Pred) (body : Issue → Issue) : Host.Outcome State Fault Refusal :=
  s.issueThen i p body fun _ t => t

end Sys2Proof.Machine
end

