-- ==== Sys2Proof/Machine/Flags.lean ====
section
/-! DEFINITION. The sticky flags (04 R97) and the integer results that set them (07 R181–R187): each function answers a
result of `w` bits and the flags it raises. -/

namespace Sys2Proof.Machine

/-- The bits of FFLAGS (04 R97). -/
def fNV : Nat := 1
def fDZ : Nat := 2
def fOF : Nat := 4
def fUF : Nat := 8
def fNX : Nat := 16
def fSAT : Nat := 32

/-- Fit an exact integer to `w` bits (07 R181). -/
def fit (ov : Ov) (w : Nat) (t : Int) : Nat × Nat :=
  match ov with
  | .wrap => (wrapInt w t, 0)
  | .sat =>
    if t < -(2 ^ (w - 1) : Nat) then (wrapInt w (-(2 ^ (w - 1) : Nat)), fSAT)
    else if (2 ^ (w - 1) : Nat) - 1 < t then (2 ^ (w - 1) - 1, fSAT)
    else (wrapInt w t, 0)
  | .usat =>
    if t < 0 then (0, fSAT) else if (2 ^ w : Nat) - 1 < t then (2 ^ w - 1, fSAT) else (wrapInt w t, 0)

/-- The value of an operand of the arithmetic instructions: unsigned under USAT, otherwise signed (07 R181). -/
def arithVal (ov : Ov) (w a : Nat) : Int := if ov = .usat then (a : Int) else sxInt w a

/-- The value of an operand that `UNS` makes unsigned. -/
def unsVal (uns : Bool) (w a : Nat) : Int := if uns then (a : Int) else sxInt w a

/-- The high half of the exact product (07 R182). -/
def mulHigh (uns : Bool) (w a b : Nat) : Nat :=
  wrapInt w (Int.fdiv (unsVal uns w a * unsVal uns w b) (2 ^ w : Nat))

/-- Quotient and remainder, with DZ for a divisor of 0 (07 R182). -/
def divQuot (uns : Bool) (w a b : Nat) : Nat × Nat :=
  if b = 0 then (2 ^ w - 1, fDZ) else (wrapInt w (Int.tdiv (unsVal uns w a) (unsVal uns w b)), 0)
def divRem (uns : Bool) (w a b : Nat) : Nat × Nat :=
  if b = 0 then (a, fDZ) else (wrapInt w (Int.tmod (unsVal uns w a) (unsVal uns w b)), 0)

def minOf (uns : Bool) (w a b : Nat) : Nat := if unsVal uns w a ≤ unsVal uns w b then a else b
def maxOf (uns : Bool) (w a b : Nat) : Nat := if unsVal uns w a ≤ unsVal uns w b then b else a

/-- The absolute value (07 R183). -/
def absOf (sat : Bool) (w a : Nat) : Nat × Nat :=
  if a = 2 ^ (w - 1) then (if sat then (2 ^ (w - 1) - 1, fSAT) else (a, 0))
  else ((sxInt w a).natAbs, 0)

/-- Shifts and rotation; the count is taken modulo 256 (07 R184). -/
def shiftL (w a n : Nat) : Nat := let n := n % 256; if w ≤ n then 0 else a * 2 ^ n % 2 ^ w
def shiftR (w a n : Nat) : Nat := let n := n % 256; if w ≤ n then 0 else a / 2 ^ n
def shiftRA (w a n : Nat) : Nat := wrapInt w (Int.fdiv (sxInt w a) (2 ^ (n % 256) : Nat))
def rotL (w a n : Nat) : Nat := let n := n % 256 % w; (a * 2 ^ n + a / 2 ^ (w - n)) % 2 ^ w

/-- The bitwise function `fn` of three operands (07 R185). -/
def boolFn (fn : Nat) : Nat → Nat → Nat → Nat → Nat
  | 0, _, _, _ => 0
  | n + 1, a, b, c =>
    flagNat (bitAt fn (a % 2 + 2 * (b % 2) + 4 * (c % 2))) + 2 * boolFn fn n (a / 2) (b / 2) (c / 2)

/-- Leading zeros of `w` bits (07 R186). -/
def leadZeros (w a : Nat) : Nat := if a = 0 then w else w - (a.log2 + 1)
/-- The `w` bits in reverse order (07 R186). -/
def revBits : Nat → Nat → Nat
  | 0, _ => 0
  | n + 1, a => a % 2 * 2 ^ n + revBits n (a / 2)

/-- Position and effective length of a bit field (07 R186). -/
def fieldPos (b : Nat) : Nat := b % 256
def fieldLen (w b : Nat) : Nat := min (b / 256 % 256) (w - b % 256)
/-- `BFX` (07 R186). -/
def bitExtract (uns : Bool) (w a b : Nat) : Nat :=
  let n := fieldLen w b
  if n = 0 then 0
  else
    let f := a / 2 ^ fieldPos b % 2 ^ n
    if uns then f else wrapInt w (sxInt n f)
/-- `BFI` (07 R186). -/
def bitInsert (w a b c : Nat) : Nat :=
  let n := fieldLen w b
  let p := fieldPos b
  if n = 0 then c else c % 2 ^ p + a % 2 ^ n * 2 ^ p + c / 2 ^ (p + n) * 2 ^ (p + n)

/-- The outcome of `ICMP` under its FN (07 R187). -/
def intCompare (fn w a b : Nat) : Bool :=
  match fn with
  | 0 => a == b
  | 1 => a != b
  | 2 => decide (sxInt w a < sxInt w b)
  | 3 => decide (sxInt w a ≤ sxInt w b)
  | 4 => decide (sxInt w b < sxInt w a)
  | 5 => decide (sxInt w b ≤ sxInt w a)
  | 6 => decide (a < b)
  | 7 => decide (a ≤ b)
  | 8 => decide (b < a)
  | _ => decide (b ≤ a)

/-- The operator of `REDW` under its FN (07 R194), as a step of a fold. -/
def reduceOp (fn w a b : Nat) : Nat :=
  match fn with
  | 0 => (a + b) % 2 ^ w
  | 1 => minOf false w a b
  | 2 => maxOf false w a b
  | 3 => minOf true w a b
  | 4 => maxOf true w a b
  | 5 => a &&& b
  | 6 => a ||| b
  | _ => a ^^^ b

end Sys2Proof.Machine
end

