-- ==== Sys2Proof/Machine/Operands.lean ====
section
/-! DEFINITION. The operand forms of the classes: what an instruction reads as A, B and C, and the ways its results are
written (07 R180, 08 R202, 02 R53). -/

namespace Sys2Proof.Machine

/-- Operation width (07 R180). -/
def IntF.width (f : IntF) : Nat := if f.w then 64 else 32

namespace Issue

/-- A or C of an integer instruction in a lane: the low `w` bits (07 R180). -/
def intVal (x : Issue) (f : IntF) (k l : Nat) : Nat := x.val k l % 2 ^ IntF.width f

/-- IMM32 sign-extended to the width (07 R180). -/
def immVal (f : IntF) : Nat := wrapInt (IntF.width f) f.imm.toInt

/-- A count, position or lane operand: 32 bits (07 R180). -/
def narrowVal (x : Issue) (l : Nat) : Nat := x.val 2 l % 2 ^ 32

/-- Write operand 0 with a result and its flags: once with U = 1, to the lowest executing lane's flags (02 R53), otherwise
in each executing lane. -/
def eachLane (x : Issue) (u : Bool) (ls : List Nat) (op : Nat → Nat × Nat) : Issue :=
  if u then
    match ls with
    | [] => x
    | l :: _ => (x.set 0 0 (op l).1).flag l (op l).2
  else ls.foldl (fun y l => (y.set 0 l (op l).1).flag l (op l).2) x

/-- Set the bit of each listed lane in mask `m` to an outcome; other bits stay (07 R187). -/
def setMaskBits (x : Issue) (m : Nat) (ls : List Nat) (p : Nat → Bool) : Issue :=
  let old := x.w.mreg m
  let keep := allLanes.filter fun l => !ls.contains l && bitAt old l
  { x with w := x.w.setM m (maskOf (keep ++ ls.filter p)) }

/-- A comparison's outcome: the mask bits of the executing lanes, or `s`D with U = 1 (07 R187, 08 R205). -/
def compareOut (x : Issue) (u : Bool) (d : Nat) (p : Nat → Bool) : Issue :=
  if u then
    match x.ex with
    | [] => x
    | l :: _ => { x with w := x.w.setS d (flagNat (p l)) }
  else if x.ex.isEmpty then x else x.setMaskBits d x.ex p

end Issue

end Sys2Proof.Machine
end

