-- ==== Sys2Proof/Machine/Control.lean ====
section
/-! DEFINITION. The control class and the CSR accesses (07 R165–R177, R195–R197; 16 R311–R313) and the
retirement of a warp (01 R37, R44). -/

namespace Sys2Proof.Machine

open Issue

/-! ### Retirement -/

/-- Close the cursors that a lane opened (07 R169, 10 R247). -/
def Table.closeLane (t : Table) (wk lane : Nat) : Table :=
  { t with cursors := t.cursors.map fun c => if c.open_ ∧ c.warp = wk ∧ c.lane = lane then { c with open_ := false } else c }

def State.closeCursors (s : State) (ck wk : Nat) (ls : List Nat) : State :=
  let c := s.ctx ck
  s.setCtx ck { c with tables := c.tables.map fun e => (e.1, ls.foldl (fun t l => t.closeLane wk l) e.2) }

/-- A warp retires when every launched lane has exited (01 R44): its record goes, a task's counter falls by one through an atomic
that follows all the warp's requests (01 R37), a fork that it leaves open stays open (R44), and barriers are tried again. -/
def State.retireWarp (s : State) (wk : Nat) : State :=
  match find wk s.warps with
  | none => s
  | some w =>
    if w.lanes.all fun y => y.st == .exited || y.st == .never then
      let s := { s with warps := erase wk s.warps }
      let s := if w.fork.isSome then { s with nodes := adjust w.node (fun n => { n with openForks := n.openForks + 1 }) s.nodes } else s
      let s := match w.role with
        | .task pa tag home =>
          let ck := (find w.node s.nodes).elim 0 fun n => n.ctx
          let r : Req := { id := s.nextId, who := ⟨wk, 32⟩, ctx := ck, node := w.node, unit := w.unit, issued := s.clock w.unit
                           hold := if (s.ctx ck).hold then Config.holdCycles else 0
                           kind := .atomic { pa := pa, tag := tag, home := home, size := 8, op := 1, b := 1, c := 0, d := none } }
          { s with held := s.held ++ [r], nextId := s.nextId + 1 }
        | _ => s
      match find w.node s.nodes with
      | some n => s.tryBarriers n.launch
      | none => s
    else s

/-! ### Control instructions -/

/-- `PAD` (02 R47): an issue that does nothing else. -/
def execPad (s : State) : Host.Outcome State Fault Refusal := s.issue .pad ⟨12, false⟩ fun x => x

/-- `NOP` (R177). -/
def execNop (p : Pred) (s : State) : Host.Outcome State Fault Refusal := s.issue (.nop p) p fun x => x

/-- The target of a displacement form (07 R166, R167). -/
def dispTarget (x : Issue) (d : W32) : Nat := ((x.at_ : Int) + d.toInt).toNat

/-- `BRA` (R166), per lane: executing lanes branch. -/
def execBra (p : Pred) (disp : W32) (s : State) : Host.Outcome State Fault Refusal :=
  s.issue (.bra p disp) p fun x => x.ex.foldl (fun y l => y.setPc l (dispTarget x disp)) x

/-- The uniform branch (R166): the whole active path moves where the predicate holds in some lane and the register
decides so. -/
def braUniform (x : Issue) (take : Bool) (disp : W32) : Issue :=
  if x.once && take then x.act.foldl (fun y l => y.setPc l (dispTarget x disp)) x else x

/-- `BRA.NZ` (R166). -/
def execBraNz (p : Pred) (a : Nat) (disp : W32) (s : State) : Host.Outcome State Fault Refusal :=
  s.issue (.braNz p a disp) p fun x => braUniform x (x.w.sreg a != 0) disp

/-- `BRA.Z` (R166). -/
def execBraZ (p : Pred) (a : Nat) (disp : W32) (s : State) : Host.Outcome State Fault Refusal :=
  s.issue (.braZ p a disp) p fun x => braUniform x (x.w.sreg a == 0) disp

/-- Transfer one executing lane to a target, with the return address in operand `k` where the form links (R167). -/
def jump (x y : Issue) (l t : Nat) (link : Option Nat) : Issue :=
  if t % 4 != 0 then y.trap l 2 3
  else
    let y := match link with | some k => y.set k l (x.at_ + x.i.len) | none => y
    y.setPc l t

/-- `BRX` (R167). -/
def execBrx (p : Pred) (a : Nat) (s : State) : Host.Outcome State Fault Refusal :=
  s.issue (.brx p a) p fun x => x.ex.foldl (fun y l => jump x y l (x.val 0 l % 2 ^ 32) none) x

/-- `CALL` (R167). -/
def execCall (p : Pred) (d : Nat) (disp : W32) (s : State) : Host.Outcome State Fault Refusal :=
  s.issue (.call p d disp) p fun x => x.ex.foldl (fun y l => jump x y l (dispTarget x disp) (some 0)) x

/-- `CALLX` (R167): `v`A is read before `v`D is written. -/
def execCallx (p : Pred) (d a : Nat) (s : State) : Host.Outcome State Fault Refusal :=
  s.issue (.callx p d a) p fun x => x.ex.foldl (fun y l => jump x y l (x.val 1 l % 2 ^ 32) (some 0)) x

/-- `RET` (R167): as `BRX`. -/
def execRet (p : Pred) (a : Nat) (s : State) : Host.Outcome State Fault Refusal :=
  s.issue (.ret p a) p fun x => x.ex.foldl (fun y l => jump x y l (x.val 0 l % 2 ^ 32) none) x

/-- Make lanes Exited and clear their bits in every mask (R169, 01 R29). -/
def exitLanes (x : Issue) (ls : List Nat) : Issue :=
  let gone := maskOf ls
  let w := x.w.onLanes (fun l => ls.contains l) fun y => { y with st := .exited, wait := .none }
  let w := (List.range 12).foldl (fun (w : Warp) m => w.setM m (w.mreg m &&& (2 ^ 32 - 1 - gone))) w
  { x with w := w.dissolve }

/-- What the device does after an `EXIT`: cursors close, and the warp retires with its last lane. -/
def afterExit (x : Issue) (t : State) : State :=
  ((t.closeCursors x.n.ctx x.wk x.ex).retireWarp x.wk).tryBarriers x.n.launch

/-- Flips pending for lanes that exit are discarded (20 R394). -/
def dropFlips (x : Issue) : Issue :=
  { x with n := { x.n with flips := x.n.flips.filter fun f =>
      !(f.pending && f.warp == x.w.idx && f.copy == x.w.copy && x.ex.contains (bitsAt f.sel 12 5)) } }

/-- `EXIT` (R169): the executing lanes end, their cursors close, and the warp retires with its last lane. Within a redundant
region it acts as `REND` first (12 R303). -/
def execExit (p : Pred) (s : State) : Host.Outcome State Fault Refusal :=
  let plain := s.issueThen (.exit p) p (fun x => exitLanes (dropFlips x) x.ex) afterExit
  match s.start (.exit p) p with
  | none => plain
  | some x =>
    if x.inRegion && x.once && !x.held then
      .next (s.meetAt x .exit fun y =>
        let y := exitLanes (dropFlips (y.setCopy fun c => { c with open_ := false })) y.ex
        afterExit y y.finish)
    else plain

/-- `JOIN` (R170, 01 R29). -/
def execJoin (p : Pred) (d : Nat) (s : State) : Host.Outcome State Fault Refusal :=
  s.issue (.join p d) p fun x => { x with w := x.w.setM d (x.w.mreg d ||| maskOf x.ex) }

/-- `LEAVE` (R170, 01 R29). -/
def execLeave (p : Pred) (d : Nat) (s : State) : Host.Outcome State Fault Refusal :=
  s.issue (.leave p d) p fun x => { x with w := x.w.setM d (x.w.mreg d &&& (2 ^ 32 - 1 - maskOf x.ex)) }

/-- `WAITM` (R170, 01 R30): executing lanes whose bit is set wait on the mask; the end of the issue evaluates it. -/
def execWaitm (p : Pred) (a : Nat) (s : State) : Host.Outcome State Fault Refusal :=
  s.issue (.waitm p a) p fun x =>
    let ls := x.ex.filter fun l => bitAt (x.w.mreg a) l
    { x with w := x.w.onLanes (fun l => ls.contains l) fun y => { y with st := .waiting, wait := .mask a } }

/-- The warp is a member of a group with the BAR flag (01 R23). -/
def usableGroup (x : Issue) (g : Nat) : Bool :=
  match x.launch.groups[g]?, x.w.role with
  | some gr, .warp => gr.bar && gr.members.contains (x.n.idx, x.w.idx)
  | _, _ => false

/-- `BAR` (R171, 01 R23). -/
def execBar (p : Pred) (g : Nat) (s : State) : Host.Outcome State Fault Refusal :=
  s.issueThen (.bar p g) p (fun x =>
    if usableGroup x g then
      { x with w := x.w.onLanes (fun l => x.ex.contains l) fun y => { y with st := .waiting, wait := .bar g } }
    else x.trapLanes x.ex 1 Illegal.group.code) fun x t => t.tryBarrier x.n.launch g

/-- `ELECT` (R172): the lowest executing lane's bit alone, or 0 where no lane executes, under the predicate that never holds too (log entry 85). -/
def execElect (p : Pred) (d : Nat) (s : State) : Host.Outcome State Fault Refusal :=
  s.issue (.elect p d) p fun x =>
    { x with w := x.w.setM d (maskOf (x.ex.take 1)) }

/-- `YIELD` (R173): with REQ set the warp stops, and its pending full/empty loads are cancelled (17 R343). -/
def execYield (p : Pred) (s : State) : Host.Outcome State Fault Refusal :=
  s.issue (.yield p) p fun x =>
    if x.once && x.w.preq then { x with w := { (x.w.cancelFe (x.s.feOf x.wk)) with stop := .yield }, s := x.s.dropFe x.wk } else x

/-- `TRAP.C`n (R174). -/
def execTrap (p : Pred) (n : Nat) (s : State) : Host.Outcome State Fault Refusal :=
  s.issue (.trap p n) p fun x => x.trapLanes x.ex 9 n

/-- `BKPT.C`n (R174). -/
def execBkpt (p : Pred) (n : Nat) (s : State) : Host.Outcome State Fault Refusal :=
  s.issue (.bkpt p n) p fun x => x.trapLanes x.ex 10 n

/-- The length that the word at a code address gives (R175): 4 at or beyond the end of the code. -/
def codeLen (s : State) (lk : Nat) (l : Launch) (a : Nat) : Nat :=
  if l.codesz ≤ a then 4 else lenOfWord (memGet s.mem (codeBase lk + a)).toNat

/-- Return one executing lane from its handler (R175). -/
def uret (x y : Issue) (l : Nat) (skip : Bool) : Issue :=
  let ln := x.w.lane l
  let pc := ln.uepc.toNat
  if !ln.inHandler then y.trap l 11 1
  else if pc % 4 != 0 then y.trap l 2 3
  else
    let pc := if skip then pc + codeLen x.s x.n.launch x.launch pc else pc
    let fr := match x.w.frag ln.frag with | some g => if g.trap then g.parent else ln.frag | none => ln.frag
    { y with w := y.w.setLane l fun z => { z with pc := pc, inHandler := false, frag := fr } }

/-- The executing lanes return, and fragments left empty dissolve. -/
def uretAll (x : Issue) (skip : Bool) : Issue :=
  let y := x.ex.foldl (fun y l => uret x y l skip) x
  { y with w := y.w.dissolve }

/-- `URET.RETRY` (R175). -/
def execUretRetry (p : Pred) (s : State) : Host.Outcome State Fault Refusal :=
  s.issue (.uretRetry p) p fun x => uretAll x false

/-- `URET.SKIP` (R175). -/
def execUretSkip (p : Pred) (s : State) : Host.Outcome State Fault Refusal :=
  s.issue (.uretSkip p) p fun x => uretAll x true

/-- `TRMP` (R176): `v239` takes the return address and the lane moves. -/
def execTrmp (p : Pred) (slot : Nat) (disp : W32) (s : State) : Host.Outcome State Fault Refusal :=
  s.issue (.trmp p slot disp) p fun x => x.ex.foldl (fun y l =>
    { y with w := (y.w.setV 239 l (x.at_ + 12)).setLane l fun z => { z with pc := dispTarget x disp } }) x

/-! ### CSRs -/

/-- CSRs of scope lane (R196). -/
def csrPerLane (n : Nat) : Bool := [0x000, 0x019, 0x01A, 0x020, 0x021, 0x028].contains n

/-- The CSR `FRAG` of a lane (01 R34). -/
def csrFrag (w : Warp) (l : Nat) : Nat :=
  let f := (w.lane l).frag
  f + w.parentOf f * 2 ^ 8 + maskOf (w.fragLanes f) * 2 ^ 32

/-- The CSR `SIBM` of a lane (01 R34): lanes of fragments other than the root and its own. -/
def csrSibm (w : Warp) (l : Nat) : Nat :=
  maskOf ((w.frags.filter fun g => g.id != (w.lane l).frag).flatMap fun g => w.fragLanes g.id)

/-- `CORE`, `CLUSTER` and `DIE` of a unit (01 R11, R12). What `CLUSTER` reads on a pan unit is the model's choice: 0 (log entry 92). -/
def unitCore (u : Nat) : Nat := if u < Config.cores then u % 8 else (u - Config.cores) % 16
def unitCluster (u : Nat) : Nat := if u < Config.cores then u % 96 / 8 else 0
def unitDie (u : Nat) : Nat := if u < Config.cores then u / 96 else 8 + (u - Config.cores) / 16

/-- A CSR as a lane reads it (R196, R197; 16 R312, R313). -/
def csrRead (x : Issue) (l n : Nat) : Nat :=
  let y := x.w.lane l
  match n with
  | 0x000 => l
  | 0x001 => x.w.idx
  | 0x002 => unitCore x.w.unit
  | 0x003 => unitCluster x.w.unit
  | 0x004 => unitDie x.w.unit
  | 0x005 => x.n.idx
  | 0x006 => x.launch.id
  | 0x007 => x.w.grps.toNat
  | 0x008 => flagNat x.n.desc.cast
  | 0x009 => x.w.agelim
  | 0x010 => flagNat x.w.preq
  | 0x011 => if x.w.preq then x.w.pdleft else 0
  | 0x018 => x.w.utvec.toNat
  | 0x019 => y.ucause
  | 0x01A => y.uepc.toNat
  | 0x020 => csrFrag x.w l
  | 0x021 => csrSibm x.w l
  | 0x028 => y.fflags
  | 0x029 => if x.n.desc.spill then x.n.desc.spilla + x.w.idx * 65536 else 0
  | 0x100 => x.lvl + flagNat x.ctx.sec * 2 ^ 8
  | 0x101 => 8 * 2 ^ 50
  | 0x102 => x.ctx.grecs
  | 0x103 => x.ctx.parkceil
  | 0x200 => 9 * 2 ^ 50
  | 0x201 => x.ctx.owner
  | 0x202 => flagNat x.ctx.hold
  | 0x203 => x.ctx.wdlim
  | 0x204 => x.ctx.extlim
  | _ => 0

/-- Change the context of the issuing node. -/
def onCtx (x : Issue) (g : Ctx → Ctx) : Issue := { x with s := x.s.setCtx x.n.ctx (g x.ctx) }

/-- The value that PARKCEIL stores of a write (16 R312). -/
def parkClamp (v : Nat) : Nat := max 64 (min v 16777216)

/-- Store a new value into a CSR; read-only fields are ignored (R195, R197, 16 R312). -/
def csrStore (x : Issue) (l n v : Nat) : Issue :=
  match n with
  | 0x018 => { x with w := { x.w with utvec := BitVec.ofNat 32 (v % 2 ^ 32 / 4 * 4) } }
  | 0x01A => { x with w := x.w.setLane l fun y => { y with uepc := BitVec.ofNat 32 v } }
  | 0x028 => { x with w := x.w.setLane l fun y => { y with fflags := v % 64 } }
  | 0x103 => onCtx x fun c => { c with parkceil := parkClamp v }
  | 0x202 => onCtx x fun c => { c with hold := bitAt v 0 }
  | 0x203 => onCtx x fun c => { c with wdlim := v }
  | 0x204 => onCtx x fun c => { c with extlim := v }
  | _ => x

/-- Write, set or clear (R195). -/
def csrCombine (fn old v : Nat) : Nat :=
  match fn with
  | 0 => v
  | 1 => old ||| v
  | _ => old &&& (2 ^ 64 - 1 - v)

/-- `CSRR` (R195). -/
def execCsrr (f : CsrF) (s : State) : Host.Outcome State Fault Refusal :=
  s.issue (.csrr f) f.p fun x =>
    x.eachLane f.u x.ex fun l => (csrRead x l f.csrn % 2 ^ (if f.u || f.w then 64 else 32), 0)

/-- The three forms of `CSRW` (R195). -/
def csrWrite (x : Issue) (f : CsrF) (fn : Nat) : Issue :=
  let v (l : Nat) : Nat := if f.u then x.w.sreg f.r else x.val 0 l
  let put1 (y : Issue) (l : Nat) : Issue := csrStore y l f.csrn (csrCombine fn (csrRead x l f.csrn) (v l))
  if csrPerLane f.csrn then x.ex.foldl put1 x
  else match x.ex with
    | [] => x
    | l :: _ => put1 x l

/-- `CSRW` (R195). -/
def execCsrw (f : CsrF) (s : State) : Host.Outcome State Fault Refusal :=
  s.issue (.csrw f) f.p fun x => csrWrite x f 0

/-- `CSRW.SET` (R195). -/
def execCsrwSet (f : CsrF) (s : State) : Host.Outcome State Fault Refusal :=
  s.issue (.csrwSet f) f.p fun x => csrWrite x f 1

/-- `CSRW.CLR` (R195). -/
def execCsrwClr (f : CsrF) (s : State) : Host.Outcome State Fault Refusal :=
  s.issue (.csrwClr f) f.p fun x => csrWrite x f 2

/-- A write of `PARKCEIL` by any of the three forms (R195, 16 R312). -/
def execParkceilWrite (f : CsrF) (s : State) : Host.Outcome State Fault Refusal :=
  s.issue (.parkceilWrite f) f.p fun x => csrWrite x f f.fn

end Sys2Proof.Machine
end

