-- ==== Sys2Proof/Machine/Num.lean ====
section
/-! DEFINITION. Numbers of the element formats (04 R87–R96): exact values, the one rounding, overflow and underflow,
narrowing, and the arithmetic of the floating-point class (08 R203–R207, R212, R213). Finite values are exact dyadics. -/

namespace Sys2Proof

open Machine

/-- An exact value: a NaN (`gen`: produced from operands that are not NaN, 04 R97 NV), an infinity, or
`(-1)^s * m * 2^e`; a zero keeps its sign. -/
inductive Num
  | nan (gen : Bool)
  | inf (s : Bool)
  | fin (s : Bool) (m : Nat) (e : Int)
  deriving DecidableEq, Repr

/-- A floating-point layout (04 R87, R88). -/
structure Layout where
  eb : Nat
  fb : Nat
  bias : Nat
  hasInf : Bool
  deriving DecidableEq, Repr

def lay32 : Layout := ⟨8, 23, 127, true⟩

def Fmt.layout : Fmt → Option Layout
  | .f32 => some lay32 | .f16 => some ⟨5, 10, 15, true⟩ | .bf16 => some ⟨8, 7, 127, true⟩
  | .f8a => some ⟨4, 3, 7, false⟩ | .f8b => some ⟨5, 2, 15, true⟩ | _ => none

/-- Bits of an element (04 R87). -/
def Fmt.width : Fmt → Nat
  | .f32 => 32 | .f16 => 16 | .bf16 => 16 | .f8a => 8 | .f8b => 8 | .i32 => 32 | .i8 => 8 | .i4 => 4 | .i8a => 8 | .i4a => 4

/-- The target is narrowed into under 04 R95. -/
def Fmt.isNarrow : Fmt → Bool
  | .f8a => true | .f8b => true | .i8 => true | .i4 => true | .i8a => true | .i4a => true | _ => false
/-- The asymmetric formats, whose codes take a scale and a zero point (04 R90). -/
def Fmt.isAsym : Fmt → Bool | .i8a => true | .i4a => true | _ => false

namespace Layout

/-- Exponent of the smallest normal, and of the smallest subnormal. -/
def emin (F : Layout) : Int := 1 - F.bias
def qmin (F : Layout) : Int := F.emin - F.fb
/-- Encodings of infinity, of the largest finite value, of the canonical NaN, without sign (04 R88). -/
def infBits (F : Layout) : Nat := (2 ^ F.eb - 1) * 2 ^ F.fb
def maxBits (F : Layout) : Nat := if F.hasInf then F.infBits - 1 else 2 ^ (F.eb + F.fb) - 2
def nanBits (F : Layout) : Nat := if F.hasInf then F.infBits + 2 ^ (F.fb - 1) else 2 ^ (F.eb + F.fb) - 1
def signBits (F : Layout) (s : Bool) : Nat := if s then 2 ^ (F.eb + F.fb) else 0

/-- The value of an encoding (04 R88). -/
def value (F : Layout) (w : Nat) : Num :=
  let f := bitsAt w 0 F.fb
  let e := bitsAt w F.fb F.eb
  let s := bitAt w (F.eb + F.fb)
  if e = 2 ^ F.eb - 1 ∧ (F.hasInf = true ∨ f = 2 ^ F.fb - 1) then
    if F.hasInf = true ∧ f = 0 then .inf s else .nan false
  else if e = 0 then .fin s f F.qmin
  else .fin s (f + 2 ^ F.fb) (F.qmin + (e - 1 : Nat))

end Layout

/-- The value of an integer. -/
def Num.ofInt (k : Int) : Num := .fin (decide (k < 0)) k.natAbs 0

/-- The value of an element (04 R87–R90): a code of `INT8A` or `INT4A` is read as itself. -/
def Fmt.value (t : Fmt) (w : Nat) : Num :=
  match t.layout with
  | some F => F.value w
  | none => if t.isAsym then Num.ofInt (w % 2 ^ t.width : Nat) else Num.ofInt (sxInt t.width w)

def Num.isNan : Num → Bool | .nan _ => true | _ => false
def Num.isZero : Num → Bool | .fin _ m _ => m == 0 | _ => false
def Num.isFinite : Num → Bool | .fin _ _ _ => true | _ => false
def Num.neg : Num → Num
  | .nan g => .nan g | .inf s => .inf !s | .fin s m e => .fin (!s) m e

/-! ### Rounding -/

/-- A quotient and remainder by `d`, rounded to an integer (04 R93): the integer, and whether it is inexact. -/
def roundQuot (rm : Rm) (s : Bool) (q r d : Nat) : Nat × Bool :=
  let up : Bool := match rm with
    | .rz => false
    | .rup => !s && r != 0
    | .rdn => s && r != 0
    | _ => decide (d < 2 * r) || (2 * r == d && q % 2 == 1)
  (q + flagNat up, r != 0)

/-- Round the magnitude `n / d * 2 ^ k` to an integer. -/
def roundRatio (rm : Rm) (s : Bool) (n d : Nat) (k : Int) : Nat × Bool :=
  let n' := if 0 ≤ k then n * 2 ^ k.toNat else n
  let d' := if 0 ≤ k then d else d * 2 ^ (-k).toNat
  roundQuot rm s (n' / d') (n' % d') d'

/-- The exponent of the leading bit of `n / d`, both non-zero. -/
def topBit (n d : Nat) : Int :=
  let t : Int := (n.log2 : Int) - d.log2
  let n' := if 0 ≤ t then n else n * 2 ^ (-t).toNat
  let d' := if 0 ≤ t then d * 2 ^ t.toNat else d
  if n' < d' then t - 1 else t

/-- `m1 * 2 ^ e1 ≤ m2 * 2 ^ e2`. -/
def leMag (m1 : Nat) (e1 : Int) (m2 : Nat) (e2 : Int) : Bool :=
  if e1 ≤ e2 then decide (m1 ≤ m2 * 2 ^ (e2 - e1).toNat) else decide (m1 * 2 ^ (e1 - e2).toNat ≤ m2)

namespace Layout

/-- Round `n / d * 2 ^ e` to the format's grid, its exponent unbounded above (04 R93): integer, exponent, inexact. -/
def grid (F : Layout) (rm : Rm) (s : Bool) (n d : Nat) (e : Int) : Nat × Int × Bool :=
  let q := max (topBit n d + e) F.emin - F.fb
  let (r, x) := roundRatio rm s n d (e - q)
  (r, q, x)

/-- Below the smallest normal after rounding to the format's precision with any exponent (04 R94). -/
def tiny (F : Layout) (rm : Rm) (s : Bool) (n d : Nat) (e : Int) : Bool :=
  let q := topBit n d + e - F.fb
  !leMag 1 F.emin (roundRatio rm s n d (e - q)).1 q

/-- The encoding of a grid value; it may lie above the largest finite one. -/
def magBits (F : Layout) (r : Nat) (q : Int) : Nat :=
  if r < 2 ^ F.fb then r else ((q - F.qmin).toNat + 1) * 2 ^ F.fb + (r - 2 ^ F.fb)

/-- One rounding of a finite non-zero magnitude `n / d * 2 ^ e`, with the flags of R94. -/
def roundMag (F : Layout) (rm : Rm) (s : Bool) (n d : Nat) (e : Int) : Nat × Nat :=
  let (r, q, x) := F.grid rm s n d e
  let b := F.magBits r q
  if F.maxBits < b then
    let away : Bool := match rm with | .rz => false | .rup => !s | .rdn => s | _ => true
    (F.signBits s + (if away then F.infBits else F.maxBits), fOF ||| fNX)
  else
    (F.signBits s + b, if x then (if F.tiny rm s n d e then fNX ||| fUF else fNX) else 0)

/-- One rounding of an exact value (04 R92–R94). -/
def round (F : Layout) (rm : Rm) : Num → Nat × Nat
  | .nan g => (F.nanBits, if g then fNV else 0)
  | .inf s => (F.signBits s + F.infBits, 0)
  | .fin s 0 _ => (F.signBits s, 0)
  | .fin s m e => F.roundMag rm s m 1 e

end Layout

/-! ### Exact arithmetic -/

/-- The exact product (04 R92, R104; 08 R203). -/
def Num.mul : Num → Num → Num
  | .nan g, .nan h => .nan (g || h)
  | .nan g, _ => .nan g
  | _, .nan g => .nan g
  | .inf s, .inf t => .inf (s != t)
  | .inf s, .fin t m _ => if m = 0 then .nan true else .inf (s != t)
  | .fin s m _, .inf t => if m = 0 then .nan true else .inf (s != t)
  | .fin s m e, .fin t n f => .fin (s != t) (m * n) (e + f)

/-- A finite value as a multiple of `2 ^ lo`, `lo` at most its exponent. -/
def Num.scaled (lo : Int) : Num → Int
  | .fin s m e => if s then -((m * 2 ^ (e - lo).toNat : Nat) : Int) else ((m * 2 ^ (e - lo).toNat : Nat) : Int)
  | _ => 0

def Num.expo : Num → Option Int | .fin _ m e => if m = 0 then none else some e | _ => none
def Num.signOf : Num → Bool | .fin s _ _ => s | .inf s => s | .nan _ => false

/-- The exact sum (04 R92, R104): an exact zero is negative where every term is, or under RDN where their signs differ. -/
def Num.sum (rm : Rm) (ts : List Num) : Num :=
  if ts.any Num.isNan then .nan (ts.any fun t => t == .nan true)
  else
    let pos := ts.any fun t => t == .inf false
    let neg := ts.any fun t => t == .inf true
    if pos && neg then .nan true
    else if pos then .inf false
    else if neg then .inf true
    else
      let lo := (ts.filterMap Num.expo).foldl min ((ts.filterMap Num.expo).headD 0)
      let t := ts.foldl (fun (a : Int) x => if x.isZero then a else a + x.scaled lo) 0
      if t ≠ 0 then .fin (decide (t < 0)) t.natAbs lo
      else if ts.all Num.signOf then .fin true 0 0
      else .fin (rm == .rdn && (ts.any Num.signOf || ts.any fun x => !x.isZero)) 0 0

/-- `FADD`, `FMUL` and `FFMA` of a format (08 R203): a NaN operand raises no flag. -/
def fpOp (F : Layout) (rm : Rm) (ops : List Num) (x : Num) : Nat × Nat :=
  if ops.any Num.isNan then (F.nanBits, 0) else F.round rm x
def fpAdd (F : Layout) (rm : Rm) (a b : Num) : Nat × Nat := fpOp F rm [a, b] (Num.sum rm [a, b])
def fpMul (F : Layout) (rm : Rm) (a b : Num) : Nat × Nat := fpOp F rm [a, b] (a.mul b)
def fpFma (F : Layout) (rm : Rm) (a b c : Num) : Nat × Nat := fpOp F rm [a, b, c] (Num.sum rm [a.mul b, c])

/-- Correctly rounded division (08 R212, R214). -/
def fpDiv (F : Layout) (rm : Rm) : Num → Num → Nat × Nat
  | .nan _, _ => (F.nanBits, 0)
  | _, .nan _ => (F.nanBits, 0)
  | .inf _, .inf _ => (F.nanBits, fNV)
  | .inf s, .fin t _ _ => (F.signBits (s != t) + F.infBits, 0)
  | .fin s _ _, .inf t => (F.signBits (s != t), 0)
  | .fin s m e, .fin t n f =>
    if n = 0 then (if m = 0 then (F.nanBits, fNV) else (F.signBits (s != t) + F.infBits, fDZ))
    else if m = 0 then (F.signBits (s != t), 0)
    else F.roundMag rm (s != t) m n (e - f)

/-- An order of the values that are not NaN; a zero of either sign is 0. -/
def Num.lt : Num → Num → Bool
  | .nan _, _ => false
  | _, .nan _ => false
  | .inf s, .inf t => s && !t
  | .inf s, _ => s
  | _, .inf t => !t
  | .fin s m e, .fin t n f =>
    let lo := min e f
    decide (Num.scaled lo (.fin s m e) < Num.scaled lo (.fin t n f))

def Num.eqv (a b : Num) : Bool := !a.isNan && !b.isNan && !a.lt b && !b.lt a

/-- `FMIN` and `FMAX` on FP32 bits (08 R204): −0 is less than +0. -/
def fpMinMax (mx : Bool) (a b : Nat) : Nat :=
  let x := lay32.value a
  let y := lay32.value b
  if x.isNan && y.isNan then lay32.nanBits
  else if x.isNan then b
  else if y.isNan then a
  else
    let less : Bool := x.lt y || (!y.lt x && x.signOf && !y.signOf)
    if less != mx then a else b

/-- `FCMP` under its FN (08 R205). -/
def fpCompare (fn a b : Nat) : Bool :=
  let x := lay32.value a
  let y := lay32.value b
  let un := x.isNan || y.isNan
  match fn with
  | 0 => x.eqv y
  | 1 => !un && !x.eqv y
  | 2 => x.lt y
  | 3 => !un && !y.lt x
  | 4 => y.lt x
  | 5 => !un && !x.lt y
  | 6 => !un
  | 7 => un
  | 8 => un || x.eqv y
  | 9 => un || !x.eqv y
  | 10 => un || x.lt y
  | 11 => un || !y.lt x
  | 12 => un || y.lt x
  | _ => un || !x.lt y

/-- `FCLASS` (08 R206): the number of the class. -/
def fpClass (a : Nat) : Nat :=
  match lay32.value a with
  | .nan _ => 8
  | .inf s => if s then 0 else 7
  | .fin s m _ =>
    if m = 0 then (if s then 3 else 4)
    else if m < 2 ^ 23 then (if s then 2 else 5) else (if s then 1 else 6)

/-- `FRND` (08 R207). -/
def fpRnd (rm : Rm) (a : Nat) : Nat × Nat :=
  match lay32.value a with
  | .nan _ => (lay32.nanBits, 0)
  | .inf _ => (a, 0)
  | .fin s m e =>
    let (r, x) := roundRatio rm s m 1 e
    ((lay32.round .rne (.fin s r 0)).1, if x then fNX else 0)

/-! ### Narrowing -/

/-- The integer bound of a record, or the format's limit (04 R95, R100). -/
def intBound (t : Fmt) (bound : Nat) : Nat :=
  match lay32.value bound with
  | .fin _ m e => if m = 0 then (if t.isAsym then 2 ^ t.width - 1 else 2 ^ (t.width - 1) - 1) else (roundRatio .rz false m 1 e).1
  | _ => 0

/-- Narrow into `F8A` or `F8B` (04 R95). -/
def narrowFloat (F : Layout) (rm : Rm) (bound : Nat) : Num → Nat × Nat
  | .nan _ => (F.nanBits, 0)
  | .inf s => (F.signBits s + lim, fSAT ||| fNX)
  | .fin s 0 _ => (F.signBits s, 0)
  | .fin s m e =>
    let (r, q, x) := F.grid rm s m 1 e
    let b := F.magBits r q
    if lim < b then (F.signBits s + lim, fSAT ||| fNX)
    else (F.signBits s + b, if x then (if F.tiny rm s m 1 e then fNX ||| fUF else fNX) else 0)
where
  /-- the encoding of the bound -/
  lim : Nat := if bound = 0 then F.maxBits else (F.round .rne (lay32.value bound)).1

/-- Narrow into an integer format under a scale and a zero point (04 R95). A NaN or a bad scale sets NV alone: whether NX
is set as well is the model's choice (log entry 90). DESIGN CHOICE (log entry 102): an infinity goes to the end of the clamp range on the side of the sign of
*x* ÷ scale. -/
def narrowInt (t : Fmt) (rm : Rm) (bound : Nat) (scale : Num) (z : Nat) (x : Num) : Nat × Nat :=
  let b := intBound t bound
  let lo : Int := if t.isAsym then max 0 ((z : Int) - b) else -(b : Int)
  let hi : Int := if t.isAsym then min (2 ^ t.width - 1 : Nat) ((z : Int) + b) else b
  let base : Int := if t.isAsym then z else 0
  match x, scale with
  | .fin s m e, .fin t' n f =>
    if n = 0 then (wrapInt t.width base, fNV)
    else
      let (r, x) := roundRatio rm (s != t') m n (e - f)
      let q : Int := base + (if s != t' then -(r : Int) else r)
      if q < lo then (wrapInt t.width lo, fSAT ||| fNX)
      else if hi < q then (wrapInt t.width hi, fSAT ||| fNX)
      else (wrapInt t.width q, if x then fNX else 0)
  | .inf s, .fin t' n _ =>
    if n = 0 then (wrapInt t.width base, fNV)
    else (wrapInt t.width (if s != t' then lo else hi), fSAT ||| fNX)
  | _, _ => (wrapInt t.width base, fNV)

/-- Into `INT32` (04 R95). A NaN sets NV alone (log entry 90). -/
def toInt32 (rm : Rm) : Num → Nat × Nat
  | .nan _ => (0, fNV)
  | .inf s => (if s then 2 ^ 31 else 2 ^ 31 - 1, fSAT ||| fNX)
  | .fin s m e =>
    let (r, x) := roundRatio rm s m 1 e
    let k : Int := if s then -(r : Int) else r
    if k < -(2 ^ 31 : Int) then (2 ^ 31, fSAT ||| fNX)
    else if (2 ^ 31 - 1 : Int) < k then (2 ^ 31 - 1, fSAT ||| fNX)
    else (wrapInt 32 k, if x then fNX else 0)

/-- The scale 1.0 of an operand without scales (04 R90). -/
def oneNum : Num := .fin false 1 0

/-- A conversion into a format (04 R94, R95). -/
def narrow (t : Fmt) (rm : Rm) (bound : Nat) (scale : Num) (z : Nat) (x : Num) : Nat × Nat :=
  match t.layout with
  | some F => if t.isNarrow then narrowFloat F rm bound x else F.round rm (match x with | .nan _ => .nan false | y => y)
  | none => if t = .i32 then toInt32 rm x else narrowInt t rm bound scale z x

/-- The scalar `FCVT` (08 R209, R210): an infinity into `F8B` stays one (log entry 12). -/
def convert (src dst : Fmt) (rm : Rm) (w : Nat) : Nat × Nat :=
  match dst, dst.layout, src.value w with
  | .f8b, some F, .inf s => F.round rm (.inf s)
  | _, _, x => narrow dst rm 0 oneNum 0 x

/-- The exact value of a code (04 R96). -/
def codeValue (t : Fmt) (scale : Num) (z q : Nat) : Num :=
  if t.isAsym then scale.mul (Num.ofInt ((q : Int) - z)) else t.value q

/-- One element of a block under RNE-EF (04 R96): the code, the error after it as FP32 bits, the flags. -/
def efStep (t : Fmt) (bound : Nat) (scale : Num) (z : Nat) (x : Num) (err : Nat) : Nat × Nat × Nat :=
  let (y, f1) := fpAdd lay32 .rne x (lay32.value err)
  let yv := lay32.value y
  let (q, f2) := narrow t .rne bound scale z yv
  if !yv.isFinite then (q, 0, f1 ||| f2)
  else
    let v := codeValue t scale z q
    if v.isNan then (q, 0, f1 ||| f2)
    else
      let (e, f3) := fpAdd lay32 .rne yv v.neg
      (q, e, f1 ||| f2 ||| f3)

/-! ### Reciprocal, square root and the approximated functions -/

/-- The integer square root, bit by bit from bit `k - 1` down. -/
def sqrtBits (n : Nat) : Nat → Nat → Nat
  | 0, r => r
  | k + 1, r => if (r + 2 ^ k) * (r + 2 ^ k) ≤ n then sqrtBits n k (r + 2 ^ k) else sqrtBits n k r

/-- `FRCP` (08 R212, R213). -/
def fpRcp (rm : Rm) (a : Nat) : Nat × Nat := fpDiv lay32 rm (.fin false 1 0) (lay32.value a)

/-- `FSQRT` (08 R212, R213): the root of a 64-bit multiple with a sticky last bit, rounded once. -/
def fpSqrt (rm : Rm) (a : Nat) : Nat × Nat :=
  match lay32.value a with
  | .nan _ => (lay32.nanBits, 0)
  | .inf s => if s then (lay32.nanBits, fNV) else (a, 0)
  | .fin s m e =>
    if m = 0 then (a, 0)
    else if s then (lay32.nanBits, fNV)
    else
      let k := 64 + (e % 2).toNat
      let n := m * 2 ^ k
      let r := sqrtBits n 48 0
      lay32.round rm (.fin false (2 * r + flagNat (r * r != n)) ((e - k) / 2 - 1))

/-- Fraction bits of the fixed-point approximations. -/
def fx : Nat := 200
def fxLn2 : Nat := 0xb17217f7d1cf79abc9e3b39803f2f6af40f343267298b62d8a
def fxHalfPi : Nat := 0x1921fb54442d18469898cc51701b839a252049c1114cf98e804
def fxLog2e : Nat := 0x171547652b82fe1777d0ffda0d23a7d11d6aef551bad2b4b116

/-- `n / d * 2 ^ k` in fixed point. -/
def toFx (m : Nat) (e : Int) : Nat :=
  if 0 ≤ e + fx then m * 2 ^ (e + fx).toNat else m / 2 ^ (-(e + fx)).toNat
def mulFx (a b : Nat) : Nat := a * b / 2 ^ fx
def imulFx (a b : Int) : Int := (a * b).fdiv (2 ^ fx : Nat)

/-- The exponential series of `t`, below 1, in fixed point: terms `k …`. -/
def expSeries (t : Nat) : Nat → Nat → Nat → Nat
  | 0, _, _ => 0
  | n + 1, k, term => term + expSeries t n (k + 1) (mulFx term t / k)
/-- `2 ^ (f / 2^fx)` for a fraction. -/
def exp2Fx (f : Nat) : Nat := expSeries (mulFx f fxLn2) 64 1 (2 ^ fx)
/-- `z + z^3/3 + z^5/5 + …`. -/
def atanhSeries (z2 : Int) : Nat → Nat → Int → Int
  | 0, _, _ => 0
  | n + 1, k, p => p.fdiv (k : Int) + atanhSeries z2 n (k + 2) (imulFx p z2)
/-- The alternating series of sine (from `k = 1`) and cosine (from `k = 0`). -/
def trigSeries (t2 : Int) : Nat → Nat → Int → Int
  | 0, _, _ => 0
  | n + 1, k, p => p + trigSeries t2 n (k + 2) (-(imulFx p t2).fdiv (((k + 1) * (k + 2) : Nat) : Int))

/-- A fixed-point value as a number. -/
def ofFx (x : Int) : Num := .fin (decide (x < 0)) x.natAbs (-(fx : Int))

/-- The functions of 08 R213 that are not correctly rounded. -/
inductive Special | rsq | ex2 | lg2 | sin | cos | tanh
  deriving DecidableEq, Repr

def Special.code : Special → Nat | .rsq => 0 | .ex2 => 1 | .lg2 => 2 | .sin => 3 | .cos => 4 | .tanh => 5

/-- Sine of `m * 2^e` turned by `turn` quarters, in fixed point. -/
def sinApprox (s : Bool) (m : Nat) (e : Int) (turn : Nat) : Num :=
  let x := toFx m e
  let k := x / fxHalfPi
  let r : Int := (x % fxHalfPi : Nat)
  let r2 := imulFx r r
  let sn := trigSeries r2 40 1 r
  let cs := trigSeries r2 40 0 ((2 ^ fx : Nat) : Int)
  let q := (k + turn) % 4
  let v := if q = 0 then sn else if q = 1 then cs else if q = 2 then -sn else -cs
  ofFx (if s && turn == 0 then -v else v)

/-- A value within `2^-100` of the function's, relatively for `rsq` and `ex2`, for arguments that 08 R213 gives no
special or exact result. -/
def Special.series (fn : Special) (s : Bool) (m : Nat) (e : Int) : Num :=
  match fn with
  | .rsq =>
    let k := 400 + ((e % 2).toNat)
    .fin false (sqrtBits (2 ^ (2 * k) / (m * 2 ^ (e % 2).toNat)) (k + 2) 0) (-(k : Int) - (e - e % 2) / 2)
  | .ex2 =>
    let x : Int := if s then -(toFx m e : Int) else toFx m e
    let n := x.fdiv (2 ^ fx : Nat)
    .fin false (exp2Fx (x.fmod (2 ^ fx : Nat)).toNat) (n - fx)
  | .lg2 =>
    let t := m.log2
    let y : Int := toFx m (-(t : Int))
    let one : Int := (2 ^ fx : Nat)
    let z := ((y - one) * one).fdiv (y + one)
    let ln := 2 * atanhSeries (imulFx z z) 140 1 z
    ofFx (((t : Int) + e) * one + imulFx ln fxLog2e)
  | .sin => sinApprox s m e 0
  | .cos => sinApprox s m e 1
  | .tanh =>
    if leMag 64 0 m e then .fin s (2 ^ 120 - 1) (-120)
    else
      let x := mulFx (2 * toFx m e) fxLog2e
      let g := exp2Fx (x % 2 ^ fx)
      let ex := 2 ^ fx * 2 ^ fx / (g * 2 ^ (x / 2 ^ fx))
      .fin s ((2 ^ fx - ex) * 2 ^ fx / (2 ^ fx + ex)) (-(fx : Int))

/-- No result for an argument is greater in magnitude. -/
def Special.limit (fn : Special) (m : Nat) (e : Int) : Nat × Int :=
  match fn with
  | .rsq => (1, 75)
  | .ex2 => (2 ^ 24 - 1, 104)
  | .lg2 => if leMag 1 (-1) m e && leMag m e 2 0 then (1, 0) else (150, 0)
  | _ => (1, 0)

/-- The value closest to the function's that the model computes. -/
def Special.approx (fn : Special) (s : Bool) (m : Nat) (e : Int) : Num :=
  match fn.series s m e with
  | .fin t n f => if leMag n f (fn.limit m e).1 (fn.limit m e).2 then .fin t n f else .fin t (fn.limit m e).1 (fn.limit m e).2
  | x => x

/-- Twice the ulp of the correctly rounded result (08 R213); a result that rounds up to the next binade has its ulp. -/
def twoUlp (a : Num) : Num :=
  match a with
  | .fin s m e =>
    if m = 0 then .fin false 1 (-149)
    else
      let (r, q, _) := lay32.grid .rne s m 1 e
      .fin false (if 2 ^ 24 ≤ r then 4 else 2) q
  | x => x

/-- The error bound of an argument and its approximate result (08 R213); none where only the range bounds the result. -/
def Special.bound (fn : Special) (m : Nat) (e : Int) (a : Num) : Option Num :=
  match fn with
  | .rsq => some (twoUlp a)
  | .ex2 => match a with
    | .fin _ n f => if leMag 1 (-126) n f then some (twoUlp a) else some (.fin false 1 (-149))
    | _ => none
  | .lg2 => if leMag 1 (-1) m e && leMag m e 2 0 then some (.fin false 1 (-22)) else some (twoUlp a)
  | .tanh => some (.fin false 1 (-22))
  | _ =>
    if leMag m e 1 22 then some (.fin false (max 1 (toFx m e / (2 * fxHalfPi) + 1)) (-22)) else none

/-- A result lies in the function's range (08 R213). -/
def Special.inRange (fn : Special) (s : Bool) (c : Nat) : Bool :=
  match lay32.value c, fn with
  | .fin _ m e, .sin => leMag m e 1 0
  | .fin _ m e, .cos => leMag m e 1 0
  | .fin t m e, .tanh => leMag m e 1 0 && t == s
  | .fin t _ _, .ex2 => !t
  | .fin _ _ _, _ => true
  | _, _ => false

/-- The implementation's result for an argument that 08 R213 gives no exact result: the free candidate where it meets the
bound and the range, otherwise the rounded value. -/
def Special.pick (fn : Special) (s : Bool) (m : Nat) (e : Int) (bits : Nat) : Nat × Nat :=
  let a := fn.approx s m e
  let c := Config.special fn.code bits % 2 ^ 32
  let near : Bool := match fn.bound m e a with
    | none => true
    | some b => match Num.sum .rne [lay32.value c, a.neg], b with
      | .fin _ m1 e1, .fin _ m2 e2 => leMag m1 e1 m2 e2
      | _, _ => false
  let r := if fn.inRange s c && near then c else (lay32.round .rne a).1
  let tinyR : Bool := match a with | .fin t n f => n != 0 && lay32.tiny .rne t n 1 f | _ => false
  (r, if tinyR then fNX ||| fUF else fNX)

/-- A positive finite value is a power of two: its exponent. -/
def powerOfTwo (m : Nat) (e : Int) : Option Int := if m = 2 ^ m.log2 then some (e + m.log2) else none

/-- A finite value is an integer: which. -/
def integerOf (s : Bool) (m : Nat) (e : Int) : Option Int :=
  let (r, x) := roundRatio .rz s m 1 e
  if x then none else some (if s then -(r : Int) else r)

/-- The special functions on FP32 bits (08 R212, R213). -/
def fpSpecial (fn : Special) (a : Nat) : Nat × Nat :=
  match lay32.value a with
  | .nan _ => (lay32.nanBits, 0)
  | .inf s => match fn with
    | .rsq => if s then (lay32.nanBits, fNV) else (0, 0)
    | .ex2 => if s then (0, 0) else (lay32.infBits, 0)
    | .lg2 => if s then (lay32.nanBits, fNV) else (lay32.infBits, 0)
    | .tanh => ((lay32.round .rne (.fin s 1 0)).1, 0)
    | _ => (lay32.nanBits, fNV)
  | .fin s m e =>
    if m = 0 then
      match fn with
      | .rsq => (lay32.signBits s + lay32.infBits, fDZ)
      | .lg2 => (lay32.signBits true + lay32.infBits, fDZ)
      | .sin => (a, 0)
      | .tanh => (a, 0)
      | _ => ((lay32.round .rne oneNum).1, 0)
    else match fn with
      | .rsq =>
        if s then (lay32.nanBits, fNV)
        else match powerOfTwo m e with
          | some k => if k % 2 = 0 then ((lay32.round .rne (.fin false 1 (-(k / 2)))).1, 0) else fn.pick s m e a
          | none => fn.pick s m e a
      | .ex2 =>
        if !s && leMag 128 0 m e then (lay32.infBits, fOF ||| fNX)
        else if s && !leMag m e 150 0 then (0, fUF ||| fNX)
        else match integerOf s m e with
          | some k => if -149 ≤ k ∧ k ≤ 127 then ((lay32.round .rne (.fin false 1 k)).1, 0) else fn.pick s m e a
          | none => fn.pick s m e a
      | .lg2 =>
        if s then (lay32.nanBits, fNV)
        else match powerOfTwo m e with
          | some k => ((lay32.round .rne (Num.ofInt k)).1, 0)
          | none => fn.pick s m e a
      | _ => fn.pick s m e a

end Sys2Proof
end

