-- ==== Sys2Proof/Machine/Memory.lean ====
section
/-! DEFINITION. The memory class (09 R217–R236): loads and stores, scratchpad and full/empty bits, gather and scatter,
fences, atomics and polling. -/

namespace Sys2Proof.Machine

open Issue

/-! ### Addresses -/

/-- The lanes that access memory: with U = 1 the lowest executing lane alone (09 R220). -/
def memLanes (x : Issue) (u : Bool) : List Nat := if u then x.ex.take 1 else x.ex

/-- One access of lane `l` to the `n` bytes at a formed address: the checks of 09 R235 in order, then `go` on its pieces. The
pieces of a faulting access that passed before the failing one go to `part`. -/
def accessLane (y : Issue) (l : Nat) (k : AccessKind) (va : Option Nat) (n : Nat) (align : Bool)
    (part go : Issue → Nat → List Piece → Issue) : Issue :=
  match va with
  | none => y.trap l 3 0x23
  | some va =>
    if align && va % n != 0 then y.trap l 2 1
    else match y.s.checkAccess y.n.ctx (some y.n.launch) y.lvl k va n with
      | .trap c b => y.trap l c b
      | .fault f done => (part y va done).park l f
      | .ok ps => go y va ps

/-- Nothing is done of an access that faults. -/
def noPart (y : Issue) (_ : Nat) (_ : List Piece) : Issue := y

/-- The order of a lane's accesses to device pages: they wait for its requests (05 R136). -/
def deviceWait (y : Issue) (l : Nat) (ps : List Piece) : Issue :=
  if ps.any (fun p => decide (2 ≤ p.mt)) && y.releaseWaits [l] then { y with wait := true } else y

/-- A loaded datum as the register takes it (09 R219): extended to 32 bits, to 64 with U = 1. -/
def extendTo (f : MemF) (v : Nat) : Nat :=
  if f.sx then wrapInt (if f.u then 64 else 32) (sxInt (8 * f.sz.bytes) v) else v

/-! ### Loads and stores -/

/-- `LD` (R220): each executing lane reads its datum. -/
def loadLanes (x : Issue) (f : MemF) (d : Nat → Int) : Issue :=
  (memLanes x f.u).foldl (fun y l =>
    accessLane y l { write := false } (formAddr (x.val 1 l) (d l)) f.sz.bytes false noPart fun y _ ps =>
      let (y, v) := (deviceWait y l ps).readMem l ps
      y.set 0 l (extendTo f v)) x

/-- `ST` (R220): each executing lane's datum becomes a held store. A pending flip strikes the data, those that pass before a fault too; the access that is
tried again after the fault consumes it (20 R394, 09 R236). -/
def storeLanes (x : Issue) (f : MemF) (d : Nat → Int) : Issue :=
  (memLanes x f.u).foldl (fun y l =>
    let n := f.sz.bytes
    accessLane y l { write := true } (formAddr (x.val 1 l) (d l)) n false
      (fun y va ps => if ps.isEmpty then y else y.storeRaw l va (ps.map (·.n)).sum (y.flipped l n (x.val 0 l)) ps)
      (fun y va ps => y.storeMem l va n (x.val 0 l) ps)) x

/-- `LD` (R220): register displacement. -/
def execLd8 (f : MemF) (s : State) : Host.Outcome State Fault Refusal :=
  s.issue (.ld8 f) f.p fun x => loadLanes x f (dispB x)

/-- `LD` (R220): immediate displacement. -/
def execLd12 (f : MemF) (s : State) : Host.Outcome State Fault Refusal :=
  s.issue (.ld12 f) f.p fun x => loadLanes x f fun _ => f.imm.toInt

/-- `ST` (R220): register displacement. -/
def execSt8 (f : MemF) (s : State) : Host.Outcome State Fault Refusal :=
  s.issue (.st8 f) f.p fun x => storeLanes x f (dispB x)

/-- `ST` (R220): immediate displacement. -/
def execSt12 (f : MemF) (s : State) : Host.Outcome State Fault Refusal :=
  s.issue (.st12 f) f.p fun x => storeLanes x f fun _ => f.imm.toInt

/-! ### Scratchpad -/

/-- One scratchpad access of a lane: its place, and with a full/empty qualifier its alignment (09 R223, R235). -/
def spLane (y : Issue) (l : Nat) (o : Int) (n : Nat) (fe : Bool) (go : Issue → Nat → Nat → Issue) : Issue :=
  match spPlace y o n with
  | none => y.trap l 3 0x21
  | some (u, off) => if fe && o % n != 0 then y.trap l 2 1 else go y u off

/-- A lane reads scratchpad bytes; poisoned ones kill the node (19 R375). -/
def readSp (y : Issue) (u off n : Nat) : Issue × Nat :=
  (if y.s.spPoisoned u off n then { y with kill := some (0x12, 0, 0) } else y, ofLe (y.s.spBytes u off n))

/-- A full/empty load of a lane (09 R223, R224): it is served at once where the bit is set and no older load of the granule or of the lane is pending,
otherwise it pends. `all` are the lanes of its instruction. A load issued again after a stop joins those of its instruction that already have their
values for a port (17 R343). `stuck` are the granules at which a lane of the instruction waits for an older load: the lanes of one `LDS.FW` there complete
together (R224). -/
def feLoad (f : MemF) (grp : Nat) (all : List Nat) (stuck : List (Nat × Nat)) (y : Issue) (l u off : Nat) : Issue :=
  let older := (f.fe != .q2 && stuck.contains (u, off / 16))
    || y.s.fePend.any fun p => p.got.isNone && ((p.unit == u && p.off / 16 == off / 16) || p.who == ⟨y.wk, l⟩)
  let port := !y.w.isSeq && decide (240 ≤ f.d)
  if y.s.feBit u off && !older && !port then
    let (y, v) := readSp y u off f.sz.bytes
    let y := if f.fe = .q2 then y.writeSp l u off none [] (some false) else y
    y.set 0 l (extendTo f v)
  else
    let old := y.s.fePend.find? fun p => p.who.warp == y.wk && p.at_ == y.at_ && p.got.isSome && p.all.contains l
    let p : FePend := { id := y.s.nextId, who := ⟨y.wk, l⟩, unit := u, off := off, size := f.sz.bytes, sx := f.sx,
                        consume := f.fe == .q2, d := f.d, at_ := y.at_
                        grp := old.elim grp (·.grp), all := if port then old.elim all (·.all) else [] }
    let g : List Pend := if port then [] else (regsOf y.w.isSeq (y.opnd 0)).map fun r =>
      { cls := r.1, num := r.2, lanes := [l], req := p.id }
    { y with s := { y.s with fePend := y.s.fePend ++ [p], nextId := p.id + 1 }, w := { y.w with pend := y.w.pend ++ g } }

/-- `LDS` (R222–R224). -/
def ldsLanes (x : Issue) (f : MemF) (d : Nat → Int) : Issue :=
  let good (l : Nat) : Bool := (spPlace x (spOff x l (d l)) f.sz.bytes).isSome && spOff x l (d l) % f.sz.bytes == 0
  let behind (l : Nat) : Bool := good l && x.s.fePend.any fun p => p.got.isNone && p.who == ⟨x.wk, l⟩
  let stuck := if x.s.fePend.isEmpty then [] else (x.ex.filter behind).filterMap fun l => (spPlace x (spOff x l (d l)) f.sz.bytes).map fun e => (e.1, e.2 / 16)
  x.ex.foldl (fun y l =>
    spLane y l (spOff x l (d l)) f.sz.bytes (f.fe != .plain) fun y u off =>
      if f.fe = .plain then
        let (y, v) := readSp y u off f.sz.bytes
        y.set 0 l (extendTo f v)
      else feLoad f x.s.nextId (x.ex.filter good) stuck y l u off) x

/-- `STS` (R222–R224). -/
def stsLanes (x : Issue) (f : MemF) (d : Nat → Int) : Issue :=
  x.ex.foldl (fun y l =>
    let o := spOff x l (d l)
    spLane y l o f.sz.bytes (f.fe != .plain) fun y u off =>
      y.writeSp l u off (some o.toNat) (leBytes f.sz.bytes (x.val 0 l)) (if f.fe = .plain then none else some true)) x

/-- `FEM` on the granule of each lane's offset (R225). -/
def femLanes (x : Issue) (d : Nat → Int) (go : Issue → Nat → Int → Nat → Nat → Issue) : Issue :=
  x.ex.foldl (fun y l => spLane y l (spOff x l (d l)) 1 false fun y u off => go y l (spOff x l (d l)) u off) x

def femWrite (b : Bool) (y : Issue) (l : Nat) (o : Int) (u off : Nat) : Issue := y.writeSp l u off (some o.toNat) [] (some b)
def femTest (y : Issue) (l : Nat) (_ : Int) (u off : Nat) : Issue := y.set 0 l (flagNat (y.s.feBit u off))

/-- `LDS` (R222): register offset. -/
def execLds8 (f : MemF) (s : State) : Host.Outcome State Fault Refusal :=
  s.issue (.lds8 f) f.p fun x => ldsLanes x f (dispB x)

/-- `LDS` (R222): immediate offset. -/
def execLds12 (f : MemF) (s : State) : Host.Outcome State Fault Refusal :=
  s.issue (.lds12 f) f.p fun x => ldsLanes x f fun _ => f.imm.toInt

/-- `STS` (R222): register offset. -/
def execSts8 (f : MemF) (s : State) : Host.Outcome State Fault Refusal :=
  s.issue (.sts8 f) f.p fun x => stsLanes x f (dispB x)

/-- `STS` (R222): immediate offset. -/
def execSts12 (f : MemF) (s : State) : Host.Outcome State Fault Refusal :=
  s.issue (.sts12 f) f.p fun x => stsLanes x f fun _ => f.imm.toInt

/-- `FEM.SET` (R225): register offset. -/
def execFemSet8 (f : MemF) (s : State) : Host.Outcome State Fault Refusal :=
  s.issue (.femSet8 f) f.p fun x => femLanes x (dispB x) (femWrite true)

/-- `FEM.SET` (R225): immediate offset. -/
def execFemSet12 (f : MemF) (s : State) : Host.Outcome State Fault Refusal :=
  s.issue (.femSet12 f) f.p fun x => femLanes x (fun _ => f.imm.toInt) (femWrite true)

/-- `FEM.CLR` (R225): register offset. -/
def execFemClr8 (f : MemF) (s : State) : Host.Outcome State Fault Refusal :=
  s.issue (.femClr8 f) f.p fun x => femLanes x (dispB x) (femWrite false)

/-- `FEM.CLR` (R225): immediate offset. -/
def execFemClr12 (f : MemF) (s : State) : Host.Outcome State Fault Refusal :=
  s.issue (.femClr12 f) f.p fun x => femLanes x (fun _ => f.imm.toInt) (femWrite false)

/-- `FEM.TEST` (R225): register offset. -/
def execFemTest8 (f : MemF) (s : State) : Host.Outcome State Fault Refusal :=
  s.issue (.femTest8 f) f.p fun x => femLanes x (dispB x) femTest

/-- `FEM.TEST` (R225): immediate offset. -/
def execFemTest12 (f : MemF) (s : State) : Host.Outcome State Fault Refusal :=
  s.issue (.femTest12 f) f.p fun x => femLanes x (fun _ => f.imm.toInt) femTest

/-! ### Gather and scatter -/

/-- The lanes whose data come late: the next mask of the agenda, where the destination is a register of the leading copy
(R226). -/
def lateMask (x : Issue) : Nat :=
  if x.ex.isEmpty || x.w.copy != 0 || decide (240 ≤ (x.opnd 0).num) then 0 else (x.s.late.headD 0).toNat

/-- Form the late fragment of one source fragment (R226). -/
def lateFrag (at_ : Nat) (f : MemF) (vas : List (Nat × Nat)) (y : Issue) (src : Nat) : Issue :=
  let mine := vas.filter fun e => (y.w.lane e.1).frag == src
  let ls := mine.map (·.1)
  let late : LateLoad := { mask := f.c, d := f.d, size := f.sz.bytes, sx := f.sx, vas := mine, due := y.s.clock y.w.unit + Config.lateCycles }
  let (w, _) := y.w.formFrag ls src fun g => { g with rejoin := some f.c, late := some late }
  { y with w := (w.onLanes (fun l => ls.contains l) fun z => { z with st := .parked, pc := at_ }).dissolve }

/-- What an `LDG` has done of its lanes: those whose access passed, and the addresses of those whose data come late. -/
structure Gather where
  y : Issue
  good : List Nat := []
  late : List (Nat × Nat) := []
  deriving DecidableEq, Repr

/-- One lane of an `LDG` (R226): `m` marks the lanes whose data come late, which those of device and strongly ordered pages never do (05 R136). -/
def ldgLane (x : Issue) (f : MemF) (m : Nat) (a : Gather) (l : Nat) : Gather :=
  match formAddr (x.val 1 l) (dispB x l) with
  | none => { a with y := a.y.trap l 3 0x23 }
  | some va =>
    match a.y.s.checkAccess x.n.ctx (some x.n.launch) x.lvl { write := false } va f.sz.bytes with
    | .trap c b => { a with y := a.y.trap l c b }
    | .fault g _ => { a with y := a.y.park l g }
    | .ok ps =>
      if bitAt m l && ps.all fun p => decide (p.mt < 2) then { a with good := a.good ++ [l], late := a.late ++ [(l, va)] }
      else
        let (y, v) := (deviceWait a.y l ps).readMem l ps
        { a with y := y.set 0 l (extendTo f v), good := a.good ++ [l] }

/-- `LDG` (R226): early lanes take their data, the others form late fragments. A lane that traps or parks leaves its bit of `m`C as it was before the
instruction (18 R360; log entry 93). -/
def execLdg (f : MemF) (s : State) : Host.Outcome State Fault Refusal :=
  s.issue (.ldg f) f.p fun x =>
    let a := x.ex.foldl (ldgLane x f (lateMask x)) { y := { x with s := { x.s with late := x.s.late.tail } } }
    let y := { a.y with w := a.y.w.setM f.c (a.y.w.mreg f.c ||| maskOf a.good) }
    let y := if a.late.isEmpty then y else y.leaveParked
    (distinct (a.late.map fun e => (y.w.lane e.1).frag)).foldl (lateFrag x.at_ f a.late) y

/-- `SCT` (R228): of the lanes at one address one stores; `m`C tells which. -/
def execSct (f : MemF) (s : State) : Host.Outcome State Fault Refusal :=
  s.issue (.sct f) f.p fun x =>
    let n := f.sz.bytes
    let (y, good) := x.ex.foldl (fun (a : Issue × List (Nat × Nat × List Piece)) l =>
      match formAddr (x.val 1 l) (dispB x l) with
      | none => (a.1.trap l 3 0x23, a.2)
      | some va =>
        if va % n ≠ 0 then (a.1.trap l 2 1, a.2)
        else match a.1.s.checkAccess x.n.ctx (some x.n.launch) x.lvl { write := true } va n with
          | .trap c b => (a.1.trap l c b, a.2)
          | .fault g _ => (a.1.park l g, a.2)
          | .ok ps => (a.1, a.2 ++ [(l, va, ps)])) (x, [])
    let wins (e : Nat × Nat × List Piece) : Bool :=
      good.all fun g => g.2.1 != e.2.1 || (if f.x then decide (e.1 ≤ g.1) else decide (g.1 ≤ e.1))
    let y := good.foldl (fun y e => if wins e then y.storeMem e.1 e.2.1 n (x.val 0 e.1) e.2.2 else y.useFlips e.1) y
    if good.isEmpty then y
    else y.setMaskBits f.c (good.map (·.1)) fun l => good.any fun e => e.1 == l && wins e

/-- `PREF` (R229): only the address is checked. -/
def prefLanes (x : Issue) (d : Nat → Int) : Issue :=
  x.ex.foldl (fun y l => if (formAddr (x.val 1 l) (d l)).isNone then y.trap l 3 0x23 else y) x

/-- `PREF` (R229): register displacement. -/
def execPref8 (f : MemF) (s : State) : Host.Outcome State Fault Refusal :=
  s.issue (.pref8 f) f.p fun x => prefLanes x (dispB x)

/-- `PREF` (R229): immediate displacement. -/
def execPref12 (f : MemF) (s : State) : Host.Outcome State Fault Refusal :=
  s.issue (.pref12 f) f.p fun x => prefLanes x fun _ => f.imm.toInt

/-- `FENCE` (R230): its effect is what it waits for. -/
def execFence (f : MemF) (s : State) : Host.Outcome State Fault Refusal := s.issue (.fence f) f.p fun x => x

/-! ### Atomics -/

/-- The order carries an acquire (05 R121). -/
def acqOrd (o : Order) : Bool := o == .acq || o == .ar || o == .sc

/-- One lane's atomic request (R231), with its contribution (20 R440). -/
def atomicLane (y : Issue) (l : Nat) (f : MemF) (fn : Nat) (b c : Nat) (ret : Bool) (grp : Nat) : Issue :=
  let n := f.sz.bytes
  let parts (va : Nat) : List (Nat × List Byte) :=
    if fn = 10 then
      (if n = 16 then [(va, leBytes 16 b), (va, leBytes 16 c)]
       else [(va, (leBytes n b ++ List.replicate 8 0).take 8 ++ leBytes n c)])
    else [(va, leBytes n b)]
  accessLane y l { write := true, onlyN := true, atomic := true } (some (y.val 1 l)) n true noPart fun y va ps =>
    let q := ps.headD { va := va, n := n }
    let d := if ret then some f.d else none
    let port := !y.w.isSeq && decide (240 ≤ f.d)
    let e : Emit := { lanes := [l], once := true, contribs := [{ lane := l, parts := parts va }],
                      req := some (
                        .atomic { pa := q.pa, tag := q.tag, home := q.home, size := n, op := fn, b := b % 2 ^ (8 * n), c := c % 2 ^ (8 * n), d := d, acq := acqOrd f.ord, grp := grp }),
                      pend := if ret && !port then regsOf y.w.isSeq (y.opnd 0) else [] }
    { y with emits := y.emits ++ [e] }

/-- `RED` FN 0x09–0x0B are the operations `FADD`, `FMIN` and `FMAX` of `ATOM` (R232). -/
def redOp (fn : Nat) : Nat := if fn < 9 then fn else fn + 4

/-- `ATOM` other than `CAS` (R231–R233). -/
def execAtom (f : MemF) (s : State) : Host.Outcome State Fault Refusal :=
  s.issue (.atom f) f.p fun x => x.ex.foldl (fun y l => atomicLane y l f f.fn (x.val 2 l) 0 true x.s.nextId) x

/-- `ATOM.CAS` (R232). -/
def execAtomCas (f : MemF) (s : State) : Host.Outcome State Fault Refusal :=
  s.issue (.atomCas f) f.p fun x => x.ex.foldl (fun y l => atomicLane y l f 10 (x.val 2 l) (x.val 3 l) true x.s.nextId) x

/-- `RED` (R231, R232): register operand. -/
def execRed8 (f : MemF) (s : State) : Host.Outcome State Fault Refusal :=
  s.issue (.red8 f) f.p fun x => x.ex.foldl (fun y l => atomicLane y l f (redOp f.fn) (x.val 2 l) 0 false 0) x

/-- The immediate operand of `RED` (R218): sign-extended for integer operations. -/
def redImm (f : MemF) : Nat := wrapInt (8 * f.sz.bytes) f.imm.toInt

/-- `RED` (R231, R232): immediate operand. -/
def execRed12 (f : MemF) (s : State) : Host.Outcome State Fault Refusal :=
  s.issue (.red12 f) f.p fun x => x.ex.foldl (fun y l => atomicLane y l f (redOp f.fn) (redImm f) 0 false 0) x

/-- The new value of memory and the flags of an atomic operation (R232). -/
def atomicOp (op n m b c : Nat) : Nat × Nat :=
  let w := 8 * n
  match op with
  | 0 => ((m + b) % 2 ^ w, 0)
  | 1 => ((m + 2 ^ w - b) % 2 ^ w, 0)
  | 2 => (minOf false w m b, 0)
  | 3 => (maxOf false w m b, 0)
  | 4 => (minOf true w m b, 0)
  | 5 => (maxOf true w m b, 0)
  | 6 => (m &&& b, 0)
  | 7 => (m ||| b, 0)
  | 8 => (m ^^^ b, 0)
  | 9 => (b, 0)
  | 10 => (if m = b then c else m, 0)
  | 11 => (if b ≤ m then 0 else m + 1, 0)
  | 12 => (if m = 0 ∨ b < m then b else m - 1, 0)
  | 13 => fpAdd lay32 .rne (lay32.value m) (lay32.value b)
  | 14 => (fpMinMax false m b, 0)
  | _ => (fpMinMax true m b, 0)

/-! ### Polling -/

/-- The polled value ends the wait (R234). -/
def pollHit (eq : Bool) (ref v : Nat) : Bool := (v == ref) == eq

/-- `POLL` (R234): a lane whose first read does not end the wait waits. The other copies of a REDUNDANT node take the leading
copy's value (19 R386). -/
def execPoll (f : MemF) (s : State) : Host.Outcome State Fault Refusal :=
  s.issue (.poll f) f.p fun x =>
    let n := f.sz.bytes
    x.ex.foldl (fun y l =>
      accessLane y l { write := false, onlyN := true } (formAddr (x.val 1 l) f.imm.toInt) n true noPart fun y va ps =>
        if x.red && x.w.copy != 0 then
          let (y, v) := y.readMem l ps
          y.set 0 l v
        else
          let ref := x.val 0 l % 2 ^ (8 * n)
          let v := ofLe (ps.flatMap fun p => (List.range p.n).map fun i => y.laneByte l p.tag (p.pa + i))
          if y.s.badRead y.w.unit ps then { y with kill := some (0x12, 0, 0) }
          else if pollHit f.x ref v then
            let y := if x.red then y.putLog l 0 (some (.data v)) else y
            y.set 0 l v
          else
            let wt : Wait := .poll va ref n f.x f.d (f.ord != .rlx) f.yh 32 (x.s.clock x.w.unit + 32)
            { y with w := y.w.setLane l fun z => { z with st := .waiting, wait := wt } }) x

end Sys2Proof.Machine
end

