-- ==== Sys2Proof/Machine/MemEvents.lean ====
section
/-! DEFINITION. What happens to memory requests after their issue: the hold (05 R137), the atomic service and its results
(05 R119, 09 R231), homes (18 R370, R371), full/empty loads (09 R224), polling (09 R234, 17 R341), late data (09 R226) and
casts (01 R43, 12 R299). -/

namespace Sys2Proof.Machine

open Issue

/-! ### Held requests -/

/-- The party whose requests leave in program order: a warp, or the pair of a REDUNDANT node (19 R385, R387). -/
def State.partyOf (s : State) (wk : Nat) : Nat × Nat :=
  match find wk s.warps with
  | some w => if !w.isSeq && (find w.node s.nodes).elim false fun n => n.desc.red then (w.node, w.idx + 1) else (wk, 0)
  | none => (wk, 0)

/-- A request leaves its core when its hold is over, none of its warp's stands before it, there or in a compare buffer (05 R137, 19 R385), the earlier
requests of its lanes have been performed (05 R124), and no earlier command of theirs is still to read or write its bytes (24 R435). Lane 32 stands for the
whole warp. -/
def State.mayLeave (s : State) (r : Req) : Bool :=
  let mine (q : Req) : Bool := s.partyOf q.who.warp == s.partyOf r.who.warp
  decide (r.issued + r.hold ≤ s.clock r.unit)
    && !(s.atomQ ++ s.rakeQ).any (fun q => mine q && (r.who.lane == 32 || q.lanes.any fun l => r.lanes.contains l))
    && (s.held ++ s.buffered).all (fun q => !mine q || decide (r.id ≤ q.id)) && !s.reqBehind r

/-- The agent that a unit's atomic requests come from (18 R370). -/
def agentOf (unit : Nat) : Nat := if unit < Config.cores then unit / 8 else 96 + (unit - Config.cores) / 16

/-- The home of a page whose combined AC is 1 (18 R370). -/
def State.homeAgent (s : State) (page : Nat) : Nat := (find page s.homes).getD (Config.lineOwner (page / 128) % 96)

/-- The agent whose service warp performs an atomic request (05 R119, 18 R370). -/
def State.ownerOf (s : State) (a : AtomReq) : Nat :=
  match a.home with
  | some page => s.homeAgent page
  | none => Config.lineOwner (a.pa / 128) % 96

/-- Requests counted to a page from an agent. -/
def State.accesses (s : State) (page agent : Nat) : Nat := getD 0 s.access (page * 128 + agent)

/-- The hint of a page that the SMC has not acknowledged, while which its counts are frozen (18 R370). -/
def State.hintOf (s : State) (page : Nat) : Option Hint := s.hints.find? fun h => h.page == page

/-- Count an arriving atomic request (18 R370): at 65,535 the page's counts are halved, and past ACTH the hub sends the SMC a hint. -/
def State.countAccess (s : State) (page agent : Nat) : State :=
  if (s.hintOf page).isSome then s
  else
    let m := put 0 (page * 128 + agent) (s.accesses page agent + 1) s.access
    let m := if s.accesses page agent + 1 < 65535 then m
      else (List.range 128).foldl (fun m a => put 0 (page * 128 + a) (getD 0 m (page * 128 + a) / 2) m) m
    let home := s.homeAgent page
    let h : Hint := { page := page, home := home, agent := agent, count := getD 0 m (page * 128 + agent), homeCount := getD 0 m (page * 128 + home) }
    { s with access := m, hints := if h.homeCount + s.settings.acth < h.count then s.hints ++ [h] else s.hints }

/-- A queue loses an entry that is poisoned as it is taken out: its node is killed (19 R375). -/
def State.loseEntry (s : State) (r : Req) : State :=
  ({ s with poison := s.poison.filter fun p => match p with | .queue _ q => q != r.id | _ => true } : State).killNode r.node 0x12 0 0

/-- The latest cycle of issue of what has left (19 R381). -/
def noteOut (m : List (Nat × Nat)) (k t : Nat) : List (Nat × Nat) := insert k (max t ((find k m).getD t)) m

/-- `HELD_STORE_RELEASE` (05 R137): the request leaves its core; a store is then performed. -/
def execHeldStoreRelease (id : Nat) (s : State) : Host.Outcome State Fault Refusal :=
  match s.held.find? fun r => r.id == id with
  | none => .next s
  | some r =>
    if !s.mayLeave r then .next s
    else
      let s := { s with held := s.held.filter (fun q => q.id != id), lastOut := noteOut s.lastOut (r.ctx * 1024 + r.unit) r.issued }
      if s.poisonedEntry id then .next (s.loseEntry r)
      else match r.kind with
      | .store tag bs => .next ((s.wrCells tag bs).settle r)
      | .atomic a =>
        let s := match a.home with | some page => s.countAccess page (agentOf r.unit) | none => s
        .next { s with atomQ := s.atomQ ++ [r] }
      | .table _ => .next { s with rakeQ := s.rakeQ ++ [r] }

/-- `HOME_MOVE` (18 R370, R371): the SMC answers a hint. To move the page's home it names the agent of the hint: later services of the page's waiting
requests are the new home's, and its counts restart. With the home as it stands it acknowledges the hint without a move, and counting goes on. -/
def execHomeMove (page agent : Nat) (s : State) : Host.Outcome State Fault Refusal :=
  match s.hintOf page with
  | none => .next s
  | some h =>
    let hints := s.hints.filter fun k => k.page != page
    if agent = h.agent then
      .next { s with homes := insert page agent s.homes, access := s.access.filter fun e => e.1 / 128 != page, hints := hints }
    else if agent = s.homeAgent page then .next { s with hints := hints }
    else .next s

/-! ### Atomics -/

/-- Push a task onto the head of a core's deque (01 R35), while its node lives. -/
def State.pushTask (s : State) (u : Nat) (t : Task) : State :=
  match find t.node s.nodes with
  | some n => if n.st.final then s else { s with deques := insert u (t :: getD [] s.deques u) s.deques }
  | none => s

/-- The old home of a page has not finished the requests that it was serving (18 R371). -/
def State.homeBusy (s : State) (a : AtomReq) (agent : Nat) : Bool :=
  a.home.isSome && s.atomQ.any fun q => match q.kind with | .atomic b => b.home == a.home && b.served.any fun e => e.1 != agent | _ => false

/-- The agent's oldest request that its service warp has not served and may serve. -/
def State.nextAtomic (s : State) (agent : Nat) : Option Req :=
  s.atomQ.find? fun r => match r.kind with | .atomic a => a.served.isNone && s.ownerOf a == agent && !s.homeBusy a agent | _ => false

/-- `ATOMIC_SERVICE` (05 R119, R137; 19 R380): an agent's service warp serves its oldest request. Result and write leave it together after its hold, and
until then nothing of them is seen: the operation is performed as they leave. -/
def execAtomicService (agent : Nat) (s : State) : Host.Outcome State Fault Refusal :=
  match s.nextAtomic agent with
  | none => .next s
  | some r =>
    let serve (q : Req) : Req := match q.kind with
      | .atomic a => if q.id = r.id then { q with kind := .atomic { a with served := some (agent, s.agentClock agent + r.hold) } } else q
      | _ => q
    .next { s with atomQ := s.atomQ.map serve }

/-- Two stretches of memory meet. -/
def bytesMeet (a n b m : Nat) : Bool := decide (a < b + m) && decide (b < a + n)

/-- The result and write of a served request may leave: its hold is over, and no request served before it still has to write these bytes. -/
def State.mayPerform (s : State) (r : Req) : Bool :=
  match r.kind with
  | .atomic a => (a.served.any fun e => decide (e.2 ≤ s.agentClock e.1))
      && (match s.atomQ.find? fun q => match q.kind with | .atomic b => bytesMeet a.pa a.size b.pa b.size | _ => false with
        | some q => q.id == r.id
        | none => true)
  | _ => false

/-- Perform an atomic request (05 R119, 09 R232); a `CAS` that fails performs no write. The value read and the flags; none where poisoned memory
kills the node (19 R375). -/
def State.serveAtomic (s : State) (r : Req) (a : AtomReq) : State × Option (Nat × Nat) :=
  if s.poisonedMem a.pa a.size then (s.killNode r.node 0x12 0 0, none)
  else if s.poisonedEntry r.id then (s.loseEntry r, none)
  else
    let m := ofLe (s.rdBytes a.tag a.pa a.size)
    let (v, fl) := atomicOp a.op a.size m a.b a.c
    let s := if a.op = 10 ∧ m ≠ a.b then s else s.wrBytes a.tag a.pa (leBytes a.size v)
    let s := match a.served with
      | some (k, ready) => { s with lastServed := noteOut s.lastServed (r.node * 128 + k) (ready - r.hold) }
      | none => s
    (match a.task with | some t => s.pushTask r.unit t | none => s, some (m, fl))

/-- The class of a register operand of a size. -/
def clsOfSize (n : Nat) : Cls := if n = 16 then .vq else if n = 8 then .vp else .v

/-- A value comes back to a lane's register, if the register still waits for it; its flags are ORed in (09 R231). -/
def Warp.land (w : Warp) (req l d size v fl : Nat) : Warp :=
  if w.pend.any fun p => p.req == req then
    let w := w.wrReg (clsOfSize size) d l v
    let w := w.setLane l fun y => { y with fflags := y.fflags ||| fl }
    { w with pend := w.pend.filter fun p => p.req != req }
  else w

/-- A register `d` of a warp is a queue port or a cast name. -/
def State.portOf (s : State) (wk d : Nat) : Bool :=
  match find wk s.warps with | some w => !w.isSeq && decide (240 ≤ d) | none => false

/-- A port of a warp can take one more entry. -/
def State.portFree (s : State) (wk d : Nat) : Bool :=
  ((find wk s.warps).bind fun w => find w.node s.nodes).elim true fun n => s.portRoom n wk d

/-- Every result of the instruction is back, and the port can take them (09 R231, 01 R42). -/
def State.groupBack (s : State) (r : AtomRes) : Bool :=
  let out (q : Req) : Bool := match q.kind with | .atomic a => a.grp == r.grp && a.d.isSome | _ => false
  !(s.held ++ s.atomQ).any out && s.portFree r.who.warp (r.d.getD 0)

/-- A result comes back to its warp: to a register, or for a port to wait for the others of its instruction (09 R231). -/
def State.returnResult (s : State) (r : Req) (a : AtomReq) (m fl : Nat) : State :=
  match a.d, find r.who.warp s.warps with
  | some d, some w =>
    if s.portOf r.who.warp d then
      { s with atomRes := s.atomRes ++ [{ id := r.id, who := r.who, size := a.size, d := a.d, grp := a.grp, val := m, flags := fl }] }
    else (s.setWarp r.who.warp (w.land r.id r.who.lane d a.size m fl)).fillLog w.node r.who.warp r.id r.who.lane (.atom m fl)
  | _, _ => s

/-- The results of an instruction that are back make one entry of their port. -/
def State.pushResults (s : State) (r : AtomRes) : State :=
  let mine := s.atomRes.filter fun q => q.grp == r.grp
  let s := { s with atomRes := s.atomRes.filter fun q => q.grp != r.grp }
  match find r.who.warp s.warps with
  | none => s
  | some w => match find w.node s.nodes with
    | none => s
    | some n =>
      let or (w : Warp) (q : AtomRes) : Warp := w.setLane q.who.lane fun y => { y with fflags := y.fflags ||| q.flags }
      (s.setWarp r.who.warp (mine.foldl or w)).pushPort w.node n r.who.warp w.unit (r.d.getD 0) r.who.lane
        (mine.map fun q => (q.who.lane, q.val % 2 ^ 32))

/-- `ATOMIC_RESULT_RETURN` (05 R119, R137; 09 R231): a served request is performed, its write and its result leave the service warp, and the result is
written to D; results for a port make one queue entry. -/
def execAtomicResultReturn (id : Nat) (s : State) : Host.Outcome State Fault Refusal :=
  match s.atomQ.find? fun r => r.id == id with
  | some r =>
    if !s.mayPerform r then .next s
    else match r.kind with
      | .atomic a =>
        let (t, o) := ({ s with atomQ := s.atomQ.filter fun q => q.id != id } : State).serveAtomic r a
        .next ((o.elim t fun v => t.returnResult r a v.1 v.2).settle r)
      | _ => .next s
  | none => match s.atomRes.find? fun r => r.id == id with
    | some r => if s.groupBack r then .next (s.pushResults r) else .next s
    | none => .next s

/-! ### Full/empty loads -/

/-- The pending loads of a granule that its bit has not served, oldest first. -/
def State.feWaiting (s : State) (unit g : Nat) : List FePend :=
  s.fePend.filter fun p => p.unit == unit && p.off / 16 == g && p.got.isNone

/-- An older full/empty load of the lane still pends: as an acquire it comes first (05 R124, R135). -/
def State.feBehind (s : State) (p : FePend) : Bool :=
  s.fePend.any fun q => q.who == p.who && q.got.isNone && decide (q.id < p.id)

/-- A load waits for older ones of its lane; those of one `LDS.FW` at a granule complete together, and wait for all of theirs (09 R224). -/
def State.feHeld (s : State) (p : FePend) : Bool :=
  s.feBehind p || (!p.consume && s.fePend.any fun q => q.unit == p.unit && q.off / 16 == p.off / 16 && q.grp == p.grp && q.got.isNone && s.feBehind q)

/-- A lane's pending load takes its value; poisoned bytes kill the node (19 R375). -/
def State.feDeliver (s : State) (p : FePend) : State :=
  match find p.who.warp s.warps with
  | none => { s with fePend := s.fePend.filter fun q => q.id != p.id }
  | some w =>
    if s.spPoisoned p.unit p.off p.size then s.killNode w.node 0x12 0 0
    else
      let v := ofLe (s.spBytes p.unit p.off p.size)
      let v := if p.sx then wrapInt 32 (sxInt (8 * p.size) v) else v
      if s.portOf p.who.warp p.d then
        { s with fePend := s.fePend.map fun q => if q.id = p.id then { q with got := some v } else q }
      else
        { s with fePend := s.fePend.filter fun q => q.id != p.id
                 warps := insert p.who.warp (w.land p.id p.who.lane p.d p.size v 0) s.warps }

/-- A consuming load sets the bit to 0; a copy of a REDUNDANT node remembers what it was (19 R388). -/
def State.feConsume (s : State) (p : FePend) : State :=
  let s' := s.setFe p.unit p.off false
  match find p.who.warp s.warps with
  | none => s'
  | some w =>
    match s.pairAt w.node w.idx with
    | none => s'
    | some q => s'.setPairAt w.node (q.onCopy w.copy fun c =>
        { c with undoFe := (feKey p.unit p.off, s.feBit p.unit p.off) :: c.undoFe })

/-- Every load of an instruction whose results go to a port has its value, its warp runs, and the port can take them. -/
def State.feGroupDone (s : State) (p : FePend) : Bool :=
  (p.all.all fun l => s.fePend.any fun q => q.grp == p.grp && q.who.lane == l && q.got.isSome)
    && (find p.who.warp s.warps).elim true (fun w => w.stop == .running) && s.portFree p.who.warp p.d

/-- Deliver a whole instruction's values to its port. -/
def State.fePush (s : State) (p : FePend) : State :=
  if !(s.portOf p.who.warp p.d && s.feGroupDone p && s.fePend.any fun q => q.id == p.id) then s
  else
    let mine := s.fePend.filter fun q => q.grp == p.grp
    let s := { s with fePend := s.fePend.filter fun q => q.grp != p.grp }
    match find p.who.warp s.warps with
    | none => s
    | some w =>
      match find w.node s.nodes with
      | none => s
      | some n => s.pushPort w.node n p.who.warp w.unit p.d p.who.lane (mine.map fun q => (q.who.lane, q.got.getD 0 % 2 ^ 32))

/-- A granule's bit serves its waiting loads in the order of their issue (09 R224): as long as it is set, and up to the first that stands behind an older
load of its lane. -/
def State.feServe (unit g : Nat) : List FePend → State → State
  | [], s => s
  | p :: t, s =>
    if !s.feBit unit (g * 16) || s.feHeld p then s
    else if !s.fePend.any (fun q => q.id == p.id) then State.feServe unit g t s
    else State.feServe unit g t (if p.consume then (s.feDeliver p).feConsume p else s.feDeliver p)

/-- The granule can serve a load, or loads of it can go to their port. -/
def State.feReady (s : State) (unit g : Nat) : Bool :=
  (s.feBit unit (g * 16) && (s.feWaiting unit g).head?.elim false (fun p => !s.feHeld p))
    || s.fePend.any fun p => p.unit == unit && p.off / 16 == g && p.got.isSome && s.portOf p.who.warp p.d && s.feGroupDone p

/-- `FULL_EMPTY_LOAD_SERVE` (09 R224): the granule's bit serves its pending loads in the order of their issue. -/
def execFullEmptyLoadServe (unit granule : Nat) (s : State) : Host.Outcome State Fault Refusal :=
  let s := State.feServe unit granule (s.feWaiting unit granule) s
  let here := s.fePend.filter fun p => p.unit == unit && p.off / 16 == granule
  .next (here.foldl State.fePush s)

/-! ### Polling -/

/-- Record a value that a lane of the leading copy received (19 R386). -/
def State.logPut (s : State) (nk idx lane : Nat) (v : LogVal) : State :=
  match s.pairAt nk idx with
  | none => s
  | some p =>
    let ent : LogEnt := { lane := lane, req := 0, val := some v }
    s.setPairAt nk ({ p with log := p.log ++ [ent] }.onCopy 0 fun c =>
      { c with taken := insert lane (getD 0 c.taken lane + 1) c.taken })

/-- What a waiting lane reads of its location (09 R234): its own held stores included, none where the address no longer
translates; the flag tells that the data are poisoned. -/
def State.reread (s : State) (wk : Nat) (w : Warp) (l va n : Nat) : Option (Nat × Bool) :=
  (find w.node s.nodes).bind fun nd =>
    let buf := (((nd.pair w.idx).bind fun p => p.copies[w.copy]?).elim [] fun c => c.buf.map (·.2))
    match s.checkAccess nd.ctx (some nd.launch) nd.desc.lvl { write := false, onlyN := true } va n with
    | .ok ps => some (ofLe (ps.flatMap fun p => (List.range p.n).map fun i => s.ownByte wk l buf p.tag (p.pa + i)),
                      s.badRead w.unit ps)
    | _ => none

/-- A waiting lane runs on with a value in a register, or in an entry of a port. -/
def State.wake (s : State) (wk l d n v : Nat) : State :=
  match find wk s.warps with
  | none => s
  | some w =>
    let w' := w.setLane l fun y => { y with st := .running, wait := .none }
    match find w.node s.nodes with
    | none => s
    | some nd =>
      let s := if nd.desc.red && w.copy == 0 then s.logPut w.node w.idx l (.data v) else s
      if !w.isSeq && decide (240 ≤ d) then (s.setWarp wk w').pushPort w.node nd wk w.unit d l [(l, v % 2 ^ 32)]
      else s.setWarp wk (w'.wrReg (clsOfSize n) d l v)

/-- `POLL_REREAD` (09 R234, 17 R341): the lane reads its location again; where that read faults, it issues its `POLL` again
and faults there. -/
def execPollReread (r lane : Nat) (s : State) : Host.Outcome State Fault Refusal :=
  match find r s.warps with
  | none => .next s
  | some w =>
    let y := w.lane lane
    match y.st, y.wait with
    | .waiting, .poll va ref n eq d acq yh ival due =>
      if s.clock w.unit < due then .next s
      else match s.reread r w lane va n with
        | none => .next (s.setWarp r (w.setLane lane fun y => { y with st := .running, wait := .none, pc := y.pc - 12 }))
        | some (v, poisoned) =>
          let room := w.isSeq || decide (d < 240) || (match find w.node s.nodes with | some n => s.portRoom n r d | none => true)
          if poisoned then .next (s.killNode w.node 0x12 0 0)
          else if pollHit eq ref v && room then .next (s.wake r lane d n v)
          else
            let k := if yh then min 8192 (2 * ival) else ival
            let again : Wait := .poll va ref n eq d acq yh k (s.clock w.unit + k)
            .next (s.setWarp r (w.setLane lane fun y => { y with wait := again }))
    | _, _ => .next s

/-! ### Late data of `LDG` -/

/-- `LDG_LATE_ARRIVAL` (09 R226): the lanes of a late fragment take their data and run on; where an address no longer translates, or its page has become
a device or strongly ordered one, the lane issues its `LDG` again and faults, or waits its turn, there (05 R136). -/
def execLdgLateArrival (r frag : Nat) (s : State) : Host.Outcome State Fault Refusal :=
  match find r s.warps with
  | none => .next s
  | some w =>
    match (w.frag frag).bind fun g => g.late.map fun q => (g, q) with
    | none => .next s
    | some (g, late) =>
      let one (a : State × Warp) (e : Nat × Nat) : State × Warp :=
        let (s, w) := a
        match find w.node s.nodes with
        | none => a
        | some nd =>
          match s.checkAccess nd.ctx (some nd.launch) nd.desc.lvl { write := false } e.2 late.size with
          | .ok ps =>
            if ps.any fun p => decide (2 ≤ p.mt) then (s, w.setLane e.1 fun y => { y with st := .running }) else
            let buf := (((nd.pair w.idx).bind fun p => p.copies[w.copy]?).elim [] fun c => c.buf.map (·.2))
            let v := ofLe (ps.flatMap fun p => (List.range p.n).map fun i => s.ownByte r e.1 buf p.tag (p.pa + i))
            let v := if late.sx then wrapInt 32 (sxInt (8 * late.size) v) else v
            let w := (w.wrReg (clsOfSize late.size) late.d e.1 v).setLane e.1 fun y => { y with st := .running, pc := y.pc + 16 }
            if s.badRead w.unit ps then (s.killNode w.node 0x12 0 0, w)
            else if nd.desc.red then (s.logPut w.node w.idx e.1 (.data v), w)
            else (s, w)
          | _ => (s, w.setLane e.1 fun y => { y with st := .running })
      let (t, w') := late.vas.foldl one (s, w.setFrag { g with late := none })
      if (find r t.warps).isNone then .next t else .next (t.setWarp r (releaseMasks w'))

/-! ### Casts -/

/-- The warp that a cast's quadrant or engine consumer names on the writing core: a launched or task warp of the node by its
local slot, in the quadrant of the consumer, or a sequencer of a fork. -/
def State.castTarget (s : State) (c : Cast) : Option (Nat × Warp) :=
  if c.consumer < 4 then
    match find c.node s.nodes with
    | none => none
    | some n => s.warps.find? fun e =>
        e.2.node == c.node && e.2.unit == c.unit && !e.2.isSeq
          && e.2.idx % max 1 n.desc.w == bitsAt c.entry.toNat 16 6 && e.2.idx % max 1 n.desc.w % 4 == c.consumer
  else s.warps.find? fun e =>
    e.2.unit == c.unit && e.2.node == c.node && (match e.2.role with | .seq k _ => k + 4 == c.consumer | _ => false)

/-- The register that a consumer receives into. -/
def Cast.reg (c : Cast) : Nat := if c.consumer < 4 then bitsAt c.entry.toNat 8 8 else bitsAt c.entry.toNat 48 6

/-- The cast can be accepted: its register is not full, and its engine's sequencer is at work (01 R43). -/
def State.castReady (s : State) (c : Cast) : Bool :=
  if c.consumer = 7 then true
  else match s.castTarget c with
    | some (_, w) => find c.reg w.castFull != some true && w.stop == .running
    | none => decide (c.consumer < 4)

/-- `CAST_DELIVERY` (01 R43, 12 R299): a consumer accepts. -/
def execCastDelivery (id : Nat) (s : State) : Host.Outcome State Fault Refusal :=
  match s.casts.find? fun c => c.id == id with
  | none => .next s
  | some c =>
    if !s.castReady c then .next s
    else
      let s := { s with casts := s.casts.filter fun k => k.id != id }
      if c.consumer = 7 then
        match find c.node s.nodes with
        | none => .next s
        | some n =>
          let off := bitsAt c.entry.toNat 32 16 * 16
          if n.partSize < off + 128 then .next s
          else
            let bs := allLanes.flatMap fun l => leBytes 4 ((find l c.lanes).elim 0 fun v => v.toNat)
            .next ((s.spWrite c.unit (n.partBase c.unit + off) bs).setFeRange c.unit (n.partBase c.unit + off) 128)
      else match s.castTarget c with
        | none => .next s
        | some (wk, w) =>
          let w := if c.consumer < 4 then c.lanes.foldl (fun (w : Warp) e => w.setV c.reg e.1 e.2.toNat) w
                   else w.setS c.reg ((find c.elected c.lanes).elim 0 fun v => v.toNat)
          .next (s.setWarp wk { w with castFull := insert c.reg true w.castFull })

/-! ### The events that are due -/

/-- The first of a list of pending things, as the event that takes it. -/
def firstDue {α : Type} (l : List α) (f : α → Host.Outcome State Fault Refusal) : Option (Host.Outcome State Fault Refusal) :=
  l.head?.map f

/-- Waiting lanes whose wait satisfies `p`, by warp. -/
def State.lanesWaiting (s : State) (p : Warp → Lane → Bool) : List (Nat × Nat) :=
  (s.warps.filter fun e => e.2.stop == .running).flatMap fun e => (allLanes.filter fun l => (e.2.lane l).st == .waiting && p e.2 (e.2.lane l)).map fun l => (e.1, l)

/-- Late fragments whose data have arrived. -/
def State.lateDue (s : State) : List (Nat × Nat) :=
  (s.warps.filter fun e => e.2.stop == .running).flatMap fun e => (e.2.frags.filter fun g => match g.late with | some q => decide (q.due ≤ s.clock e.2.unit) | none => false).map
    fun g => (e.1, g.id)

/-- Lanes whose next read of a polled location is due. -/
def State.pollDue (s : State) : List (Nat × Nat) :=
  s.lanesWaiting fun w y => match y.wait with | .poll _ _ _ _ _ _ _ _ due => decide (due ≤ s.clock w.unit) | _ => false

/-- The agents of the atomic requests that may be served, in the order of arrival. -/
def State.agents (s : State) : List Nat :=
  s.atomQ.filterMap fun r => match r.kind with
    | .atomic a => if a.served.isNone && !s.homeBusy a (s.ownerOf a) then some (s.ownerOf a) else none
    | _ => none

/-- The first memory event that is due. -/
def State.memEvent (s : State) : Option (Host.Outcome State Fault Refusal) :=
  firstDue (s.held.filter s.mayLeave) (fun r => execHeldStoreRelease r.id s)
    <|> firstDue s.agents (fun a => execAtomicService a s)
    <|> firstDue (s.atomQ.filter s.mayPerform) (fun r => execAtomicResultReturn r.id s)
    <|> firstDue (s.atomRes.filter s.groupBack) (fun r => execAtomicResultReturn r.id s)
    <|> firstDue (s.fePend.filter fun p => s.feReady p.unit (p.off / 16)) (fun p => execFullEmptyLoadServe p.unit (p.off / 16) s)
    <|> firstDue (s.casts.filter s.castReady) (fun c => execCastDelivery c.id s)
    <|> firstDue s.lateDue (fun e => execLdgLateArrival e.1 e.2 s)
    <|> firstDue s.pollDue (fun e => execPollReread e.1 e.2 s)

end Sys2Proof.Machine
end

