-- ==== Sys2Proof/Machine/Index.lean ====
section
/-! DEFINITION. Keyed tables as their rake unit keeps them: slots (06 R144, R149, R150), the B+tree of an ORDERED index
(06 R146), PREFIX entries (06 R153–R155), cursors (06 R147, 10 R247–R250) and shards (21 R405–R407). -/

namespace Sys2Proof.Machine

/-! ### Entries -/

/-- The order of index entries (06 R146): by key, and in a non-unique index by slot. -/
def Entry.lt (uniq : Bool) (a b : Entry) : Bool := decide (a.key < b.key) || (!uniq && a.key == b.key && decide (a.slot < b.slot))
def Entry.le (uniq : Bool) (a b : Entry) : Bool := !b.lt uniq a

/-- Insert an entry in order. -/
def entryInsert (uniq : Bool) (e : Entry) : List Entry → List Entry
  | [] => [e]
  | a :: t => if e.lt uniq a then e :: a :: t else a :: entryInsert uniq e t

/-- Change the element at a position. -/
def modAt {α : Type} (f : α → α) : Nat → List α → List α
  | _, [] => []
  | 0, x :: t => f x :: t
  | n + 1, x :: t => x :: modAt f n t

/-- Replace the element at a position by several. -/
def spliceAt {α : Type} (ys : List α) : Nat → List α → List α
  | _, [] => ys
  | 0, _ :: t => ys ++ t
  | n + 1, x :: t => x :: spliceAt ys n t

def removeAt {α : Type} (n : Nat) (l : List α) : List α := spliceAt [] n l
def insertAt {α : Type} (x : α) : Nat → List α → List α
  | 0, l => x :: l
  | _ + 1, [] => [x]
  | n + 1, y :: t => y :: insertAt x n t

/-! ### The B+tree -/

namespace Tree

def entries (t : Tree) : List Entry := t.leaves.flatten

/-- The leaf that an entry belongs to: as many as there are separators not above it. -/
def route (uniq : Bool) (t : Tree) (e : Entry) : Nat := (t.seps.filter fun s => s.le uniq e).length

/-- The node that holds child `i`, and its place there. -/
def locate : List Nat → Nat → Nat × Nat
  | [], i => (0, i)
  | c :: t, i => if i < c then (0, i) else let (n, k) := locate t (i - c); (n + 1, k)

/-- Entries that the left half of a split keeps (06 R146). -/
def leftHalf (lcap : Nat) : Nat := (lcap + 2) / 2
/-- Fewer entries than this let a node merge. -/
def low (lcap : Nat) : Nat := (lcap + 3) / 4

/-- Child `i` of the lowest of these levels has split: its node takes one more child, and splits where it overflows. -/
def splitUp (lcap : Nat) : List (List Nat) → Nat → List (List Nat)
  | [], _ => [[2]]
  | cs :: up, i =>
    let (p, _) := locate cs i
    let c := cs.getD p 0 + 1
    if c ≤ lcap then modAt (fun _ => c) p cs :: up
    else spliceAt [leftHalf lcap, c - leftHalf lcap] p cs :: splitUp lcap up p

/-- Child `i + 1` of the lowest of these levels has merged into child `i`: their node loses a child, and merges where few
remain. -/
def mergeUp (lcap : Nat) : List (List Nat) → Nat → List (List Nat)
  | [], _ => []
  | cs :: up, i =>
    let (p, _) := locate cs i
    let c := cs.getD p 0 - 1
    let cs := modAt (fun _ => c) p cs
    match up with
    | [] => [cs]
    | ps :: _ =>
      let (g, k) := locate ps p
      if low lcap ≤ c then cs :: up
      else if k + 1 < ps.getD g 0 then
        let d := cs.getD (p + 1) 0
        if c + d ≤ lcap then removeAt (p + 1) (modAt (fun _ => c + d) p cs) :: mergeUp lcap up p else cs :: up
      else if 0 < k then
        let d := cs.getD (p - 1) 0
        if c + d ≤ lcap then removeAt p (modAt (fun _ => c + d) (p - 1) cs) :: mergeUp lcap up (p - 1) else cs :: up
      else cs :: up

/-- An interior root left with one child is removed. -/
def dropRoots (ls : List (List Nat)) : List (List Nat) := (ls.reverse.dropWhile fun l => l == [1]).reverse

/-- Insert an entry (06 R146). -/
def add (lcap : Nat) (uniq : Bool) (t : Tree) (e : Entry) : Tree :=
  match t.leaves with
  | [] => { leaves := [[e]], seps := [], levels := [] }
  | _ =>
    let i := t.route uniq e
    let leaf := entryInsert uniq e (t.leaves.getD i [])
    if leaf.length ≤ lcap then { t with leaves := modAt (fun _ => leaf) i t.leaves }
    else
      let l := leaf.take (leftHalf lcap)
      let r := leaf.drop (leftHalf lcap)
      { leaves := spliceAt [l, r] i t.leaves, seps := insertAt (r.headD e) i t.seps, levels := splitUp lcap t.levels i }

/-- Leaves `i` and `i + 1` become one. -/
def mergeLeaves (lcap i : Nat) (t : Tree) : Tree :=
  let m := t.leaves.getD i [] ++ t.leaves.getD (i + 1) []
  { leaves := removeAt (i + 1) (modAt (fun _ => m) i t.leaves), seps := removeAt i t.seps
    levels := dropRoots (mergeUp lcap t.levels i) }

/-- Remove an entry (06 R146). -/
def remove (lcap : Nat) (uniq : Bool) (t : Tree) (e : Entry) : Tree :=
  let i := t.route uniq e
  let leaf := (t.leaves.getD i []).filter fun a => a != e
  let t := { t with leaves := modAt (fun _ => leaf) i t.leaves }
  match t.levels with
  | [] => t
  | ps :: _ =>
    let (g, k) := locate ps i
    if low lcap ≤ leaf.length then t
    else if k + 1 < ps.getD g 0 then
      if leaf.length + (t.leaves.getD (i + 1) []).length ≤ lcap then t.mergeLeaves lcap i else t
    else if 0 < k then
      if leaf.length + (t.leaves.getD (i - 1) []).length ≤ lcap then t.mergeLeaves lcap (i - 1) else t
    else t

/-- Levels and nodes of the index (10 R242). -/
def depth (t : Tree) : Nat := if t.entries.isEmpty then 0 else 1 + t.levels.length
def nodes (t : Tree) : Nat := if t.entries.isEmpty then 0 else t.leaves.length + (t.levels.map (·.length)).sum

end Tree

/-! ### Rows and slots -/

namespace Table

/-- The index of a HASHED or ORDERED table, in key order for an ORDERED one. -/
def index (t : Table) : List Entry := if t.desc.kind = 1 then t.tree.entries else t.entries

/-- The entry with the least slot among those of a key (10 R243). -/
def lookup (t : Table) (k : Nat) : Option Entry :=
  (t.index.filter fun e => e.key == k).foldl (fun (m : Option Entry) e =>
    match m with
    | some a => if e.slot < a.slot then some e else m
    | none => some e) none

/-- The lowest-numbered free slot: one that no row lives in and no dead row keeps (06 R144, R150). -/
def freeSlot (t : Table) : Option Nat :=
  ((List.range (t.live.length + t.dead.length + 1)).find? fun s => !t.live.contains s && !t.dead.contains s).filter
    fun s => decide (s < t.desc.cap)

/-- Add a row's entry to the index. -/
def addEntry (t : Table) (e : Entry) : Table :=
  let t := { t with live := t.live ++ [e.slot] }
  if t.desc.kind = 1 then { t with tree := t.tree.add t.desc.lcap t.desc.uniq e } else { t with entries := t.entries ++ [e] }

/-- Remove a row's entry from the index: its slot is dead (06 R149). -/
def delEntry (t : Table) (e : Entry) : Table :=
  let t := { t with live := t.live.filter fun s => s != e.slot, dead := t.dead ++ [e.slot] }
  if t.desc.kind = 1 then { t with tree := t.tree.remove t.desc.lcap t.desc.uniq e }
  else { t with entries := t.entries.filter fun a => a != e }

/-- Cursors open on the table. -/
def openCount (t : Table) : Nat := (t.cursors.filter fun c => c.open_).length

/-! ### PREFIX entries -/

/-- The greatest multiple of 16, at most `p`, that some entry serves, with the first such entry (06 R154); `n` counts the
multiples that remain. -/
def prefixMatch (t : Table) (q : List Nat) : Nat → Option (Nat × PfxEntry)
  | 0 => none
  | n + 1 =>
    let p := 16 * (n + 1)
    match t.pfx.find? fun e => decide (p ≤ e.tokens.length) && e.tokens.take p == q.take p with
    | some e => some (p, e)
    | none => t.prefixMatch q n

/-! ### Cursors -/

/-- The quad that names a cursor record (10 R247). -/
def quad (t : Table) (tn : Nat) (c : Cursor) (hint : Nat) : Nat :=
  tn + flagNat c.desc * 2 ^ 17 + flagNat t.desc.k16 * 2 ^ 18 + c.num * 2 ^ 32 + c.gen * 2 ^ 48 + hint * 2 ^ 64

/-- The record that a quad names, if it is open and of this node (10 R247). -/
def cursorOf (t : Table) (tn node q : Nat) : Option Cursor :=
  t.cursors.find? fun c => c.open_ && c.num == bitsAt q 32 16 && c.gen == bitsAt q 48 16 && c.node == node
    && bitsAt q 0 14 == tn && bitAt q 18 == t.desc.k16 && bitAt q 17 == c.desc

/-- The entry that a step of a cursor returns (06 R147). -/
def stepEntry (t : Table) (c : Cursor) : Option Entry :=
  let u := t.desc.uniq
  if c.desc then
    ((t.index.filter fun e => (if c.first then e.le u c.pos else e.lt u c.pos) && decide (c.end_ ≤ e.key)).getLast?)
  else
    ((t.index.filter fun e => (if c.first then c.pos.le u e else c.pos.lt u e) && decide (e.key ≤ c.end_)).head?)

def setCursor (t : Table) (c : Cursor) : Table :=
  { t with cursors := t.cursors.map fun d => if d.num = c.num then c else d }

/-- A free record: the one the rake unit would take where it is free, otherwise the lowest (log entry 17). -/
def freeRecord (t : Table) (want : Nat) : Nat :=
  let used := (t.cursors.filter fun c => c.open_).map (·.num)
  let want := want % 65535
  if !used.contains want then want
  else ((List.range (used.length + 1)).find? fun k => !used.contains k).getD 0

/-- Open a cursor (10 R248): the record's next generation. -/
def openCursor (t : Table) (want node warp lane : Nat) (desc : Bool) (start end_ : Nat) : Table × Cursor :=
  let num := t.freeRecord want
  let gen := match t.cursors.find? fun c => c.num == num with | some c => c.gen % 65535 + 1 | none => 1
  let c : Cursor := { num := num, gen := gen, open_ := true, node := node, warp := warp, lane := lane, desc := desc,
                      pos := ⟨start, if desc then 2 ^ 64 - 1 else 0⟩, first := true, end_ := end_ }
  ({ t with cursors := (t.cursors.filter fun d => d.num != num) ++ [c] }, c)

end Table

/-! ### Shards (21 R405–R407) -/

/-- Count a lookup of a key by a device (21 R407, 23 R432): at most 4,096 pairs are held. -/
def countLookup (key dev : Nat) (m : List (Nat × Nat × Nat)) : List (Nat × Nat × Nat) :=
  if m.any fun e => e.1 == key && e.2.1 == dev then
    m.map fun e => if e.1 = key ∧ e.2.1 = dev then (key, dev, min (e.2.2 + 1) (2 ^ 32 - 1)) else e
  else if m.length < 4096 then m ++ [(key, dev, 1)]
  else
    let worse (a b : Nat × Nat × Nat) : Bool :=
      decide (a.2.2 < b.2.2) || (a.2.2 == b.2.2 && (decide (b.1 < a.1) || (a.1 == b.1 && decide (b.2.1 < a.2.1))))
    let least := m.foldl (fun a e => if worse e a then e else a) (m.headD (0, 0, 0))
    (m.filter fun e => e != least) ++ [(key, dev, 1)]

/-- The number under which the state holds a shard: its table number on this device, a number above 2^14 elsewhere. -/
def State.shardTable (s : State) (e : ShardEnt) : Nat :=
  if e.dev = s.settings.devid then e.tbl else (e.dev + 1) * 2 ^ 14 + e.tbl

end Sys2Proof.Machine
end

