-- ==== Sys2Proof/Machine/Rake.lean ====
section
/-! DEFINITION. The operations of the table and sequence class at their point at the rake units (06 R145, 10 R243–R257, R307). -/

namespace Sys2Proof.Machine

/-- Change a table of a context. -/
def State.updTable (s : State) (ck t : Nat) (f : Table → Table) : State :=
  let c := s.ctx ck
  s.setCtx ck { c with tables := adjust t f c.tables }

def State.tableOf (s : State) (ck t : Nat) : Table := (find t (s.ctx ck).tables).getD {}

/-- The address of a slot of a table. -/
def Table.rowAddr (t : Table) (tn slot : Nat) : Nat := tn % 2 ^ 14 * 2 ^ 50 + slot * t.desc.rowBytes

/-! ### Rows -/

/-- The checks of a rake unit's access to a row (18 R359, 05 R114): its translation and world, the memory type, and for a write the rights of the
page. -/
def State.rowPiece (s : State) (ck : Nat) (write : Bool) (p : Piece) : PieceEnd :=
  match s.translate ck none 3 p.va with
  | .fault f => .fault 4 f
  | .world => .trap 4 3 0x24
  | .ok pa a =>
    if a.mt != 0 then .trap 5 3 0x20
    else match (if write then writeFault p.va 3 a else none) with
      | some f => .fault 7 f
      | none => .pass { p with pa := pa, tag := a.tag }

/-- The pieces of a row as the rake unit of its table reaches them, or how the first that fails ends. -/
def State.rowPieces (s : State) (ck : Nat) (write : Bool) (va n : Nat) : Checked :=
  let r := s.viaBlock ck (rakeBlock (s.tableOf ck (va / 2 ^ 50)).desc.home)
  earliest ((splitPieces (n / 16 + 2) va n).map (r.rowPiece ck write))

/-- What a lane has of an operation whose access to a row ends so: a trap, or a fault. -/
def Checked.stops (lane : Nat) : Checked → TabOut
  | .ok _ => { lane := lane }
  | .trap c b => { lane := lane, trap := some (c, b) }
  | .fault f _ => { lane := lane, fault := some f }

/-- Write a row's bytes over its pieces. -/
def State.writeRow (s : State) : List Piece → List Byte → State
  | [], _ => s
  | p :: t, bs => (s.wrBytes p.tag p.pa (bs.take p.n)).writeRow t (bs.drop p.n)

/-! ### Shards -/

/-- The first shard of a key (21 R406). -/
def firstShard (k16 : Bool) (key n : Nat) : Nat := crcFold 0 (leBytes (if k16 then 16 else 8) key) % n

/-- The table is another device's, and this device holds nothing of it. -/
def State.away (s : State) (ck t : Nat) : Bool := decide (2 ^ 14 ≤ t) && (find t (s.ctx ck).tables).isNone

/-- The number of shard `i` of a map. -/
def State.shardNum (s : State) (m : ShardMap) (i : Nat) : Nat := s.shardTable (m.ents.getD i ⟨0, 0, 0, false⟩)

/-- The map of a sharded HASHED table (21 R405). -/
def State.mapOf (s : State) (ck t : Nat) : Option ShardMap :=
  let tb := s.tableOf ck t
  if tb.desc.shard = 0 ∨ tb.desc.kind ≠ 2 then none else s.shardMap ck tb.desc.shard

/-- The index of a key's first shard in the map of its table. -/
def State.firstIdx (s : State) (ck t key : Nat) (m : ShardMap) : Nat :=
  firstShard (s.tableOf ck t).desc.k16 key (max 1 m.ents.length)

/-- Where the forwarding entry of a key is kept (21 R406): at its first shard. Of a first shard on another device this device keeps what its own `KMIG`s
have written there, under the number of the sharded table (log entry 38). -/
def State.forwardAt (s : State) (ck t first : Nat) : Nat := if s.away ck first then t else first

/-- The table that a keyed operation acts on: the table itself; of a sharded HASHED table the key's first shard where the row is there, or the one
that a forwarding entry names (21 R406). -/
def State.homeOf (s : State) (ck t key : Nat) : Nat :=
  match s.mapOf ck t with
  | none => t
  | some m =>
    let first := s.shardNum m (s.firstIdx ck t key m)
    if !s.away ck first && ((s.tableOf ck first).lookup key).isSome then first
    else match find key (s.tableOf ck (s.forwardAt ck t first)).forward with
      | some j => s.shardNum m j
      | none => first

/-- The forwarding entry of a key at its first shard follows its row to shard `j` (21 R406). -/
def State.putForward (s : State) (ck t key j : Nat) (m : ShardMap) : State :=
  let i := s.firstIdx ck t key m
  s.updTable ck (s.forwardAt ck t (s.shardNum m i)) fun x => { x with forward := if j = i then erase key x.forward else insert key j x.forward }

/-- The rake unit of each shard that a lookup of this device goes to counts it: of its first shard, and of the one that a forwarding entry names (21
R407). -/
def State.countAt (s : State) (ck t key : Nat) : State :=
  match s.mapOf ck t with
  | none => s
  | some m =>
    let count (s : State) (t : Nat) : State := s.updTable ck t fun tb => { tb with lookups := countLookup key s.settings.devid tb.lookups }
    (distinct [s.shardNum m (s.firstIdx ck t key m), s.homeOf ck t key]).foldl count s

/-! ### Keyed operations -/

/-- `KGET` of a lane (R243). -/
def State.opKget (s : State) (ck : Nat) (e : TabLane) : State × TabOut :=
  let t := s.homeOf ck e.tbl e.a
  let tb := s.tableOf ck t
  let s := s.countAt ck e.tbl e.a
  if tb.desc.kind = 0 then
    if e.a < tb.desc.cap then (s, { lane := e.lane, d := some (tb.rowAddr t e.a), sr := some 0 })
    else (s, { lane := e.lane, sr := some 2 })
  else match tb.lookup e.a with
    | some x => (s, { lane := e.lane, d := some (tb.rowAddr t x.slot), sr := some 0 })
    | none => (s, { lane := e.lane, sr := some 2 })

/-- Write a new row and add its entry (R144, R244); where the row cannot be written, how that ends, with nothing changed. -/
def State.newRow (s : State) (ck t slot : Nat) (row : List Byte) (add : Table → Table) : Except Checked State :=
  match s.rowPieces ck true ((s.tableOf ck t).rowAddr t slot) row.length with
  | .ok ps => .ok ((s.writeRow ps row).updTable ck t add)
  | e => .error e

/-- `KINS` of a lane (R151, R244, R305). -/
def State.opKins (s : State) (ck : Nat) (f : TabF) (e : TabLane) : State × TabOut :=
  let t := s.homeOf ck e.tbl e.a
  let tb := s.tableOf ck t
  match (if tb.desc.uniq then tb.lookup e.a else none) with
  | some x =>
    if f.nf then (s, { lane := e.lane, d := some (tb.rowAddr t x.slot), sr := some 3 })
    else (s, { lane := e.lane, trap := some (4, 0) })
  | none =>
    match tb.freeSlot with
    | none => (s, { lane := e.lane, sr := some 4 })
    | some slot =>
      let kw := tb.desc.keyBytes
      let w := tb.desc.rowBytes
      let rest := if f.img then e.data.take (w - kw) else List.replicate (w - kw) 0
      match s.newRow ck t slot (leBytes kw e.a ++ rest) fun tb => tb.addEntry ⟨e.a, slot⟩ with
      | .error k => (s, k.stops e.lane)
      | .ok s => (s, { lane := e.lane, d := some (tb.rowAddr t slot), sr := some 0 })

/-- `KDEL` of a lane (R149, R245). -/
def State.opKdel (s : State) (ck : Nat) (e : TabLane) : State × TabOut :=
  let uniq := (s.tableOf ck e.tbl).desc.uniq
  let t := if uniq then s.homeOf ck e.tbl e.a else e.tbl
  let tb := s.tableOf ck t
  match (if uniq then tb.lookup e.a else tb.index.find? fun x => x.slot == e.a) with
  | some x => (s.updTable ck t fun tb => tb.delEntry x, { lane := e.lane, sr := some 0 })
  | none => (s, { lane := e.lane, sr := some 2 })

/-- `KRECL` of a lane (R150, R246). DESIGN CHOICE (log entry 100): under the number of a sharded HASHED table it reclaims that number's own dead slots, as
`TINFO` counts its own `LIVE` and `DEAD`; R406 sends only `KGET`, `KINS`, `KDEL` and `GPOOL` to the shards. -/
def State.opKrecl (s : State) (ck : Nat) (e : TabLane) : State × TabOut :=
  if (s.tableOf ck e.tbl).openCount ≠ 0 then (s, { lane := e.lane, d := some 8 })
  else (s.updTable ck e.tbl fun tb => { tb with dead := [] }, { lane := e.lane, d := some 0 })

/-- `KSEEK` of a lane (R248). -/
def State.opKseek (s : State) (ck node warp : Nat) (f : TabF) (e : TabLane) : State × TabOut :=
  let tb := s.tableOf ck e.tbl
  if 65535 ≤ tb.openCount then (s, { lane := e.lane, sr := some 8 })
  else
    let (tb, c) := tb.openCursor (Config.cursorRecord s.fresh) node warp e.lane f.desc e.a e.b
    let s := { s with fresh := s.fresh + 1 }
    (s.updTable ck e.tbl fun _ => tb, { lane := e.lane, d := some (tb.quad e.tbl c (2 ^ 64 - 1)), sr := some 0 })

/-- `KNEXT` (`down` false) and `KPREV` of a lane (R247, R249). -/
def State.opStep (s : State) (ck node : Nat) (down : Bool) (e : TabLane) : State × TabOut :=
  let tb := s.tableOf ck e.tbl
  match tb.cursorOf e.tbl node e.a with
  | none => (s, { lane := e.lane, trap := some (8, 5) })
  | some c =>
    if c.desc != down then (s, { lane := e.lane, trap := some (8, 5) })
    else match tb.stepEntry c with
      | none => (s, { lane := e.lane, b := some 1 })
      | some x => (s.updTable ck e.tbl fun tb => tb.setCursor { c with pos := x, first := false },
                   { lane := e.lane, d := some (tb.rowAddr e.tbl x.slot), b := some 0, hint := some x.slot })

/-- `KCLOSE` of a lane (R250). -/
def State.opKclose (s : State) (ck node : Nat) (e : TabLane) : State × TabOut :=
  match (s.tableOf ck e.tbl).cursorOf e.tbl node e.a with
  | none => (s, { lane := e.lane, trap := some (8, 5) })
  | some c => (s.updTable ck e.tbl fun tb => tb.setCursor { c with open_ := false }, { lane := e.lane })

/-- `KPFX` of a lane (R154, R251). -/
def State.opKpfx (s : State) (ck : Nat) (e : TabLane) : State × TabOut :=
  let tb := s.tableOf ck e.tbl
  match tb.prefixMatch e.toks (e.b / 16) with
  | some (p, x) => (s, { lane := e.lane, d := some (tb.rowAddr e.tbl x.slot), xr := some p, sr := some 0 })
  | none => (s, { lane := e.lane, xr := some 0, sr := some 2 })

/-- `KPFXI` of a lane (R155, R252). -/
def State.opKpfxi (s : State) (ck : Nat) (f : TabF) (e : TabLane) : State × TabOut :=
  let tb := s.tableOf ck e.tbl
  match tb.pfx.find? fun x => x.tokens == e.toks with
  | some x =>
    if f.nf then (s, { lane := e.lane, d := some (tb.rowAddr e.tbl x.slot), xr := some x.seq, sr := some 3 })
    else (s, { lane := e.lane, trap := some (4, 0) })
  | none =>
    match tb.freeSlot with
    | none => (s, { lane := e.lane, sr := some 4 })
    | some slot =>
      let add (tb : Table) : Table := { tb with pfx := tb.pfx ++ [⟨e.toks, slot, e.c⟩], live := tb.live ++ [slot] }
      match s.newRow ck e.tbl slot (leBytes tb.desc.rowBytes (e.c + e.b * 2 ^ 16)) add with
      | .error k => (s, k.stops e.lane)
      | .ok s => (s, { lane := e.lane, d := some (tb.rowAddr e.tbl slot), xr := some e.c, sr := some 0 })

/-- `KMIG` (16 R327, 21 R406): the row moves to shard `b` of the map, and the forwarding entry at the key's first shard follows it, in one step. A row
that is there already is left. -/
def State.opKmig (s : State) (ck : Nat) (e : TabLane) : State × TabOut :=
  match s.mapOf ck e.tbl with
  | none => (s, { lane := e.lane, d := some 2 })
  | some m =>
    let src := s.homeOf ck e.tbl e.a
    let dst := s.shardNum m e.b
    let from_ := s.tableOf ck src
    let into := s.tableOf ck dst
    match from_.lookup e.a with
    | none => (s, { lane := e.lane, d := some 2 })
    | some x =>
      if src = dst then (s, { lane := e.lane, d := some 0 })
      else match into.freeSlot with
        | none => (s, { lane := e.lane, d := some 4 })
        | some slot =>
          match s.rowPieces ck false (from_.rowAddr src x.slot) from_.desc.rowBytes with
          | .ok ps =>
            let row := ps.flatMap fun p => s.rdBytes p.tag p.pa p.n
            match s.newRow ck dst slot row fun t => t.addEntry ⟨e.a, slot⟩ with
            | .error k => (s, k.stops e.lane)
            | .ok s => ((s.updTable ck src fun t => t.delEntry x).putForward ck e.tbl e.a e.b m, { lane := e.lane, d := some 0 })
          | k => (s, k.stops e.lane)

/-! ### Sequence operations -/

/-- Blocks that a pool can still lend (06 R164). -/
def State.lendable (s : State) (ck pool : Nat) : Nat := (s.tableOf ck pool).blocks.length

/-- A reservation of `n` positions is refused (06 R156). -/
def State.resRefused (s : State) (ck : Nat) (t : Table) (n : Nat) : Bool :=
  decide (2 ^ 48 < t.r + n)
    || (if t.desc.win ≠ 0 then decide (max t.c t.desc.sink + t.desc.win < t.r + n)
        else if t.desc.pool ≠ 0 then decide (t.desc.cap + 256 * s.lendable ck t.desc.pool < t.r + n)
        else decide (t.desc.cap < t.r + n))

/-- A pool lends a block for block index `b` of a sequence. DESIGN CHOICE (log entry 36): the spec does not say which of its free blocks goes first,
though that decides the stack on which the borrowed positions lie (10 R307); it is the one of the lowest index. -/
def State.borrow (s : State) (ck t b : Nat) : State :=
  let tb := s.tableOf ck t
  if (find b tb.blocks).isSome then s
  else match (s.tableOf ck tb.desc.pool).blocks with
    | [] => s
    | (pb, id) :: _ =>
      let s := s.updTable ck tb.desc.pool fun p => { p with blocks := erase pb p.blocks }
      let s := s.updTable ck t fun x => { x with blocks := insert b id x.blocks }
      { s with lent := insert id (ck, tb.desc.pool, pb) s.lent }

/-- A dropped windowed sequence takes its blocks again (06 R160). -/
def State.rehouse (s : State) (ck t : Nat) : State :=
  let tb := s.tableOf ck t
  if tb.desc.win ≠ 0 && tb.blocks.isEmpty then s.allocBlocks ck t tb.desc.fixedBlocks else s

/-- Reserve `n` positions for a node with the blocks that they need (06 R156, R164; 10 R307): the first position, none where
it is refused. -/
def State.reserveSeq (s : State) (ck node t n : Nat) : State × Option Nat :=
  let tb := s.tableOf ck t
  if s.resRefused ck tb n then (s, none)
  else
    let s := s.rehouse ck t
    let idx := if tb.desc.win ≠ 0 then [] else (List.range ((tb.r + n - 1) / 256 - tb.r / 256 + 1)).map fun i => tb.r / 256 + i
    let s := s.allocBlocks ck t (idx.filter fun b => decide (b * 256 < tb.desc.cap))
    let s := (idx.filter fun b => decide (tb.desc.cap ≤ b * 256)).foldl (fun s b => s.borrow ck t b) s
    (s.updTable ck t fun x => x.reserve n node, some tb.r)

/-- The subcode with which mark(a, n) traps (06 R157). -/
def Table.markTrap (t : Table) (a n : Nat) : Option Nat :=
  ((List.range n).find? fun i => !(decide (a + i < t.r) && t.isReserved (a + i))).map fun i => if t.r ≤ a + i then 1 else 2

/-- `SQCMT` and `SQABN` of a lane (R254). -/
def State.opMark (s : State) (ck : Nat) (st : PosSt) (e : TabLane) : State × TabOut :=
  match (s.tableOf ck e.tbl).markTrap e.a e.b with
  | some sub => (s, { lane := e.lane, trap := some (7, sub) })
  | none => (s.updTable ck e.tbl fun tb => tb.mark e.a e.b st, { lane := e.lane })

/-- Positions of the submission sequence are committed by a submitter of a level (17 R329, R333). -/
def State.noteSubmit (s : State) (ck t a n lvl : Nat) : State :=
  if t = 3 then
    let c := s.ctx ck
    s.setCtx ck { c with subLvl := (List.range n).foldl (fun m i => insert (a + i) lvl m) c.subLvl }
  else s

/-- Copy slots `a … a+n-1` of one sequence's addresses to the same slots of another (06 R160): where a slot cannot be reached, how that ends. -/
def State.copySlots (s : State) (ck src dst : Nat) : Nat → Nat → Except Checked State
  | 0, _ => .ok s
  | n + 1, a =>
    let row := (s.tableOf ck src).desc.rowBytes
    match s.rowPieces ck false (src * 2 ^ 50 + a * row) row, s.rowPieces ck true (dst * 2 ^ 50 + a * row) row with
    | .ok ps, .ok qs => (s.writeRow qs (ps.flatMap fun p => s.rdBytes p.tag p.pa p.n)).copySlots ck src dst n (a + 1)
    | .ok _, e => .error e
    | e, _ => .error e

/-- The slots of block `b` of a sequence's addresses: its first, and their number; a sink that is no whole number of blocks ends within its last
block (06 R161). -/
def Desc.blockSlots (d : Desc) (b : Nat) : Nat × Nat := (b * 256, if d.win ≠ 0 then min 256 (d.sink - b * 256) else 256)

/-- The destination shares block `b` of the source; a block with 65,535 references is copied (06 R160, R163). -/
def State.shareBlock (s : State) (ck src dst b : Nat) : Except Checked State :=
  match find b (s.tableOf ck src).blocks with
  | none => .ok s
  | some id =>
    let full := match find id s.blockRef with | some e => decide (65535 ≤ e.1) | none => false
    if full then
      let (a, n) := (s.tableOf ck src).desc.blockSlots b
      (s.allocBlocks ck dst [b]).copySlots ck src dst n a
    else
      let s := match find b (s.tableOf ck dst).blocks with | some old => s.unrefBlock old | none => s
      .ok ((s.refBlock id).updTable ck dst fun y => { y with blocks := insert b id y.blocks })

/-- A fork of `p` positions is legal (06 R160, R163). -/
def forkOk (x y : Table) (p : Nat) : Bool :=
  y.desc.kind == 4 && y.r == 0 && decide (p ≤ x.c) && y.desc.rowlg == x.desc.rowlg && y.desc.win == x.desc.win
    && y.desc.sink == x.desc.sink && (if x.desc.win = 0 then decide (p ≤ y.desc.cap) else decide (x.desc.sink ≤ p))

/-- `SQFORK` of a lane (R256; 06 R160, R163). -/
def State.opSqfork (s : State) (ck : Nat) (e : TabLane) : State × TabOut :=
  let dst := e.b / 2 ^ 50
  let x := s.tableOf ck e.tbl
  let y := s.tableOf ck dst
  let p := e.a
  if !(s.ctx ck).descOk y.desc || !forkOk x y p then (s, { lane := e.lane, trap := some (7, 4) })
  else
    let done : Except Checked State := if x.desc.win = 0 then do
        let s ← (List.range (p / 256)).foldlM (fun s b => s.shareBlock ck e.tbl dst b) s
        if p % 256 = 0 then .ok s else (s.allocBlocks ck dst [p / 256]).copySlots ck e.tbl dst (p % 256) (p / 256 * 256)
      else do
        let s ← (List.range (ceilDiv x.desc.sink 256)).foldlM (fun s b => s.shareBlock ck e.tbl dst b) (s.rehouse ck dst)
        let lo := max x.desc.sink (p - x.desc.win)
        (List.range (p - lo)).foldlM (fun s i =>
          s.copySlots ck e.tbl dst 1 (x.desc.sink + (lo + i - x.desc.sink) % x.desc.win)) s
    match done with
    | .ok s => (s.updTable ck dst fun y => { y with r := p, c := p, pos := x.pos.filter fun q => decide (q.1 < p) }, { lane := e.lane })
    | .error k => (s, k.stops e.lane)

/-- Release a sequence's blocks and leave it empty (06 R160, R163). -/
def State.dropSeq (s : State) (ck t : Nat) : State :=
  let ids := (s.tableOf ck t).blocks.map (·.2)
  let s := s.updTable ck t fun x => { x with blocks := [], pos := [], r := 0, c := 0 }
  ids.foldl (fun s id => s.unrefBlock id) s

/-- `SQDROP` of a lane (R256). -/
def State.opSqdrop (s : State) (ck : Nat) (e : TabLane) : State × TabOut :=
  let isRes (q : Nat × PosSt) : Bool := match q.2 with | .reserved _ => true | _ => false
  if (s.tableOf ck e.tbl).pos.any isRes then (s, { lane := e.lane, trap := some (7, 3) })
  else (s.dropSeq ck e.tbl, { lane := e.lane })

/-- `SQLOC` of a lane (06 R161, R257). A dropped windowed sequence has no positions. -/
def State.opSqloc (s : State) (ck : Nat) (e : TabLane) : State × TabOut :=
  let t := s.tableOf ck e.tbl
  let p := e.a
  if t.r ≤ p then (s, { lane := e.lane, sr := some 7 })
  else if t.desc.win ≠ 0 ∧ t.desc.sink ≤ p ∧ p + t.desc.win < t.r then (s, { lane := e.lane, sr := some 5 })
  else
    let st := match t.posSt p with | some (.reserved _) => 9 | some .void => 6 | _ => 0
    (s, { lane := e.lane, d := some (e.tbl * 2 ^ 50 + t.posOff p), sr := some st })

/-! ### `TINFO` -/

/-- DEPTH and NODES of a PREFIX index that is not empty (R242): free values, at least 1, and no fewer nodes than levels (log entry 8). -/
def Table.pfxDepth (t : Table) : Nat := 1 + Config.pfxDepth t.live.length t.dead.length
def Table.pfxNodes (t : Table) : Nat := t.pfxDepth + Config.pfxNodes t.live.length t.dead.length

/-- The value of an item (R242). -/
def State.tinfo (s : State) (ck item t : Nat) : Nat :=
  if item = 0 then (if t = 0 then 0 else if t ≤ 2 then 1 else flagNat ((s.ctx ck).table t).isSome)
  else
    let tb := s.tableOf ck t
    let d := tb.desc
    let keyedKind := d.kind == 1 || d.kind == 2 || d.kind == 3
    match item with
    | 0x01 => d.kind | 0x02 => d.rowlg | 0x03 => d.cap | 0x04 => flagNat d.k16 | 0x05 => flagNat d.uniq
    | 0x06 => d.lcap | 0x07 => d.scope | 0x08 => d.sink | 0x09 => d.win | 0x0A => d.pool
    | 0x0B => if d.kind = 4 then tb.c else 0
    | 0x0C => if d.kind = 4 then tb.r else 0
    | 0x0D => if keyedKind then tb.live.length else 0
    | 0x0E => if keyedKind then tb.dead.length else 0
    | 0x0F => if d.kind = 1 then tb.openCount else 0
    | 0x10 => if d.kind = 1 then tb.tree.depth
              else if d.kind = 3 && !tb.pfx.isEmpty then tb.pfxDepth else 0
    | 0x11 => if d.kind = 1 then tb.tree.nodes
              else if d.kind = 3 && !tb.pfx.isEmpty then tb.pfxNodes else 0
    | 0x12 => d.home
    | 0x40 => 8 | 0x41 => 12 | 0x42 => 8 | 0x43 => 64 | 0x44 => 524288 | 0x45 => 1048576 | 0x46 => 262144
    | 0x47 => 67108864 | 0x48 => s.stackCount | 0x49 => 16 | 0x4A => 24 | 0x4B => s.settings.devid | 0x4C => 103079215104
    | _ => 0

/-! ### The operation and its reply -/

/-- One lane's operation at its point. -/
def State.rakeLane (s : State) (r : Req) (i : Instr) (e : TabLane) : State × TabOut :=
  let ck := r.ctx
  match i with
  | .tinfo f => (s, { lane := e.lane, d := some (s.tinfo ck f.item e.tbl) })
  | .kget _ => s.opKget ck e
  | .kins f => s.opKins ck f e
  | .kdel _ => s.opKdel ck e
  | .kseek f => s.opKseek ck r.node r.who.warp f e
  | .knext _ => s.opStep ck r.node false e
  | .kprev _ => s.opStep ck r.node true e
  | .kclose _ => s.opKclose ck r.node e
  | .kpfx _ => s.opKpfx ck e
  | .kpfxi f => s.opKpfxi ck f e
  | .krecl _ => s.opKrecl ck e
  | .kmig _ => s.opKmig ck e
  | .sqres _ =>
    match s.reserveSeq ck r.node e.tbl e.a with
    | (s, some p) => (s, { lane := e.lane, d := some p, sr := some 0 })
    | (s, none) => (s, { lane := e.lane, sr := some 4 })
  | .sqcmt _ =>
    let (s, o) := s.opMark ck .committed e
    (if o.trap.isNone then s.noteSubmit ck e.tbl e.a e.b ((find r.node s.nodes).elim 0 fun n => n.desc.lvl) else s, o)
  | .sqabn _ => s.opMark ck .void e
  | .sqlen _ => (s, { lane := e.lane, d := some (s.tableOf ck e.tbl).c })
  | .sqfork _ => s.opSqfork ck e
  | .sqdrop _ => s.opSqdrop ck e
  | .sqloc _ => s.opSqloc ck e
  | _ => (s, { lane := e.lane })

/-! ### Shards of other devices (21 R404, R406) -/

/-- The tables that a lane's operation acts on: the shard that holds or would hold its row, and of a `KMIG` also the one that it goes to. -/
def State.shardsOf (s : State) (ck : Nat) (i : Instr) (e : TabLane) : List Nat :=
  match i with
  | .kget _ => [s.homeOf ck e.tbl e.a]
  | .kins _ => [s.homeOf ck e.tbl e.a]
  | .kdel _ => if (s.tableOf ck e.tbl).desc.uniq then [s.homeOf ck e.tbl e.a] else [e.tbl]
  | .kmig _ => (s.mapOf ck e.tbl).elim [] fun m => [s.homeOf ck e.tbl e.a, s.shardNum m e.b]
  | _ => []

/-- The shards of a lane's operation can be reached: a route leads to each device that holds one (21 R404). -/
def State.reachable (s : State) (ck : Nat) (i : Instr) (e : TabLane) : Bool :=
  (s.shardsOf ck i e).all fun t => !s.away ck t || s.routed (t / 2 ^ 14 - 1)

/-- The fault of a lane whose operation no route leads to (21 R404): it is the second stage's, of a table or sequence access. Its address and level are the
model's choice (log entry 38). -/
def noRouteFault (t : Nat) : FaultInfo :=
  { code := 0x18, level := 3, kind := 3, va := t % 2 ^ 14 * 2 ^ 50, page := t % 2 ^ 14 * 2 ^ 50, pageSize := 8192, noRoute := true }

/-- The answer of another device to a keyed operation on a shard that it holds (21 R406): what that device finds is free (log entry 38). A row that moves
here from there brings free bytes, one that moves there from here leaves its slot. -/
def State.farLane (s : State) (ck : Nat) (i : Instr) (e : TabLane) : State × TabOut :=
  let v := Config.freeValue s.fresh
  let s := { s with fresh := s.fresh + 1 }
  let src := s.homeOf ck e.tbl e.a
  let row := (s.tableOf ck e.tbl).rowAddr src (v / 4 % max 1 (s.tableOf ck e.tbl).desc.cap)
  match i with
  | .kget _ => if v % 2 = 0 then (s, { lane := e.lane, d := some row, sr := some 0 }) else (s, { lane := e.lane, sr := some 2 })
  | .kdel _ => (s, { lane := e.lane, sr := some (if v % 2 = 0 then 0 else 2) })
  | .kins f =>
    if v % 4 = 0 then (s, { lane := e.lane, sr := some 4 })
    else if v % 4 = 1 then
      if f.nf then (s, { lane := e.lane, d := some row, sr := some 3 }) else (s, { lane := e.lane, trap := some (4, 0) })
    else (s, { lane := e.lane, d := some row, sr := some 0 })
  | .kmig _ =>
    match s.mapOf ck e.tbl with
    | none => (s, { lane := e.lane, d := some 2 })
    | some m =>
      let dst := s.shardNum m e.b
      let moved (s : State) : State := s.putForward ck e.tbl e.a e.b m
      if s.away ck src then
        if v % 2 = 1 then (s, { lane := e.lane, d := some 2 })
        else if src = dst then (s, { lane := e.lane, d := some 0 })
        else if s.away ck dst then if v % 4 = 0 then (moved s, { lane := e.lane, d := some 0 }) else (s, { lane := e.lane, d := some 4 })
        else match (s.tableOf ck dst).freeSlot with
          | none => (s, { lane := e.lane, d := some 4 })
          | some slot =>
            let d := (s.tableOf ck dst).desc
            let bytes := leBytes d.keyBytes e.a ++ (List.range (d.rowBytes - d.keyBytes)).map fun k => BitVec.ofNat 8 (Config.freeValue (s.fresh + k))
            let s := { s with fresh := s.fresh + d.rowBytes }
            match s.newRow ck dst slot bytes fun t => t.addEntry ⟨e.a, slot⟩ with
            | .error k => (s, k.stops e.lane)
            | .ok s => (moved s, { lane := e.lane, d := some 0 })
      else match (s.tableOf ck src).lookup e.a with
        | none => (s, { lane := e.lane, d := some 2 })
        | some x =>
          if v % 2 = 1 then (s, { lane := e.lane, d := some 4 })
          else (moved (s.updTable ck src fun t => t.delEntry x), { lane := e.lane, d := some 0 })
  | _ => (s, { lane := e.lane })

/-- One lane's operation, here or on the device that holds its shard; where no route leads there, it faults (21 R404). -/
def State.rakeOp (s : State) (r : Req) (i : Instr) (e : TabLane) : State × TabOut :=
  if !s.reachable r.ctx i e then (s, { lane := e.lane, fault := some (noRouteFault e.tbl) })
  else if (s.shardsOf r.ctx i e).any (s.away r.ctx) then s.farLane r.ctx i e else s.rakeLane r i e

/-- The operations of a request's lanes, in ascending order with nothing between (06 R145). -/
def State.rakeEach (s : State) (r : Req) (i : Instr) (ls : List TabLane) : State × List TabOut :=
  ls.foldl (fun (a : State × List TabOut) e => let (s, o) := a.1.rakeOp r i e; (s, a.2 ++ [o])) (s, [])

/-- The operations of a request: one for each lane; a `KMIG` is one operation, whose status goes to every lane (16 R320). -/
def State.rakeAll (s : State) (r : Req) (i : Instr) (ls : List TabLane) : State × List TabOut :=
  match i, ls with
  | .kmig _, e :: _ => let (s, o) := s.rakeOp r i e; (s, ls.map fun q => { o with lane := q.lane })
  | _, _ => s.rakeEach r i ls

end Sys2Proof.Machine
end

