-- ==== Sys2Proof/Machine/Tables.lean ====
section
/-! DEFINITION. The table and sequence class (10 R237–R259) at issue: the checks of R241 that the core makes, and the request
that leaves it. -/

namespace Sys2Proof.Machine

open Issue

/-- The table operand of R238: TBL, or the number in `s`TH. -/
def tabOf (x : Issue) (f : TabF) : Nat := if f.tbl ≠ 0 then f.tbl else x.w.sreg f.th / 2 ^ 50

/-- The table of a number, installed or not. -/
def tabAt (x : Issue) (t : Nat) : Table := (x.ctx.table t).getD {}

/-- Steps 1–3 of R241, with the map of system tables (16 R439) after the first: the trap, if some step fails. `fits` is the
kind condition (06 R141). -/
def tabCheck (x : Issue) (t : Nat) (fits : Desc → Bool) : Option (Nat × Nat) :=
  match x.ctx.table t with
  | none => some (8, 3)
  | some tb =>
    if t ≤ 2 then some (8, 3)
    else if t ≤ 15 && !x.s.sysMapped x.n.ctx x.lvl t then some (3, 0x26)
    else if !x.ctx.descOk tb.desc || !x.s.shardOk x.n.ctx tb.desc || x.s.poison.contains (.index x.n.ctx t) then some (8, 2)
    else if !fits tb.desc then some (8, 1)
    else none

def isSqres : Instr → Bool | .sqres _ => true | _ => false

/-- Issue a request of this class: each executing lane is checked; `mk` makes the rest of the checks and gathers its
operands; of the lanes that pass, those that `keep` leaves send one request. `suspend` says that fetch waits for the reply, `data` gives a
mutation's operand bytes (19 R440). In a REDUNDANT node `SQRES` is performed once; the other mutations wait in the compare buffer for their chunk
(19 R385; log entry 14). -/
def tabIssueIf (x : Issue) (suspend : Bool) (data : Option (TabLane → List Byte)) (tbl : Issue → Nat → Nat) (fits : Desc → Bool)
    (mk : Issue → TabLane → Table → Issue × Option TabLane) (keep : Issue → List TabLane → Issue × List TabLane) : Issue :=
  let one (a : Issue × List TabLane) (l : Nat) : Issue × List TabLane :=
    let t := tbl x l
    match tabCheck x t fits with
    | some (c, b) => (a.1.trap l c b, a.2)
    | none =>
      let (y, r) := mk a.1 { lane := l, tbl := t } (tabAt x t)
      (y, a.2 ++ r.toList)
  let (y, ls) := x.ex.foldl one (x, [])
  let (y, ls) := keep y ls
  if ls.isEmpty then y
  else
    let regs := (x.i.opnds.filter fun o => o.wr).flatMap (regsOf x.w.isSeq)
    let contribs := match data with
      | some g => ls.map fun e => ({ lane := e.lane, parts := [(e.tbl * 2 ^ 50, g e)] } : Contrib)
      | none => []
    let e : Emit := { lanes := ls.map (·.lane), req := some (.table { instr := x.i, at_ := x.at_, lanes := ls }),
                      contribs := contribs, once := isSqres x.i, pend := regs, suspend := suspend }
    { y with emits := y.emits ++ [e] }

/-- Every lane that passes its own checks sends its part. -/
def tabIssue (x : Issue) (suspend : Bool) (data : Option (TabLane → List Byte)) (tbl : Issue → Nat → Nat) (fits : Desc → Bool)
    (mk : Issue → TabLane → Table → Issue × Option TabLane) : Issue :=
  tabIssueIf x suspend data tbl fits mk fun y ls => (y, ls)

/-- The rows that an insert with `NF` would write as the table stands: lanes whose row cannot be written trap or park now, since fetch does not wait for
the reply that would tell (10 R240; log entry 18). -/
def probeRows (y : Issue) (ls : List TabLane) : Issue × List TabLane :=
  let r : Req := { id := 0, who := ⟨y.wk, 32⟩, ctx := y.n.ctx, node := y.nk, unit := y.w.unit, issued := 0, hold := 0,
                   kind := .table { instr := y.i, at_ := y.at_, lanes := ls } }
  let outs := (y.s.rakeAll r y.i ls).2
  let stop (y : Issue) (o : TabOut) : Issue := match o.trap, o.fault with
    | some (c, b), _ => y.trap o.lane c b
    | none, some f => y.park o.lane f
    | none, none => y
  (outs.foldl stop y, ls.filter fun e => outs.any fun o => o.lane == e.lane && o.trap.isNone && o.fault.isNone)

/-- What the lanes that pass send, of an insert with or without `NF`. -/
def insertKeep (nf : Bool) (y : Issue) (ls : List TabLane) : Issue × List TabLane := if nf then probeRows y ls else (y, ls)

/-- The lanes whose shard no route leads to park at the issue of an operation whose reply fetch does not wait for (21 R404). -/
def routeKeep (y : Issue) (ls : List TabLane) : Issue × List TabLane :=
  let ok (e : TabLane) : Bool := y.s.reachable y.n.ctx y.i e
  ((ls.filter fun e => !ok e).foldl (fun (y : Issue) e => y.park e.lane (noRouteFault e.tbl)) y, ls.filter ok)

/-- A sequence mutation needs write permission, which no context has for table 7 (16 R439): the lane parks at a fault S1WRITE (18 R359). -/
def ifWritable (y : Issue) (l t : Nat) (go : Issue × Option TabLane) : Issue × Option TabLane :=
  if t = 7 then (y.park l { code := 0x11, level := 3, kind := 3, va := 7 * 2 ^ 50, page := 7 * 2 ^ 50, pageSize := 8192 }, none) else go

/-- Every lane that passes sends its operands as they are. -/
def plainArgs (args : Issue → TabLane → TabLane) (y : Issue) (e : TabLane) (_ : Table) : Issue × Option TabLane := (y, some (args y e))

/-- Step 4 of R241 for KW: it must be the table's key width. -/
def keyArgs (kw : Bool) (args : Issue → TabLane → TabLane) (y : Issue) (e : TabLane) (t : Table) : Issue × Option TabLane :=
  if kw != t.desc.k16 then (y.trap e.lane 8 4, none) else (y, some (args y e))

def keyed (d : Desc) : Bool := d.kind == 1 || d.kind == 2
def isSequence (d : Desc) : Bool := d.kind == 4

/-- Read bytes `skip … n-1` of an operand in the node's scratchpad partition (R241 step 7): alignment, then the partition. DESIGN CHOICE (log entry 88):
an empty operand beyond the partition, of a `KPFX` with L = 0, traps as any other; the spec does not say. -/
def spadOperand (y : Issue) (e : TabLane) (off skip n align : Nat) (go : Issue → List Byte → TabLane) : Issue × Option TabLane :=
  if off % align ≠ 0 then (y.trap e.lane 2 4, none)
  else if y.n.partSize < off + n then (y.trap e.lane 3 0x21, none)
  else
    let at_ := y.n.partBase y.w.unit + off + skip
    let y := if y.s.spPoisoned y.w.unit at_ (n - skip) then { y with kill := some (0x12, 0, 0) } else y
    (y, some (go y (y.s.spBytes y.w.unit at_ (n - skip))))

/-- Numbers of 32 bits, low byte first, in a list of bytes. -/
def words32 : List Byte → List Nat
  | a :: b :: c :: d :: t => ofLe [a, b, c, d] :: words32 t
  | _ => []

/-- `TINFO` (R242): exempt from step 1 for table 2 and for the item VALID; an item of the wrong range traps. DESIGN CHOICE (log entry 35): it reads the
descriptor of a system table that the level does not map, since R314 has software read the window of its trap sequences so; R439 speaks of
accesses to the table. -/
def execTinfo (f : TabF) (s : State) : Host.Outcome State Fault Refusal :=
  s.issue (.tinfo f) f.p fun x =>
    let t := x.w.sreg f.a / 2 ^ 50
    let tableItem := decide (f.item ≤ 0x12)
    let sysItem := decide (0x40 ≤ f.item) && decide (f.item ≤ 0x4C)
    let bad : Option (Nat × Nat) :=
      if f.item = 0 then none
      else if t = 2 then (if sysItem then none else some (8, 6))
      else match x.ctx.table t with
        | none => some (8, 3)
        | some tb =>
          if t < 2 then some (8, 3)
          else if !x.ctx.descOk tb.desc || !x.s.shardOk x.n.ctx tb.desc || x.s.poison.contains (.index x.n.ctx t) then some (8, 2)
          else if tableItem then none else some (8, 6)
    match bad with
    | some (c, b) => x.trapLanes x.ex c b
    | none =>
      if x.ex.isEmpty then x
      else
        let e : Emit := { lanes := x.ex, pend := regsOf x.w.isSeq (x.opnd 0),
                          req := some (.table { instr := x.i, at_ := x.at_, lanes := x.ex.map fun l => { lane := l, tbl := t } }) }
        { x with emits := x.emits ++ [e] }

/-- `KGET` (R243). -/
def execKget (f : TabF) (s : State) : Host.Outcome State Fault Refusal :=
  s.issue (.kget f) f.p fun x =>
    tabIssueIf x false none (fun x _ => tabOf x f) (fun d => d.kind == 0 || keyed d)
      (keyArgs f.kw fun y e => { e with a := y.val 1 e.lane }) routeKeep

/-- The bytes of a key in a signature (20 R440). -/
def keyData (kw : Bool) (e : TabLane) : List Byte := leBytes (if kw then 16 else 8) e.a

/-- `KINS` (R244): with `IMG` the image beyond the key is read at issue. Without `NF` fetch waits for the reply (R240). -/
def execKins (f : TabF) (s : State) : Host.Outcome State Fault Refusal :=
  s.issue (.kins f) f.p fun x =>
    tabIssueIf x (!f.nf) (some (keyData f.kw)) (fun x _ => tabOf x f) keyed (fun y e t =>
      if f.kw != t.desc.k16 then (y.trap e.lane 8 4, none)
      else
        let e := { e with a := y.val 1 e.lane }
        if f.img then spadOperand y e (y.val 3 e.lane) t.desc.keyBytes t.desc.rowBytes 16 fun _ bs => { e with data := bs }
        else (y, some e)) (insertKeep f.nf)

/-- `KDEL` (R245): by key, or by slot in a non-unique table. -/
def execKdel (f : TabF) (s : State) : Host.Outcome State Fault Refusal :=
  s.issue (.kdel f) f.p fun x =>
    tabIssueIf x false (some (keyData f.kw)) (fun x _ => tabOf x f) keyed (fun y e t =>
      if f.kw != (t.desc.uniq && t.desc.k16) then (y.trap e.lane 8 4, none)
      else (y, some { e with a := y.val 1 e.lane })) routeKeep

/-- `KSEEK` (R248). -/
def execKseek (f : TabF) (s : State) : Host.Outcome State Fault Refusal :=
  s.issue (.kseek f) f.p fun x =>
    tabIssue x false none (fun x _ => tabOf x f) (fun d => d.kind == 1)
      (keyArgs f.kw fun y e => { e with a := y.val 1 e.lane, b := y.val 2 e.lane })

/-- The forms that name a cursor quad in A (R249, R250). -/
def cursorIssue (x : Issue) : Issue :=
  tabIssue x true none (fun x l => x.val 1 l % 2 ^ 14) (fun d => d.kind == 1) (plainArgs fun y e => { e with a := y.val 1 e.lane })

/-- `KNEXT` (R249). -/
def execKnext (f : TabF) (s : State) : Host.Outcome State Fault Refusal := s.issue (.knext f) f.p cursorIssue

/-- `KPREV` (R249). -/
def execKprev (f : TabF) (s : State) : Host.Outcome State Fault Refusal := s.issue (.kprev f) f.p cursorIssue

/-- `KCLOSE` (R250). -/
def execKclose (f : TabF) (s : State) : Host.Outcome State Fault Refusal := s.issue (.kclose f) f.p cursorIssue

/-- `KPFX` (R251): the query is read at issue. -/
def execKpfx (f : TabF) (s : State) : Host.Outcome State Fault Refusal :=
  s.issue (.kpfx f) f.p fun x =>
    tabIssue x false none (fun x _ => tabOf x f) (fun d => d.kind == 3) fun y e _ =>
      let n := y.val 2 e.lane
      if 65536 < n then (y.trap e.lane 8 7, none)
      else spadOperand y e (y.val 1 e.lane) 0 (4 * n) 4 fun _ bs => { e with b := n, toks := words32 bs }

/-- `KPFXI` (R252). Without `NF` fetch waits for the reply (R240). -/
def execKpfxi (f : TabF) (s : State) : Host.Outcome State Fault Refusal :=
  s.issue (.kpfxi f) f.p fun x =>
    tabIssueIf x (!f.nf) (some fun e => leBytes 4 e.a ++ leBytes 4 e.b ++ leBytes 4 e.c) (fun x _ => tabOf x f) (fun d => d.kind == 3)
      (fun y e _ =>
        let n := y.val 2 e.lane
        if n % 16 ≠ 0 || n < 16 || 65536 < n then (y.trap e.lane 8 7, none)
        else spadOperand y e (y.val 1 e.lane) 0 (4 * n) 4 fun y bs =>
          { e with a := y.val 1 e.lane, b := n, c := y.val 3 e.lane % 2 ^ 14, toks := words32 bs }) (insertKeep f.nf)

/-- `KRECL` (R246). -/
def execKrecl (f : TabF) (s : State) : Host.Outcome State Fault Refusal :=
  s.issue (.krecl f) f.p fun x =>
    tabIssue x false (some fun _ => []) (fun x _ => x.w.sreg f.a / 2 ^ 50) (fun d => keyed d || d.kind == 3) (plainArgs fun _ e => e)

/-- Step 6 of R241 for a number of positions. -/
def countOk (n : Nat) : Bool := decide (1 ≤ n) && decide (n ≤ 65536)

/-- `SQRES` (R253). -/
def execSqres (f : TabF) (s : State) : Host.Outcome State Fault Refusal :=
  s.issue (.sqres f) f.p fun x =>
    tabIssue x false (some fun e => leBytes 4 e.a) (fun x _ => tabOf x f) (fun d => isSequence d && !d.pl) fun y e _ =>
      let n := y.val 1 e.lane
      if countOk n then ifWritable y e.lane e.tbl (y, some { e with a := n }) else (y.trap e.lane 7 5, none)

/-- `SQCMT` and `SQABN` (R254). -/
def markIssue (x : Issue) (f : TabF) : Issue :=
  tabIssue x true (some fun e => leBytes 8 e.a ++ leBytes 4 e.b) (fun x _ => tabOf x f) isSequence fun y e _ =>
    let n := y.val 2 e.lane
    if countOk n then ifWritable y e.lane e.tbl (y, some { e with a := y.val 1 e.lane, b := n }) else (y.trap e.lane 7 5, none)

/-- `SQCMT` (R254). -/
def execSqcmt (f : TabF) (s : State) : Host.Outcome State Fault Refusal := s.issue (.sqcmt f) f.p fun x => markIssue x f

/-- `SQABN` (R254). -/
def execSqabn (f : TabF) (s : State) : Host.Outcome State Fault Refusal := s.issue (.sqabn f) f.p fun x => markIssue x f

/-- `SQLEN` (R255). -/
def execSqlen (f : TabF) (s : State) : Host.Outcome State Fault Refusal :=
  s.issue (.sqlen f) f.p fun x =>
    tabIssue x false none (fun x _ => x.w.sreg f.a / 2 ^ 50) isSequence (plainArgs fun _ e => e)

/-- `SQWAIT` (R255): the lanes wait until C reaches their targets; a trailing copy of a REDUNDANT node only takes the value
(19 R386). -/
def execSqwait (f : TabF) (s : State) : Host.Outcome State Fault Refusal :=
  s.issue (.sqwait f) f.p fun x =>
    let y := tabIssue x false none (fun x _ => tabOf x f) isSequence fun y e _ =>
      let t := y.val 1 e.lane
      if 2 ^ 48 < t then (y.trap e.lane 7 5, none) else (y, some { e with a := t })
    if x.red && x.w.copy != 0 then y
    else
      let ls := y.emits.flatMap (·.lanes)
      let wait (l : Nat) : Wait := .sqwait (tabOf x f) (x.val 1 l) f.d
      { y with
        w := ls.foldl (fun (w : Warp) l => w.setLane l fun z => { z with st := .waiting, wait := wait l }) y.w
        emits := y.emits.map fun e => { e with pend := [] } }

/-- `SQFORK` (R256): step 1 of R241 also holds for the destination, and so does the map of system tables (16 R439). -/
def execSqfork (f : TabF) (s : State) : Host.Outcome State Fault Refusal :=
  s.issue (.sqfork f) f.p fun x =>
    tabIssue x true (some fun e => leBytes 8 e.a ++ leBytes 8 e.b) (fun x _ => tabOf x f) isSequence fun y e _ =>
      let h := y.val 3 e.lane
      let t := h / 2 ^ 50
      if t ≤ 2 || (x.ctx.table t).isNone then (y.trap e.lane 8 3, none)
      else if t ≤ 15 && !x.s.sysMapped x.n.ctx x.lvl t then (y.trap e.lane 3 0x26, none)
      else ifWritable y e.lane t (y, some { e with a := y.val 1 e.lane, b := h })

/-- `SQDROP` (R256). -/
def execSqdrop (f : TabF) (s : State) : Host.Outcome State Fault Refusal :=
  s.issue (.sqdrop f) f.p fun x =>
    tabIssue x true (some fun _ => []) (fun x l => x.val 1 l / 2 ^ 50) isSequence (fun y e _ => ifWritable y e.lane e.tbl (y, some e))

/-- `SQLOC` (R257). -/
def execSqloc (f : TabF) (s : State) : Host.Outcome State Fault Refusal :=
  s.issue (.sqloc f) f.p fun x =>
    tabIssue x false none (fun x _ => tabOf x f) isSequence (plainArgs fun y e => { e with a := y.val 1 e.lane })

end Sys2Proof.Machine
end

