-- ==== Sys2Proof/Machine/TabEvents.lean ====
section
/-! DEFINITION. What happens to table and sequence requests after they have left their core: the operation at its point (06 R145), the reply
(10 R240), and the release of waiting lanes (10 R255). -/

namespace Sys2Proof.Machine

open Issue

/-- An operation whose reply fetch waits for traps or faults precisely with it; an insert with `NF`, a `KGET` and a `KDEL` do not suspend fetch and have
no way to (10 R240): where a row that could be written, or a shard that could be reached, at the issue no longer can, the request stays at the rake
unit until it can (log entries 18 and 38). -/
def State.rowsBlock (s : State) (r : Req) (t : TabReq) : Bool :=
  (match t.instr with | .kins f => f.nf | .kpfxi f => f.nf | .kget _ => true | .kdel _ => true | _ => false)
    && (s.rakeAll r t.instr t.lanes).2.any fun o => o.trap.isSome || o.fault.isSome

/-- A request at the rake units may take its point: none of its warp's stands before it, no earlier command of its lanes is still to read or write rows
that it may write (24 R435), and nothing that it could only tell fetch of stops it. -/
def State.rakeReady (s : State) (r : Req) : Bool :=
  (match s.rakeQ.find? fun q => q.who.warp == r.who.warp with | some q => q.id == r.id | none => false) && !s.reqBehind r
    && (match r.kind with | .table t => !s.rowsBlock r t | _ => true)

/-- What a node that has ended had reserved or opened meanwhile goes (06 R148, R159), and the cursors that a request has opened for lanes that have exited
meanwhile. -/
def State.sweepEnded (s : State) (r : Req) : State :=
  match find r.node s.nodes with
  | some n =>
    if n.st.final then (s.abandonNode r.ctx r.node).closeNodeCursors r.ctx r.node
    else
      let gone (l : Nat) : Bool := (find r.who.warp s.warps).elim true fun w => (w.lane l).st == .exited
      if r.lanes.any gone then s.closeCursors r.ctx r.who.warp (r.lanes.filter gone) else s
  | none => s

/-- `RAKE_OPERATION` (06 R145): the lanes of a request take their points in ascending order, with nothing between. -/
def execRakeOperation (id : Nat) (s : State) : Host.Outcome State Fault Refusal :=
  match s.rakeQ.find? fun r => r.id == id with
  | none => .next s
  | some r =>
    if !s.rakeReady r then .next s
    else match r.kind with
      | .table t =>
        let s := { s with rakeQ := s.rakeQ.filter fun q => q.id != id }
        if s.poisonedEntry id then .next (s.loseEntry r)
        else match t.instr with
        | .sqwait _ => .next (s.settle r)
        | _ =>
          let (s, outs) := s.rakeAll r t.instr t.lanes
          let s := (s.sweepEnded r).settle r
          .next { s with tabRes := s.tabRes ++ [{ id := id, warp := r.who.warp, instr := t.instr, at_ := t.at_, outs := outs }] }
      | _ => .next { s with rakeQ := s.rakeQ.filter fun q => q.id != id }

/-- Work on a warp on behalf of an instruction that it has issued. -/
def State.replyIssue (s : State) (wk : Nat) (i : Instr) (at_ : Nat) (ls : List Nat) : Option Issue :=
  (find wk s.warps).bind fun w => (find w.node s.nodes).map fun n =>
    { s := s, wk := wk, w := w, nk := w.node, n := n, i := i, at_ := at_, act := ls, ex := ls }

/-- The parks and traps of a reply take place, and the warp goes back. -/
def Issue.settle (x : Issue) (leave : Bool) : State :=
  let x := if leave then x.leaveParked else x
  let x := x.parkAll.takeTraps
  let s := (x.s.setWarp x.wk (releaseMasks x.w)).setNode x.nk x.n
  match x.kill with
  | some (r, c, sub) => s.killNode x.nk r c sub
  | none => s

/-- A warp that a reply is for takes it: the registers that the outcome changes are written, the others are no longer pending, fetch resumes, and the
lanes that trap or fault form fragments. -/
def State.landReply (s : State) (r : TabRes) (wk : Nat) : State :=
  match s.replyIssue wk r.instr r.at_ (r.outs.map (·.lane)) with
  | none => s
  | some x =>
    let mine := x.w.pend.any (fun p => p.req == r.id) || x.w.suspended == some r.id
    let susp := x.w.suspended == some r.id
    let w := x.w
    let x := { x with w := { w with pend := w.pend.filter fun p => p.req != r.id
                                    suspended := if susp then none else w.suspended } }
    let x := if mine then r.outs.foldl (fun (x : Issue) o => x.deliver o.lane (.tab o)) x else x
    x.settle susp

/-- The other copies of a warp of a REDUNDANT node (19 R386). -/
def State.otherCopies (s : State) (wk : Nat) : List Nat :=
  ((find wk s.warps).bind fun w => s.pairAt w.node w.idx).elim [] fun p => (p.copies.map (·.warp)).filter fun k => k != wk

/-- `TABLE_REPLY` (10 R240): the reply comes to its warp, and to the other copies that wait for it (19 R386). -/
def execTableReply (id : Nat) (s : State) : Host.Outcome State Fault Refusal :=
  match s.tabRes.find? fun r => r.id == id with
  | none => .next s
  | some r =>
    let s := { s with tabRes := s.tabRes.filter fun q => q.id != id }
    match find r.warp s.warps with
    | none => .next s
    | some w =>
      let s := (r.warp :: s.otherCopies r.warp).foldl (fun (s : State) k => s.landReply r k) s
      .next (r.outs.foldl (fun (s : State) o => s.fillLog w.node r.warp id o.lane (.tab o)) s)

/-- Record what a waiting lane of the leading copy received in its last open entry of the load log (19 R386). -/
def State.fillLast (s : State) (nk wk lane : Nat) (v : LogVal) : State :=
  match find nk s.nodes, find wk s.warps with
  | some n, some w =>
    match n.pair w.idx with
    | none => s
    | some p =>
      match (p.log.filter fun e => e.lane == lane && e.val.isNone).getLast? with
      | none => s
      | some last =>
        let fill (e : LogEnt) : LogEnt := if e.req = last.req ∧ e.lane = lane then { e with val := some v } else e
        s.setPairAt nk { p with log := p.log.map fill }
  | _, _ => s

/-- The lane's `SQWAIT` has reached its rake unit. -/
def State.waitArrived (s : State) (wk lane : Nat) : Bool :=
  !(s.held ++ s.rakeQ).any fun r => r.who.warp == wk && r.lanes.contains lane
    && (match r.kind with | .table t => (match t.instr with | .sqwait _ => true | _ => false) | _ => false)

/-- The committed length that a waiting lane would be released with. -/
def State.sqwaitHit (s : State) (wk lane : Nat) : Option (Nat × Nat) :=
  (find wk s.warps).bind fun w =>
    match (w.lane lane).st, (w.lane lane).wait with
    | .waiting, .sqwait t target d =>
      let c := ((find w.node s.nodes).elim 0 fun n => (s.tableOf n.ctx t).c)
      if target ≤ c && s.waitArrived wk lane then some (c, d) else none
    | _, _ => none

/-- A waiting lane runs on with the C that it observed. -/
def State.sqwaitLane (s : State) (r lane : Nat) : State :=
  match s.sqwaitHit r lane, find r s.warps with
  | some (c, d), some w =>
    let s := s.setWarp r ((w.setLane lane fun y => { y with st := .running, wait := .none }).wrReg .vp d lane c)
    if w.copy = 0 then s.fillLast w.node r lane (.tab { lane := lane, d := some c }) else s
  | _, _ => s

/-- The lanes that wait at the same `SQWAIT` as a lane: on its sequence, and to go on where it goes on. -/
def Warp.sqwaitMates (w : Warp) (lane : Nat) : List Nat :=
  let key (l : Nat) : Option (Nat × Nat) := match (w.lane l).wait with | .sqwait t _ _ => some (t, (w.lane l).pc) | _ => none
  allLanes.filter fun l => key l == key lane

/-- `SQWAIT_RELEASE` (R255): the lanes of one `SQWAIT` that C has reached run on, ascending, with no other operation on the sequence between
(15 R308). -/
def execSqwaitRelease (r lane : Nat) (s : State) : Host.Outcome State Fault Refusal :=
  match s.sqwaitHit r lane, find r s.warps with
  | some _, some w => .next ((w.sqwaitMates lane).foldl (fun (s : State) l => s.sqwaitLane r l) s)
  | _, _ => .next s

/-- The first table event that is due. -/
def State.tabEvent (s : State) : Option (Host.Outcome State Fault Refusal) :=
  firstDue (s.rakeQ.filter s.rakeReady) (fun r => execRakeOperation r.id s)
    <|> firstDue s.tabRes (fun r => execTableReply r.id s)
    <|> firstDue ((s.lanesWaiting fun _ y => match y.wait with | .sqwait _ _ _ => true | _ => false).filter
          fun e => (s.sqwaitHit e.1 e.2).isSome) (fun e => execSqwaitRelease e.1 e.2 s)

end Sys2Proof.Machine
end

