-- ==== Sys2Proof/Machine/Accept.lean ====
section
/-! DEFINITION. Launch acceptance (17 R329–R333; 01 R13, R20, R21; 12 R299, R300): what Saltern reads of a launch, the checks in their
order, and the launch that it makes. -/

namespace Sys2Proof.Machine

/-! ### Descriptors as they are read -/

/-- A graph descriptor (R330). -/
structure Graph where
  nodea : Nat
  grpa : Nat
  codea : Nat
  codesz : Nat
  tag : Nat
  pdl : Nat
  nnodes : Nat
  rsvd : Bool
  dbg : Bool
  deriving DecidableEq, Repr

def Graph.ofNat (g : Nat) : Graph :=
  { nodea := bitsAt g 448 64, grpa := bitsAt g 384 64, codea := bitsAt g 320 64, codesz := bitsAt g 288 32, tag := bitsAt g 256 32,
    pdl := bitsAt g 224 32, nnodes := bitsAt g 192 32, rsvd := bitsAt g 1 191 != 0, dbg := bitAt g 0 }

/-- A node descriptor as read: its fields, its successors where they can be read, and what R331 and R332 say of it. -/
structure NodeIn where
  desc : NodeDesc
  limit : Bool
  rsvd : Bool
  deriving DecidableEq, Repr

/-- A tile operand entry (R331). -/
def tileOpOf (e : Nat) : TileOp := { tbl := bitsAt e 0 14, wr := bitAt e 14, lo := bitsAt e 64 64, hi := bitsAt e 128 64 }

/-- A cast entry breaks no reserved bit (12 R299). -/
def castRsvd (e : Nat) : Bool := bitsAt e 56 8 != 0 || bitsAt e 22 10 != 0

/-- The fields of a node descriptor (R331, R332), given its 1,024 bytes as a number. -/
def nodeDescOf (d : Nat) : NodeDesc :=
  let h := bitsAt d 0 512
  { pan := bitAt h 0, cast := bitAt h 1, red := bitAt h 2, spill := bitAt h 3, lvl := bitsAt h 4 2, prio := bitsAt h 8 3,
    c := bitsAt h 16 5, w := bitsAt h 24 7, n := bitsAt h 32 8, t := bitsAt h 40 5, scr := bitsAt h 48 5, l := bitsAt h 64 15,
    age := if bitsAt h 79 8 = 0 then 64 else bitsAt h 79 8, entry := bitsAt h 128 32, pred := bitsAt h 160 16,
    spilla := bitsAt h 320 64
    params := (List.range 15).map fun k => BitVec.ofNat 64 (bitsAt d (8 * (0x40 + 8 * k)) 64)
    qbind := (List.range 16).map fun k => bitsAt d (8 * (0xC0 + k)) 8
    casts := (List.range 16).map fun k => BitVec.ofNat 64 (bitsAt d (8 * (0xD0 + 8 * k)) 64)
    tileOps := (List.range (min 16 (bitsAt h 56 5))).map fun k => tileOpOf (bitsAt d (8 * (0x150 + 24 * k)) 192) }

/-- The fields of a node are within their limits (R332, 01 R13, R18; 19 R382), its successor list apart. -/
def nodeLimits (d : Nat) (n : NodeDesc) (codesz : Nat) : Bool :=
  let nops := bitsAt d 56 5
  decide (1 ≤ n.c) && decide (n.c ≤ if n.pan then 16 else 8) && decide (1 ≤ n.w) && decide (n.w ≤ if n.pan then 4 else 64)
    && decide (1 ≤ n.l) && decide (n.l ≤ 32 * n.c * n.w) && n.n % 16 == 0 && decide (16 ≤ n.n) && decide (n.n ≤ 224)
    && decide (n.t ≤ if n.pan then 0 else 16) && decide (n.scr ≤ 16) && decide (nops ≤ 16) && decide (n.lvl ≤ 2)
    && n.entry % 4 == 0 && decide (n.entry < codesz) && (n.spill || n.spilla == 0) && !(n.pan && n.red)
    && (!n.red || (n.t == 0 && !n.cast && n.qbind.all fun b => !bitAt b 7))
    && (n.cast || n.casts.all fun e => e == 0)
    && (n.tileOps.all fun t => decide (3 ≤ t.tbl))
    && bitsAt d (8 * (0x150 + 24 * min 16 nops)) (192 * (16 - min 16 nops)) == 0
    && decide (bitsAt d 192 32 ≤ 65535)

/-- Some reserved bit of a node descriptor is not 0 (R331, R332; 12 R299). -/
def nodeRsvd (d : Nat) (n : NodeDesc) : Bool :=
  bitsAt d 384 128 != 0 || bitsAt d 224 32 != 0 || bitsAt d 176 16 != 0 || bitsAt d 87 41 != 0 || bitsAt d 61 3 != 0
    || bitsAt d 53 3 != 0 || bitsAt d 45 3 != 0 || bitAt d 31 || bitsAt d 21 3 != 0 || bitsAt d 11 5 != 0 || bitsAt d 6 2 != 0
    || bitsAt d (8 * 0xB8) 64 != 0 || bitsAt d (8 * 0x2D0) (8 * 304) != 0
    || ((List.range (min 16 (bitsAt d 56 5))).any fun k => bitsAt d (8 * (0x150 + 24 * k) + 15) 49 != 0)
    || (n.qbind.any fun b => bitsAt b 4 3 != 0) || (n.casts.any fun e => castRsvd e.toNat)

/-- Read a number of `n` bytes of a context. -/
def State.rdNum (s : State) (ck va n : Nat) : Option Nat := (s.rdVirt ck (va % 2 ^ 64) n).map ofLe

/-- Read node `i` of a launch. -/
def State.readNode (s : State) (ck : Nat) (g : Graph) (i : Nat) : Option NodeIn :=
  (s.rdNum ck (g.nodea + 1024 * i) 1024).map fun d =>
    let n := nodeDescOf d
    let nsucc := bitsAt d 192 32
    let succ := if nsucc ≤ 65535 then s.rdNum ck (bitsAt d 256 64) (2 * nsucc) else none
    let ss := match succ with | some x => (List.range nsucc).map fun k => bitsAt x (16 * k) 16 | none => []
    { desc := { n with succ := ss }, limit := !(nodeLimits d n g.codesz && succ.isSome && ss.all fun k => decide (k < g.nnodes)),
      rsvd := nodeRsvd d n }

/-- A group entry as read (01 R20). -/
structure GroupIn where
  group : Group
  moff : Nat
  mcnt : Nat
  rsvd : Bool
  deriving DecidableEq, Repr

/-- Read the group table (01 R20): 256 entries; none where it cannot be read. An array longer than R20
allows that cannot be read names no member (log entry 51). -/
def State.readGroups (s : State) (ck grpa : Nat) : Option (List GroupIn) :=
  if grpa = 0 then some []
  else (List.range 256).mapM fun (i : Nat) => (s.rdNum ck (grpa + 16 * i) 16).bind fun e =>
    let moff := bitsAt e 96 32
    let mcnt := bitsAt e 64 32
    match s.rdNum ck (grpa + moff) (4 * mcnt), decide (2 ^ 25 < mcnt) with
    | none, false => none
    | ms, _ =>
      let m := ms.elim [] fun x => (List.range mcnt).map fun k => bitsAt x (32 * k) 32
      some { group := { bar := bitAt e 0, win := bitAt e 1, pair := bitAt e 2, members := m.map fun x => (bitsAt x 16 16, bitsAt x 0 9) },
             moff := moff, mcnt := mcnt, rsvd := bitsAt e 3 61 != 0 || m.any fun x => bitsAt x 9 7 != 0 }

/-! ### Gangs and channel sets -/

/-- Nodes that stand together: those of a BAR or WIN group over more than one node (01 R21), and those that bind a
channel (12 R300). -/
def together (gs : List Group) (ns : List NodeDesc) : List (List Nat) :=
  let gangs := (gs.filter fun g => g.bar || g.win).map fun g => distinct (g.members.map (·.1))
  let chans := (List.range 16).map fun c =>
    ((ns.zipIdx).filter fun e => !e.1.cast && e.1.qbind.any fun b => bitAt b 7 && b % 16 == c).map (·.2)
  (gangs ++ chans).filter fun l => decide (2 ≤ l.length)

/-- The nodes that a node is dispatched with; `fuel` bounds the rounds of merging. -/
def mergeSets (sets : List (List Nat)) : Nat → List Nat → List Nat
  | 0, l => l
  | fuel + 1, l =>
    let m := sets.foldl (fun (l : List Nat) t => if t.any l.contains then l ++ t.filter fun i => !l.contains i else l) l
    if m.length = l.length then l else mergeSets sets fuel m

/-- The gang of a node, ascending (01 R21, 12 R300). -/
def gangOf (gs : List Group) (ns : List NodeDesc) (i : Nat) : List Nat :=
  let g := mergeSets (together gs ns) ns.length [i]
  (List.range ns.length).filter g.contains

/-! ### Placement of an entry (17 R338, R339) -/

/-- The core index of a node that a WIN group's members of that node lie on. -/
def winIndex (g : Group) (i w : Nat) : Option Nat := (g.members.find? fun m => m.1 == i).map fun m => m.2 / max 1 w

/-- The core sets that a node may have in a cluster or stack, those of the lowest-numbered units first (R338), where each WIN group that another
node has placed keeps its core (01 R21). `mine` gives the node's core index in each of its WIN groups. -/
def State.coreSets (s : State) (room : Bool) (n : Node) (group : List Nat) (wins mine : List (Nat × Nat)) : List (List Nat) :=
  (choose (group.filter (s.fits room n)) n.desc.c).filter fun us =>
    (room || us != n.units) && mine.all fun g => match find g.1 wins with | some u => us[g.2]? == some u | none => true

/-- A node on a core set, with runs there for its partition; the further copies of a REDUNDANT node on dies of their own (19 R382, R389). A
placed node counts as running for the next. -/
def State.placeOn (s : State) (room : Bool) (k : Nat) (n : Node) (us : List Nat) : Option State :=
  let add (n : Node) (us : List Nat) : Node := { n with banks := n.banks ++ s.runsOn n us }
  let n1 : Node := add { n with units := us, units2 := [], units3 := [], banks := [], st := .running } us
  let at_ (n : Node) : State := { s with nodes := insert k n s.nodes }
  let second (n : Node) : Option Node :=
    if n.desc.red then ((at_ n).fitCopy room n (us.map fun u => u / 96) true).map fun v => add { n with units2 := v } v else some n
  let third (m : Node) : Option Node :=
    if n.units3.isEmpty then some m
    else ((at_ m).fitCopy room m (m.allUnits.map fun u => u / 96) false).map fun v => add { m with units3 := v } v
  ((second n1).bind third).map at_

/-- Place the nodes of an entry one after another on a cluster for CORE nodes and a stack for PAN nodes, going back on a choice that leaves
a later node without a place (R339). `wins` holds the core of each WIN group placed so far. -/
def placeNodes (room : Bool) (gs : List Group) (cluster stack : Nat) : List Nat → List (Nat × Nat) → State → Option State
  | [], _, s => some s
  | k :: t, wins, s =>
    match find k s.nodes with
    | none => none
    | some n =>
      let mine := (gs.zipIdx.filter fun e => e.1.win).filterMap fun e => (winIndex e.1 n.idx n.desc.w).map fun j => (e.2, j)
      (s.coreSets room n (if n.desc.pan then stackUnits stack else clusterUnits cluster) wins mine).findSome? fun us =>
        (s.placeOn room k n us).bind fun s =>
          placeNodes room gs cluster stack t (mine.foldl (fun m g => match us[g.2]? with | some u => insert g.1 u m | none => m) wins) s

/-- Bytes of a declared range (R338): rows or slots of the range times their size. -/
def rangeBytes (t : Table) (o : TileOp) : Nat :=
  let n := if t.desc.kind = 0 || t.desc.kind = 4 then o.hi - o.lo
           else (t.index.filter fun e => decide (o.lo ≤ e.key) && decide (e.key < o.hi)).length
  n * t.desc.rowBytes

/-- Ranks by score, highest first, ties to the lower number. -/
def byScore (score : Nat → Nat) (n : Nat) : List Nat :=
  (List.range n).foldl (fun l i =>
    let (a, b) := (l.takeWhile fun j => decide (score i ≤ score j), l.dropWhile fun j => decide (score i ≤ score j))
    a ++ [i] ++ b) []

/-- The dies in the order in which a node prefers them (R338). -/
def State.dieOrder (s : State) (n : Node) : List Nat :=
  byScore (fun d => (n.desc.tileOps.map fun o =>
    match (s.ctx n.ctx).table o.tbl with
    | some t => if t.desc.home / 8 = d then rangeBytes t o else 0
    | none => 0).sum) 8

/-- Positions `lo` up to `hi` of a sequence meet its block of an index (06 R161, 10 R307): of a windowed one a block of the sink, or one of the ring, through
which later positions come round. -/
def Table.blockMeets (t : Table) (lo hi b : Nat) : Bool :=
  let s := t.desc.sink
  let meets (a n x : Nat) : Bool := decide (a < x + 256) && decide (x < a + n)
  if t.desc.win = 0 then meets lo (hi - lo) (b * 256) && decide (lo < hi)
  else if b < ceilDiv s 256 then decide (lo < min hi (min s ((b + 1) * 256))) && decide (b * 256 < hi)
  else
    let a := max lo s - s
    let n := hi - s - a
    let x := (b - ceilDiv s 256) * 256
    decide (0 < n) && (meets (a % t.desc.win) n x || meets (a % t.desc.win) n (x + t.desc.win))

/-- The stacks in the order in which a node prefers them (R338). -/
def State.stackOrder (s : State) (n : Node) : List Nat :=
  byScore (fun k => (n.desc.tileOps.map fun o =>
    match (s.ctx n.ctx).table o.tbl with
    | some t => (t.blocks.filter fun b =>
        t.blockMeets o.lo o.hi b.1 && (find b.2 s.blockRef).map (·.2) == some k).length
    | none => 0).sum) s.stackCount

/-- A placement of the nodes of an entry (R338, R339): the device with them placed, with `room` for their warps and tiles or for their
partitions alone. -/
def State.placeEntry (s : State) (room : Bool) (gs : List Group) (ks : List Nat) : Option State :=
  match ks.filterMap fun k => find k s.nodes with
  | [] => none
  | ns@(n0 :: _) =>
    let first := (ns.find? fun n => !n.desc.pan).getD n0
    let clusters := if ns.any fun n => !n.desc.pan then (s.dieOrder first).flatMap fun d => (List.range 12).map fun c => d * 12 + c else [0]
    let firstPan := (ns.find? fun n => n.desc.pan).getD n0
    let sts := if ns.any fun n => n.desc.pan then s.stackOrder firstPan else [0]
    clusters.findSome? fun c => sts.findSome? fun k => placeNodes room gs c k ks [] s

/-! ### The checks (R333) -/

/-- What Saltern has read of a launch. -/
structure LaunchIn where
  g : Graph
  nodes : List NodeIn
  groups : List GroupIn
  deriving DecidableEq, Repr

/-- The lowest index that fails a check. -/
def firstBad (l : List NodeIn) (bad : Nat → NodeIn → Bool) : Option Nat :=
  ((l.zipIdx.filter fun e => bad e.2 e.1).map (·.2)).head?

/-- Edges that name a node. -/
def inEdges (l : List NodeIn) (i : Nat) : Nat := (l.map fun n => (n.desc.succ.filter fun k => k == i).length).sum

/-- The nodes reachable from some, in `fuel` rounds. -/
def reachNodes (l : List NodeIn) : Nat → List Nat → List Nat
  | 0, r => r
  | fuel + 1, r =>
    let more := (r.flatMap fun i => (l[i]?).elim [] fun n => n.desc.succ).foldl (fun (m : List Nat) j => if m.contains j then m else m ++ [j]) r
    if more.length = r.length then r else reachNodes l fuel more

/-- The nodes reachable from a node by at least one edge. -/
def below (l : List NodeIn) (i : Nat) : List Nat := reachNodes l l.length (((l[i]?).elim [] fun n => distinct n.desc.succ))

/-- A used entry of the group table breaks R20 or R21 (01), or names a warp of a node that is not REDUNDANT in a PAIR group
(19 R383). -/
def groupBad (ns : List NodeIn) (gs : List GroupIn) (e : GroupIn) : Bool :=
  let g := e.group
  let slots (i : Nat) : Nat := (ns[i]?).elim 0 fun n => n.desc.c * n.desc.w
  let wOf (i : Nat) : Nat := (ns[i]?).elim 1 fun n => max 1 n.desc.w
  if e.mcnt = 0 then g.bar || g.win || g.pair || e.moff != 0
  else
    e.moff % 4 != 0 || decide (2 ^ 25 < e.mcnt) || !(g.bar || g.win || g.pair) || (g.members.any fun m => decide (ns.length ≤ m.1) || decide (slots m.1 ≤ m.2))
      || decide (g.members.eraseDups.length ≠ g.members.length)
      || (g.members.any fun m => decide (4 < ((gs.filter fun q => q.group.members.contains m).length)))
      || (g.win && g.members.any fun m => g.members.any fun k => k.1 == m.1 && k.2 / wOf k.1 != m.2 / wOf m.1)
      || (g.pair && g.members.any fun m => !((ns[m.1]?).elim false fun n => n.desc.red))

/-- A cast entry breaks R299 (12): a receiving register that is not allocated, or a scalar register above 63; or its scratchpad offset is not
below the node's scratch, and not 0 where it has no scratchpad writer (03 R76). DESIGN CHOICE (log entry 51): R333 gives CAST for a breach of R299; a
bad scratchpad offset, whose limit stands in R76 alone, is rejected with CAST too. -/
def castBad (n : NodeDesc) : Bool :=
  let scratch := n.scr * (if n.pan then 16384 else 65536)
  n.cast && n.casts.any fun e =>
    let v := bitsAt e.toNat 8 8
    let soff := 16 * bitsAt e.toNat 32 16
    !(decide (v < n.n) || (decide (224 ≤ v) && decide (v < 240))) || decide (63 < bitsAt e.toNat 48 8)
      || (if bitAt e.toNat 7 then decide (scratch ≤ soff) else soff != 0)

/-- Two declared ranges of a table overlap and one is written (R333). -/
def races (a b : NodeDesc) : Bool :=
  a.tileOps.any fun x => b.tileOps.any fun y =>
    x.tbl == y.tbl && (x.wr || y.wr) && decide (x.lo < y.hi) && decide (y.lo < x.hi)

/-- The nodes of a launch as they would stand on an empty device, every block of which is of their world (R339). -/
def State.emptyWith (s : State) (ck : Nat) (ns : List NodeIn) : State :=
  { (s.setCtx ck { s.ctx ck with sec := true }) with
    world := [], nodes := ns.zipIdx.map fun e => (e.2, { ctx := ck, launch := 0, idx := e.2, desc := e.1.desc }) }

/-- A node with what it is dispatched with fits nowhere on an empty device (R333, R339). -/
def State.noFit (s : State) (ck : Nat) (ns : List NodeIn) (gs : List Group) (i : Nat) : Bool :=
  ((s.emptyWith ck ns).placeEntry true gs (gangOf gs (ns.map (·.desc)) i)).isNone

/-- The first check that fails (R333): the reason and the node at fault. -/
def State.launchFault (s : State) (ck : Nat) (x : LaunchIn) (lvl : Nat) : Option (Nat × Nat) :=
  let ns := x.nodes
  let gs := x.groups.map (·.group)
  let g := x.g
  let lo (code : Nat) (o : Option Nat) : Option (Nat × Nat) := o.map fun i => (code, i)
  let graphBad := g.codesz % 32 != 0 || decide (g.codesz < 32) || decide (2 ^ 32 - 32 < g.codesz)
    || (g.pdl != 0 && (decide (g.pdl < 1024) || decide (2 ^ 24 < g.pdl)))
  (if graphBad then some (1, 0) else none)
    <|> lo 1 (firstBad ns fun _ n => n.limit)
    <|> (if g.rsvd then some (2, 0) else none)
    <|> lo 2 (firstBad ns fun _ n => n.rsvd)
    <|> (if x.groups.any (·.rsvd) then some (2, 0) else none)
    <|> lo 3 (firstBad ns fun _ n => decide (lvl < n.desc.lvl))
    <|> lo 4 (firstBad ns fun i n => n.desc.pred != inEdges ns i)
    <|> lo 5 (firstBad ns fun i _ => (below ns i).contains i)
    <|> ((x.groups.find? fun e => groupBad ns x.groups e).map fun e =>
          (6, (e.group.members.map (·.1)).foldl min ((e.group.members.map (·.1)).headD 0)))
    <|> lo 7 (firstBad ns fun _ n => castBad n.desc)
    <|> lo 8 (firstBad ns fun i _ => s.noFit ck ns gs i)
    <|> (if g.dbg then lo 9 (firstBad ns fun i n => ns.zipIdx.any fun e =>
          decide (i < e.2) && races n.desc e.1.desc && !(below ns i).contains e.2 && !(below ns e.2).contains i) else none)

/-! ### Acceptance -/

/-- The IPA of an address of an ordinary table (18 R353). -/
def State.ipaOf (s : State) (ck va : Nat) : Option Nat :=
  let c := s.ctx ck
  match c.table (va / 2 ^ 50) with
  | none => none
  | some t => if t.desc.kind = 4 then none else match s.walk1 c 2 va (va / 2 ^ 50) (va % 2 ^ 50) with | .ok l => some l.out | .error _ => none

/-- Take the code image as it stands (02 R50): its bytes, and the pages through which fetch goes. DESIGN CHOICE (log entry 98): of a page that the second
stage does not map at the acceptance and maps later the spec is silent; its bytes stay 0. -/
def State.takeCode (s : State) (ck lk : Nat) (g : Graph) : State × List (Option Nat) :=
  let page (k : Nat) : Option Nat := (s.ipaOf ck (g.codea / 8192 * 8192 + 8192 * k)).map fun a => a / 8192 * 8192
  let pages := (List.range (ceilDiv (g.codea % 8192 + g.codesz) 8192)).map page
  ((List.range g.codesz).foldl (fun (s : State) i =>
    match s.translate ck none 0 (g.codea + i) with
    | .ok pa a => { s with mem := memSet s.mem (codeBase lk + i) (s.rdByte a.tag pa) }
    | _ => s) s, pages)

/-- Answer a position of the submission sequence with a REJECTED record (R333, R334). -/
def State.rejectLaunch (s : State) (ck tag reason node : Nat) : State :=
  let c := s.ctx ck
  let l : Launch := { ctx := ck, id := c.nextLaunch, tag := tag }
  (s.setCtx ck { c with nextLaunch := c.nextLaunch + 1 }).appendCompletion ck (completionRec l 2 reason node)

/-- Accept a launch (R329): its nodes stand waiting, those without predecessors ready. -/
def State.acceptLaunch (s : State) (ck : Nat) (x : LaunchIn) : State :=
  let c := s.ctx ck
  let lk := s.nextId
  let ids := (List.range x.nodes.length).map fun i => lk + 1 + i
  let (s, pages) := s.takeCode ck lk x.g
  let l : Launch := { ctx := ck, id := c.nextLaunch, tag := x.g.tag, pdl := if x.g.pdl = 0 then 65536 else x.g.pdl, codesz := x.g.codesz,
                      codeOff := x.g.codea % 8192, codePages := pages, nodes := ids, groups := x.groups.map (·.group) }
  let s := (s.setCtx ck { c with nextLaunch := c.nextLaunch + 1 }).setLaunch lk l
  let s := { s with nextId := lk + 1 + x.nodes.length }
  let s := (x.nodes.zip ids).zipIdx.foldl (fun (s : State) e =>
    s.setNode e.1.2 { ctx := ck, launch := lk, idx := e.2, desc := e.1.1.desc, pending := e.1.1.desc.pred }) s
  ids.foldl (fun (s : State) k => match find k s.nodes with
    | some n => if n.pending = 0 then s.makeReady k else s
    | none => s) s

/-- Read the launch that a graph descriptor names, where it can be read: otherwise the reason and the node at fault. -/
def State.readLaunch (s : State) (ck : Nat) (g : Graph) : Except (Nat × Nat) LaunchIn :=
  if g.nnodes = 0 ∨ 65536 < g.nnodes then .error (1, 0)
  else match (List.range g.nnodes).mapM fun (i : Nat) => s.readNode ck g i with
    | none => .error (1, 0)
    | some ns => match s.readGroups ck g.grpa with
      | none => .error (1, 0)
      | some gs => .ok { g := g, nodes := ns, groups := gs }

/-- A committed position of the submission sequence waits for Saltern (R329). -/
def State.submitted (s : State) (ck : Nat) : Bool :=
  match find 3 (s.ctx ck).tables with | some t => decide ((s.ctx ck).subPos < t.c) | none => false

/-- `LAUNCH_ACCEPT` (R329): Saltern takes the next position below C: a void one is skipped, a stale one and a launch that fails a
check are rejected, and any other launch is accepted. -/
def execLaunchAccept (ctx : Nat) (s : State) : Host.Outcome State Fault Refusal :=
  match find 3 (s.ctx ctx).tables with
  | none => .next s
  | some t =>
    let c := s.ctx ctx
    let p := c.subPos
    if t.c ≤ p then .next s
    else
      let lvl := getD 0 c.subLvl p
      let s := s.setCtx ctx { c with subPos := p + 1, subLvl := erase p c.subLvl }
      if t.posSt p = some .void then .next s
      else if t.desc.win ≠ 0 ∧ t.desc.sink ≤ p ∧ p + t.desc.win < t.r then .next (s.rejectLaunch ctx 0 0x0A 0)
      else match s.slotRuns c t (t.posOff p) 64 with
        | none => .next (s.rejectLaunch ctx 0 1 0)
        | some rs =>
          let g := Graph.ofNat (ofLe (s.rdRuns rs))
          match s.readLaunch ctx g with
          | .error (r, i) => .next (s.rejectLaunch ctx g.tag r i)
          | .ok x => match s.launchFault ctx x lvl with
            | some (r, i) => .next (s.rejectLaunch ctx g.tag r i)
            | none => .next (s.acceptLaunch ctx x)

end Sys2Proof.Machine
end

