-- ==== Sys2Proof/Machine/Narrow.lean ====
section
/-! DEFINITION. Format words and parameter records (04 R91, R99–R102), and what an instruction reads of its node's
partition at issue (08 R215, 11 R306). -/

namespace Sys2Proof

/-- The fields of a format word (04 R101). -/
structure FmtWord where
  fa : Nat
  fb : Nat
  cd : Nat
  gs : Nat
  sc : Bool
  zp : Bool
  sp : Nat
  rnd : Nat
  rsvd : Nat
  pri : Nat
  deriving DecidableEq, Repr

def FmtWord.ofNat (w : Nat) : FmtWord :=
  { fa := bitsAt w 0 4, fb := bitsAt w 4 4, cd := bitsAt w 8 4, gs := bitsAt w 12 2, sc := bitAt w 14, zp := bitAt w 15,
    sp := bitsAt w 16 2, rnd := bitsAt w 18 3, rsvd := bitsAt w 21 3, pri := bitsAt w 24 8 }

/-- No field holds a reserved value (04 R101). -/
def FmtWord.sound (f : FmtWord) : Bool :=
  f.rsvd == 0 && decide (f.rnd ≤ 4) && decide (f.gs ≤ 2) && decide (f.fa ≤ 9) && decide (f.fb ≤ 9) && decide (f.cd ≤ 9)

/-- A parameter record (04 R99). -/
structure ParamRec where
  rm : Nat := 0
  gs : Nat := 0
  sc : Bool := false
  zp : Bool := false
  ng : Nat := 0
  bound : Nat := 0
  soff : Nat := 0
  zoff : Nat := 0
  rsvd : Bool := false
  deriving DecidableEq, Repr

def ParamRec.ofNat (w : Nat) : ParamRec :=
  { rm := bitsAt w 3 3, gs := bitsAt w 6 2, sc := bitAt w 8, zp := bitAt w 9, ng := bitsAt w 16 16, bound := bitsAt w 32 32,
    soff := bitsAt w 64 32, zoff := bitsAt w 96 32, rsvd := bitsAt w 0 3 != 0 || bitsAt w 10 6 != 0 || bitsAt w 128 128 != 0 }

/-- A legal BOUND for a target (04 R100). -/
def boundOk (t : Fmt) (bound : Nat) : Bool :=
  bound == 0 ||
    match lay32.value bound with
    | .fin s m e =>
      if s || m == 0 then false
      else match t.layout with
        | some F => t.isNarrow && (F.round .rne (.fin s m e)).2 == 0 && decide ((F.round .rne (.fin s m e)).1 ≤ F.maxBits)
        | none =>
          let (r, x) := roundRatio .rz s m 1 e
          t.isNarrow && !x && decide (1 ≤ r) && decide (r ≤ if t.isAsym then 2 ^ t.width - 1 else 2 ^ (t.width - 1) - 1)
    | _ => false

/-- A record that meets 04 R99 and R100 for a target; `asym` says that its elements are `INT8A` or `INT4A`. -/
def ParamRec.sound (r : ParamRec) (t : Fmt) (asym : Bool) : Bool :=
  !r.rsvd && decide (r.rm ≤ 4) && decide (r.gs ≤ 2)
    && (if r.sc || r.zp then asym && decide (1 ≤ r.ng) else r.gs == 0)
    && (!r.sc || r.soff % 16 == 0) && (!r.zp || r.zoff % 16 == 0) && boundOk t r.bound

/-- The group size of a GS code (04 R99, R101). -/
def groupSize (gs : Nat) : Nat := 32 * 2 ^ gs

/-- Byte of the zero point of entry `n` of an array at `off` (04 R91). -/
def zpByte (t : Fmt) (off n : Nat) : Nat := if t.width = 4 then off + n / 2 else off + n
/-- The zero point in that byte. -/
def zpOf (t : Fmt) (n b : Nat) : Nat := if t.width = 4 then b / 16 ^ (n % 2) % 16 else b

namespace Machine.Issue

/-- Bytes of the node's partition, read at issue. -/
def part (x : Issue) (off n : Nat) : Nat := ofLe (x.s.spBytes x.w.unit (x.n.partBase x.w.unit + off) n)

/-- These bytes lie within the partition. -/
def inPart (x : Issue) (off n : Nat) : Bool := decide (off + n ≤ x.n.partSize)

/-- A read of poisoned bytes of the partition kills the node (19 R375). -/
def readPart (x : Issue) (off n : Nat) : Issue :=
  if x.s.spPoisoned x.w.unit (x.n.partBase x.w.unit + off) n then { x with kill := some (0x12, 0, 0) } else x

/-- The record that PRI names, if it lies within the partition (04 R99); the defaults for 0. -/
def record (x : Issue) (pri : Nat) : Option ParamRec :=
  if pri = 0 then some {}
  else if x.inPart (32 * (pri - 1)) 32 then some (ParamRec.ofNat (x.part (32 * (pri - 1)) 32)) else none

/-- Entry `n` of a record's arrays lies within the partition (04 R102). -/
def entryIn (x : Issue) (t : Fmt) (r : ParamRec) (n : Nat) : Bool :=
  (!r.sc || x.inPart (r.soff + 2 * n) 2) && (!r.zp || x.inPart (zpByte t r.zoff n) 1)

/-- Scale and zero point of entry `n` (04 R90, R91). -/
def entryScale (x : Issue) (r : ParamRec) (n : Nat) : Num :=
  if r.sc then Fmt.value .f16 (x.part (r.soff + 2 * n) 2) else oneNum
def entryZero (x : Issue) (t : Fmt) (r : ParamRec) (n : Nat) : Nat :=
  if r.zp then zpOf t n (x.part (zpByte t r.zoff n) 1) else 0

end Machine.Issue

end Sys2Proof
end

