-- ==== Sys2Proof/Machine/Float.lean ====
section
/-! DEFINITION. The floating-point class (08 R200–R216). -/

namespace Sys2Proof.Machine

open Issue

/-- Flip the sign bit of a `w`-bit value. -/
def flipSign (w : Nat) (n : Bool) (a : Nat) : Nat := if n then a ^^^ 2 ^ (w - 1) else a

/-- FP32 operands A, B and C after NA, NB and NC (08 R202). -/
def fpA (x : Issue) (f : FpF) (l : Nat) : Nat := flipSign 32 f.na (x.val 1 l % 2 ^ 32)
def fpB (x : Issue) (f : FpF) (l : Nat) : Nat := flipSign 32 f.nb (x.val 2 l % 2 ^ 32)
def fpC (x : Issue) (f : FpF) (l : Nat) : Nat := flipSign 32 f.nc (x.val 3 l % 2 ^ 32)
/-- IMM32 as operand B. -/
def fpImm (f : FpF) : Nat := flipSign 32 f.nb f.imm.toNat
/-- As a number. -/
def num32 (a : Nat) : Num := lay32.value a

/-- `FADD` (R203): register form. -/
def execFadd8 (f : FpF) (s : State) : Host.Outcome State Fault Refusal :=
  s.issue (.fadd8 f) f.p fun x => x.eachLane f.u x.ex fun l => fpAdd lay32 f.rm (num32 (fpA x f l)) (num32 (fpB x f l))

/-- `FADD` (R203): immediate form. -/
def execFadd12 (f : FpF) (s : State) : Host.Outcome State Fault Refusal :=
  s.issue (.fadd12 f) f.p fun x => x.eachLane f.u x.ex fun l => fpAdd lay32 f.rm (num32 (fpA x f l)) (num32 (fpImm f))

/-- `FMUL` (R203): register form. -/
def execFmul8 (f : FpF) (s : State) : Host.Outcome State Fault Refusal :=
  s.issue (.fmul8 f) f.p fun x => x.eachLane f.u x.ex fun l => fpMul lay32 f.rm (num32 (fpA x f l)) (num32 (fpB x f l))

/-- `FMUL` (R203): immediate form. -/
def execFmul12 (f : FpF) (s : State) : Host.Outcome State Fault Refusal :=
  s.issue (.fmul12 f) f.p fun x => x.eachLane f.u x.ex fun l => fpMul lay32 f.rm (num32 (fpA x f l)) (num32 (fpImm f))

/-- `FFMA` (R203). -/
def execFfma (f : FpF) (s : State) : Host.Outcome State Fault Refusal :=
  s.issue (.ffma f) f.p fun x => x.eachLane f.u x.ex fun l =>
    fpFma lay32 f.rm (num32 (fpA x f l)) (num32 (fpB x f l)) (num32 (fpC x f l))

/-- `FMIN` (R204): register form. -/
def execFmin8 (f : FpF) (s : State) : Host.Outcome State Fault Refusal :=
  s.issue (.fmin8 f) f.p fun x => x.eachLane f.u x.ex fun l => (fpMinMax false (fpA x f l) (fpB x f l), 0)

/-- `FMIN` (R204): immediate form. -/
def execFmin12 (f : FpF) (s : State) : Host.Outcome State Fault Refusal :=
  s.issue (.fmin12 f) f.p fun x => x.eachLane f.u x.ex fun l => (fpMinMax false (fpA x f l) (fpImm f), 0)

/-- `FMAX` (R204): register form. -/
def execFmax8 (f : FpF) (s : State) : Host.Outcome State Fault Refusal :=
  s.issue (.fmax8 f) f.p fun x => x.eachLane f.u x.ex fun l => (fpMinMax true (fpA x f l) (fpB x f l), 0)

/-- `FMAX` (R204): immediate form. -/
def execFmax12 (f : FpF) (s : State) : Host.Outcome State Fault Refusal :=
  s.issue (.fmax12 f) f.p fun x => x.eachLane f.u x.ex fun l => (fpMinMax true (fpA x f l) (fpImm f), 0)

/-- `FCMP` (R205): register form. -/
def execFcmp8 (f : FpF) (s : State) : Host.Outcome State Fault Refusal :=
  s.issue (.fcmp8 f) f.p fun x => x.compareOut f.u f.d fun l => fpCompare f.fn (fpA x f l) (fpB x f l)

/-- `FCMP` (R205): immediate form. -/
def execFcmp12 (f : FpF) (s : State) : Host.Outcome State Fault Refusal :=
  s.issue (.fcmp12 f) f.p fun x => x.compareOut f.u f.d fun l => fpCompare f.fn (fpA x f l) (fpImm f)

/-- `FCLASS` (R206). -/
def execFclass (f : FpF) (s : State) : Host.Outcome State Fault Refusal :=
  s.issue (.fclass f) f.p fun x => x.eachLane f.u x.ex fun l => (2 ^ fpClass (x.val 1 l % 2 ^ 32), 0)

/-- `FCVT`, scalar form (R209, R210). -/
def execFcvtScalar (f : FpF) (s : State) : Host.Outcome State Fault Refusal :=
  s.issue (.fcvtScalar f) f.p fun x => x.eachLane f.u x.ex fun l => convert f.src f.fmt f.rm (x.val 1 l % 2 ^ 32)

/-- The elements of a block, in order (R211, 04 R96): lane, code and flags. -/
def fcvtBlock (x : Issue) (f : FpF) (bound : Nat) (scale : Num) (z : Nat) : List Nat → Nat → List (Nat × Nat × Nat)
  | [], _ => []
  | l :: ls, err =>
    let v := f.src.value (x.val 1 l % 2 ^ 32)
    if f.rm = .ef then
      let (q, e, fl) := efStep f.fmt bound scale z v err
      (l, q, fl) :: fcvtBlock x f bound scale z ls e
    else
      let (q, fl) := narrow f.fmt f.rm bound scale z v
      (l, q, fl) :: fcvtBlock x f bound scale z ls err

/-- Write each element of a block to its lane. -/
def blockOut (x : Issue) (es : List (Nat × Nat × Nat)) : Issue := es.foldl (fun x e => (x.set 0 e.1 e.2.1).flag e.1 e.2.2) x

/-- Sources and targets of the block form (R211). -/
def blockFmts (f : FpF) : Bool :=
  (f.src == .f32 || f.src == .f16 || f.src == .bf16) && f.fmt.isNarrow

/-- `FCVT`, block form (R211), with its checks in order. -/
def execFcvtBlock (f : FpF) (s : State) : Host.Outcome State Fault Refusal :=
  s.issue (.fcvtBlock f) f.p fun x =>
    if x.ex.isEmpty then x
    else
      let words := x.ex.map fun l => x.val 3 l % 2 ^ 32
      let w := FmtWord.ofNat (words.headD 0)
      let o := x.val 2 x.lowest % 2 ^ 32
      if !words.all (fun v => v == words.headD 0) then x.trapAct 5 1
      else if !w.sound || !blockFmts f || w.cd != f.fmt.code || w.fa != f.src.code then x.trapAct 5 2
      else match x.record w.pri with
        | none => x.trapAct 5 4
        | some r =>
          if w.pri != 0 && !(r.sound f.fmt f.fmt.isAsym && x.entryIn f.fmt r (o * r.ng)) then x.trapAct 5 4
          else if f.rm.code != r.rm then x.trapAct 5 2
          else if r.gs != 0 && (r.sc || r.zp) then x.trapAct 5 3
          else
            let y := if w.pri = 0 then x else x.readPart (32 * (w.pri - 1)) 32
            let y := if r.sc then y.readPart (r.soff + 2 * (o * r.ng)) 2 else y
            let y := if r.zp then y.readPart (zpByte f.fmt r.zoff (o * r.ng)) 1 else y
            blockOut y (fcvtBlock x f r.bound (x.entryScale r (o * r.ng)) (x.entryZero f.fmt r (o * r.ng)) x.ex 0)

/-- `FRND` (R207). -/
def execFrnd (f : FpF) (s : State) : Host.Outcome State Fault Refusal :=
  s.issue (.frnd f) f.p fun x => x.eachLane f.u x.ex fun l => fpRnd f.rm (x.val 1 l % 2 ^ 32)

/-- `FRCP` (R212, R213). -/
def execFrcp (f : FpF) (s : State) : Host.Outcome State Fault Refusal :=
  s.issue (.frcp f) f.p fun x => x.eachLane f.u x.ex fun l => fpRcp f.rm (x.val 1 l % 2 ^ 32)

/-- `FSQRT` (R212, R213). -/
def execFsqrt (f : FpF) (s : State) : Host.Outcome State Fault Refusal :=
  s.issue (.fsqrt f) f.p fun x => x.eachLane f.u x.ex fun l => fpSqrt f.rm (x.val 1 l % 2 ^ 32)

/-- `FRSQ` (R213). -/
def execFrsq (f : FpF) (s : State) : Host.Outcome State Fault Refusal :=
  s.issue (.frsq f) f.p fun x => x.eachLane f.u x.ex fun l => fpSpecial .rsq (x.val 1 l % 2 ^ 32)

/-- `FEX2` (R213). -/
def execFex2 (f : FpF) (s : State) : Host.Outcome State Fault Refusal :=
  s.issue (.fex2 f) f.p fun x => x.eachLane f.u x.ex fun l => fpSpecial .ex2 (x.val 1 l % 2 ^ 32)

/-- `FLG2` (R213). -/
def execFlg2 (f : FpF) (s : State) : Host.Outcome State Fault Refusal :=
  s.issue (.flg2 f) f.p fun x => x.eachLane f.u x.ex fun l => fpSpecial .lg2 (x.val 1 l % 2 ^ 32)

/-- `FSIN` (R213). -/
def execFsin (f : FpF) (s : State) : Host.Outcome State Fault Refusal :=
  s.issue (.fsin f) f.p fun x => x.eachLane f.u x.ex fun l => fpSpecial .sin (x.val 1 l % 2 ^ 32)

/-- `FCOS` (R213). -/
def execFcos (f : FpF) (s : State) : Host.Outcome State Fault Refusal :=
  s.issue (.fcos f) f.p fun x => x.eachLane f.u x.ex fun l => fpSpecial .cos (x.val 1 l % 2 ^ 32)

/-- `FTANH` (R213). -/
def execFtanh (f : FpF) (s : State) : Host.Outcome State Fault Refusal :=
  s.issue (.ftanh f) f.p fun x => x.eachLane f.u x.ex fun l => fpSpecial .tanh (x.val 1 l % 2 ^ 32)

/-- One half of `PFMA` (R208). -/
def pfmaHalf (F : Layout) (f : FpF) (h a b c : Nat) : Nat × Nat :=
  let g (n : Bool) (v : Nat) : Num := F.value (flipSign 16 n (bitsAt v (16 * h) 16))
  fpFma F f.rm (g f.na a) (g f.nb b) (g f.nc c)

/-- `PFMA` (R208). -/
def execPfma (f : FpF) (s : State) : Host.Outcome State Fault Refusal :=
  s.issue (.pfma f) f.p fun x => x.eachLane false x.ex fun l =>
    let F := f.fmt.layout.getD lay32
    let lo := pfmaHalf F f 0 (x.val 1 l) (x.val 2 l) (x.val 3 l)
    let hi := pfmaHalf F f 1 (x.val 1 l) (x.val 2 l) (x.val 3 l)
    (lo.1 + hi.1 * 2 ^ 16, lo.2 ||| hi.2)

/-! ### Attention triples (R214) -/

/-- The weight of a state under the maximum `m`: FP32 bits and flags. -/
def mergeWeight (x m : Nat) : Nat × Nat :=
  if (num32 x).eqv (num32 m) then ((lay32.round .rne oneNum).1, 0)
  else
    let (d, f1) := fpAdd lay32 .rne (num32 x) (num32 m).neg
    let (w, f2) := fpSpecial .ex2 d
    (w, f1 ||| f2)

/-- A weighted element: exactly +0 under the weight +0. -/
def weighed (w a : Nat) : Num := if w = 0 then .fin false 0 0 else (num32 w).mul (num32 a)

/-- The sum of the two weighted elements, rounded once. -/
def mergeElem (wa a wb b : Nat) : Nat × Nat := lay32.round .rne (Num.sum .rne [weighed wa a, weighed wb b])

/-- Merge two triples (m, l, a0, a1) given as quads: the quad and the flags. -/
def mergeTriples (fin : Bool) (a b : Nat) : Nat × Nat :=
  let e (q k : Nat) : Nat := bitsAt q (32 * k) 32
  let quad (m l a0 a1 : Nat) : Nat := m + l * 2 ^ 32 + a0 * 2 ^ 64 + a1 * 2 ^ 96
  let ninf := lay32.signBits true + lay32.infBits
  if (num32 (e a 0)).isNan || (num32 (e b 0)).isNan then (quad lay32.nanBits lay32.nanBits lay32.nanBits lay32.nanBits, 0)
  else if e a 0 = ninf ∧ e b 0 = ninf then (quad ninf 0 0 0, 0)
  else
    let m := fpMinMax true (e a 0) (e b 0)
    let (wa, f1) := mergeWeight (e a 0) m
    let (wb, f2) := mergeWeight (e b 0) m
    let (l, f3) := mergeElem wa (e a 1) wb (e b 1)
    let (a0, f4) := mergeElem wa (e a 2) wb (e b 2)
    let (a1, f5) := mergeElem wa (e a 3) wb (e b 3)
    let fl := f1 ||| f2 ||| f3 ||| f4 ||| f5
    if fin then
      let (d0, f6) := fpDiv lay32 .rne (num32 a0) (num32 l)
      let (d1, f7) := fpDiv lay32 .rne (num32 a1) (num32 l)
      (quad m l d0 d1, fl ||| f6 ||| f7)
    else (quad m l a0 a1, fl)

/-- `AMRG` (R214). -/
def execAmrg (f : FpF) (s : State) : Host.Outcome State Fault Refusal :=
  s.issue (.amrg f) f.p fun x => x.eachLane false x.ex fun l => mergeTriples f.fin (x.val 1 l) (x.val 2 l)

end Sys2Proof.Machine
end

