-- ==== Sys2Proof/Machine/Tiles.lean ====
section
/-! DEFINITION. The tile class (11 R260–R283): what each instruction checks and reads at issue, and the work that its engine
performs on the tiles in the order of issue. -/

namespace Sys2Proof.Machine

open Issue

/-! ### Shapes and elements -/

/-- The shape that a `tcfg` value gives (R260). -/
def Shape.ofCfg (c : Nat) : Shape := { w := 4 * 2 ^ bitsAt c 0 2, rows := bitsAt c 2 7, cols := bitsAt c 16 16 }
/-- Row pitch in bytes (R261). -/
def Shape.pitch (h : Shape) : Nat := ceilDiv (h.cols * h.w) 8
/-- The tile is configured (R260). -/
def Shape.set (h : Shape) : Bool := h.rows != 0
def Shape.dims (h g : Shape) : Bool := h.rows == g.rows && h.cols == g.cols

def tileKey (ci t off : Nat) : Nat := ci * 2 ^ 18 + t * 2 ^ 14 + off
def Node.tileByte (n : Node) (ci t off : Nat) : Byte := getD 0 n.tiles (tileKey ci t off)
/-- Write bytes of a tile from an offset on. -/
def Node.tileWrite (n : Node) (ci t off : Nat) (bs : List Byte) : Node :=
  { n with tiles := bs.zipIdx.foldl (fun m e => put 0 (tileKey ci t (off + e.2)) e.1 m) n.tiles }
/-- The bytes of row `i` under a shape (R261). -/
def Node.tileRow (n : Node) (ci : Nat) (r : TileRef) (i : Nat) : List Byte :=
  (List.range r.sh.pitch).map fun k => n.tileByte ci r.t (i * r.sh.pitch + k)

/-- Element `c` of a row of elements of `w` bits (04 R89). -/
def unpack (w : Nat) (bs : List Byte) (c : Nat) : Nat :=
  if w = 4 then (bs.getD (c / 2) 0).toNat / 16 ^ (c % 2) % 16 else ofLe ((bs.drop (c * (w / 8))).take (w / 8))

/-- The bytes of a row of elements; the odd half of a last byte is 0 (04 R89). -/
def packRow (w : Nat) : List Nat → List Byte
  | [] => []
  | [a] => leBytes (ceilDiv w 8) (a % 2 ^ w)
  | a :: b :: t =>
    if w = 4 then BitVec.ofNat 8 (a % 16 + b % 16 * 16) :: packRow w t
    else leBytes (w / 8) a ++ packRow w (b :: t)

/-- The elements of a tile, row by row. -/
def Node.tileElems (n : Node) (ci : Nat) (r : TileRef) : List (List Nat) :=
  (List.range r.sh.rows).map fun i => let bs := n.tileRow ci r i; (List.range r.sh.cols).map (unpack r.sh.w bs)

/-- Write rows of elements from row 0 on. -/
def Node.putRows (n : Node) (ci : Nat) (r : TileRef) (rows : List (List Nat)) : Node :=
  rows.zipIdx.foldl (fun n e => n.tileWrite ci r.t (e.2 * r.sh.pitch) (packRow r.sh.w e.1)) n

/-- Element (i, j) of rows of elements. -/
def elemAt (rows : List (List Nat)) (i j : Nat) : Nat := (rows.getD i []).getD j 0

/-- A table of `m` by `n` values. -/
def tabulate {α : Type} (m n : Nat) (f : Nat → Nat → α) : List (List α) :=
  (List.range m).map fun i => (List.range n).map (f i)

/-- Values with their flags: the values, and the flags of all together. -/
def splitFlags (rows : List (List (Nat × Nat))) : List (List Nat) × Nat :=
  (rows.map fun r => r.map (·.1), rows.flatten.foldl (fun f e => f ||| e.2) 0)

/-! ### Scales and zero points -/

def GroupVals.at_ (g : GroupVals) (i k : Nat) : Nat := i * g.perRow + (if g.g = 0 then 0 else k / g.g)
def GroupVals.scale (g : GroupVals) (i k : Nat) : Num := if g.sc then Fmt.value .f16 (g.scales.getD (g.at_ i k) 0) else oneNum
def GroupVals.zero (g : GroupVals) (i k : Nat) : Nat := if g.zp then g.zeros.getD (g.at_ i k) 0 else 0

/-! ### Products (04 R103–R105, 11 R273, R274) -/

/-- Add one exact term to an FP32 accumulator: bits and flags. -/
def accumulate (a : Nat × Nat) (s : Num) : Nat × Nat :=
  let r := fpAdd lay32 .rne (lay32.value a.1) s
  (r.1, a.2 ||| r.2 ||| (if s = .nan true then fNV else 0))

/-- Runs of `k` elements. -/
def runs {α : Type} (k : Nat) (l : List α) : List (List α) :=
  (List.range (ceilDiv l.length k)).map fun r => (l.drop (r * k)).take k

/-- Indices that ascend strictly and stay below `m` (11 R274). -/
def goodIndices (m : Nat) : List Nat → Bool
  | [] => true
  | [a] => decide (a < m)
  | a :: b :: t => decide (a < b) && goodIndices m (b :: t)

/-- The logical columns of a row of kept values: none where a column is not kept; nothing where its indices are bad. -/
def expandRow (n m : Nat) (vs ix : List Nat) : Option (List (Option Nat)) :=
  let gs := (runs n vs).zip (runs n ix)
  if gs.all fun g => goodIndices m g.2 then
    some (gs.flatMap fun g => (List.range m).map fun q => ((g.2.zip g.1).find? fun e => e.1 == q).map (·.2))
  else none

/-- The integer that a code stands for, its zero point taken off (04 R105). -/
def codeInt (t : Fmt) (z q : Nat) : Int := if t.isAsym then (q : Int) - z else sxInt t.width q

namespace Product

/-- The integer term of one column; a column that is not kept contributes 0. -/
def intTerm (p : Product) (i j : Nat) (e : (Option Nat × Nat) × Nat) : Int :=
  match e.1.1 with
  | none => 0
  | some q => codeInt p.fa (p.ga.zero i e.2) q * codeInt p.fb (p.gb.zero j e.2) e.1.2

/-- The exact floating product of one column; a column that is not kept contributes +0. -/
def floatTerm (p : Product) (e : Option Nat × Nat) : Num :=
  match e.1 with | none => .fin false 0 0 | some q => (p.fa.value q).mul (p.fb.value e.2)

/-- Element (i, j): its code and flags. `c` is C's element. -/
def elem (p : Product) (i j c : Nat) (a : Option (List (Option Nat))) (b : List Nat) : Nat × Nat :=
  match a with
  | none => (match p.cd.layout with | some F => F.nanBits | none => 0, fNV)
  | some a =>
    let ab := a.zip b
    if p.cd = .i32 then
      let t := sxInt 32 c + ((ab.zipIdx).map (p.intTerm i j)).foldl (· + ·) 0
      let lim : Int := 2 ^ 31 - 1
      if lim < t then (wrapInt 32 lim, fSAT ||| fNX)
      else if t < -lim then (wrapInt 32 (-lim), fSAT ||| fNX) else (wrapInt 32 t, 0)
    else if p.fa.isAsym then
      (runs p.ga.g ab.zipIdx).zipIdx.foldl (fun acc r =>
        let s := (r.1.map (p.intTerm i j)).foldl (· + ·) 0
        accumulate acc (((Num.ofInt s).mul (p.ga.scale i (r.2 * p.ga.g))).mul (p.gb.scale j (r.2 * p.ga.g)))) (c, 0)
    else
      let acc := (lay32.round .rne (p.cd.value c)).1
      let r := (runs 16 ab).foldl (fun acc r => accumulate acc (Num.sum .rne (r.map p.floatTerm))) (acc, 0)
      match p.cd.layout with
      | some F =>
        if p.cd = .f32 then r
        else
          let d := F.round p.rnd (match lay32.value r.1 with | .nan _ => .nan false | y => y)
          (d.1, r.2 ||| d.2)
      | none => r

end Product

/-! ### Ranks (11 R276, R282) -/

/-- A stands before B by magnitude: NaN first, equal magnitudes by index (R276). -/
def magBefore (t : Fmt) (a b : Nat × Nat) : Bool :=
  let mag : Num → Num := fun x => match x with | .fin _ m e => .fin false m e | .inf _ => .inf false | y => y
  let x := mag (t.value a.1)
  let y := mag (t.value b.1)
  if x.isNan || y.isNan then x.isNan && (!y.isNan || decide (a.2 < b.2))
  else y.lt x || (x.eqv y && decide (a.2 < b.2))

/-- A stands before B by FP32 value: NaN last, equal values by index (R282). -/
def valBefore (a b : Nat × Nat) : Bool :=
  let x := lay32.value a.1
  let y := lay32.value b.1
  if x.isNan || y.isNan then (!x.isNan && y.isNan) || (x.isNan && y.isNan && decide (a.2 < b.2))
  else y.lt x || (x.eqv y && decide (a.2 < b.2))

/-- Insert into a list in the order of `before`. -/
def insertBy (before : Nat × Nat → Nat × Nat → Bool) (e : Nat × Nat) : List (Nat × Nat) → List (Nat × Nat)
  | [] => [e]
  | x :: t => if before e x then e :: x :: t else x :: insertBy before e t
/-- Values with their indices, in the order of `before`. -/
def ranked (before : Nat × Nat → Nat × Nat → Bool) (l : List (Nat × Nat)) : List (Nat × Nat) :=
  l.foldl (fun r e => insertBy before e r) []

/-- The kept indices of a group, ascending, with their codes (R276). -/
def keptOf (t : Fmt) (n : Nat) (g : List Nat) : List (Nat × Nat) :=
  let top := ((ranked (magBefore t) g.zipIdx).take n).map (·.2)
  g.zipIdx.filter fun e => top.contains e.2

/-! ### The work of the engines -/

/-- A block of a row under RNE-EF (04 R96). -/
def efBlock (cd : Fmt) (bound : Nat) (sc : Num) (z : Nat) (fa : Fmt) : List Nat → Nat → List (Nat × Nat)
  | [], _ => []
  | a :: t, err =>
    let (q, e, fl) := efStep cd bound sc z (fa.value a) err
    (q, fl) :: efBlock cd bound sc z fa t e

/-- A row of `TQNT` (R277). -/
def quantRow (fa cd : Fmt) (rm : Rm) (bound : Nat) (g : GroupVals) (i : Nat) (row : List Nat) : List (Nat × Nat) :=
  let blocks := if g.g = 0 then [row] else runs g.g row
  blocks.zipIdx.flatMap fun b =>
    let sc := g.scale i (b.2 * g.g)
    let z := g.zero i (b.2 * g.g)
    if rm = .ef then efBlock cd bound sc z fa b.1 0 else b.1.map fun a => narrow cd rm bound sc z (fa.value a)

/-- An element of `TDQ` (R278): a NaN operand raises no flag. -/
def widenElem (fa cd : Fmt) (rnd : Rm) (sr sc : Num) (s : Num) (z q : Nat) : Nat × Nat :=
  let x := if fa.isAsym then s.mul (Num.ofInt ((q : Int) - z)) else fa.value q
  let ops := [sr, sc] ++ (if fa.isAsym then [s] else [x])
  fpOp (cd.layout.getD lay32) rnd ops ((x.mul sr).mul sc)

/-- A NaN result is the canonical one (04 R92). -/
def canon (a : Nat) : Nat := if (lay32.value a).isNan then lay32.nanBits else a

/-- A row of `TRED` (R279): functions 0 sum, 1 maximum, 2 minimum, 3 sum of squares. -/
def reduceRow (fn : Nat) (row : List Nat) : Nat × Nat :=
  let val := lay32.value
  let step (acc : Nat × Nat) (a : Nat) : Nat × Nat :=
    if fn = 0 then let r := fpAdd lay32 .rne (val acc.1) (val a); (r.1, acc.2 ||| r.2)
    else if fn = 3 then let r := fpFma lay32 .rne (val a) (val a) (val acc.1); (r.1, acc.2 ||| r.2)
    else (fpMinMax (fn == 1) acc.1 a, acc.2)
  let r := if fn = 3 then row.foldl step (0, 0) else row.tail.foldl step (row.headD 0, 0)
  (canon r.1, r.2)

/-- An element of `TSCL` (R280). -/
def scaleElem (s a m v : Nat) : Nat × Nat :=
  let val := lay32.value
  fpOp lay32 .rne [val s, val a, val m, val v] (Num.sum .rne [((val s).mul (val a)).mul (val m), val v])

/-- Perform the work of a tile instruction on a core's tiles: the node, and the flags (R265). -/
def Node.tileWork (n : Node) (ci : Nat) : TileWork → Node × Nat
  | .load d rows => (n.putRows ci d (rows.map fun bs => (List.range d.sh.cols).map (unpack d.sh.w bs)), 0)
  | .zero d => (n.tileWrite ci d.t 0 (List.replicate (d.sh.rows * d.sh.pitch) 0), 0)
  | .move d a tr =>
    let es := n.tileElems ci a
    if tr then (n.putRows ci d (tabulate d.sh.rows d.sh.cols fun i j => elemAt es j i), 0)
    else (n.putRows ci d (runs d.sh.cols es.flatten), 0)
  | .product p =>
    let a := n.tileElems ci p.a
    let ix := match p.m with | some m => n.tileElems ci m | none => []
    let rows := a.zipIdx.map fun e => match p.m with
      | some _ => expandRow p.keep p.of_ e.1 (ix.getD e.2 [])
      | none => some (e.1.map some)
    let b := n.tileElems ci p.b
    let c := match p.c with | some c => n.tileElems ci c | none => []
    let (d, fl) := splitFlags (tabulate p.d.sh.rows p.d.sh.cols fun i j =>
      p.elem i j (elemAt c i j) (rows.getD i none) (b.getD j []))
    (n.putRows ci p.d d, fl)
  | .compress d a m keep of_ fa =>
    let ks := (n.tileElems ci a).map fun row => (runs of_ row).flatMap (keptOf fa keep)
    ((n.putRows ci d (ks.map fun r => r.map (·.1))).putRows ci m (ks.map fun r => r.map (·.2)), 0)
  | .quantise d a fa cd rm bound g =>
    let (r, fl) := splitFlags ((n.tileElems ci a).zipIdx.map fun e => quantRow fa cd rm bound g e.2 e.1)
    (n.putRows ci d r, fl)
  | .widen d a fa cd rnd rowS colS g =>
    let es := n.tileElems ci a
    let (r, fl) := splitFlags (tabulate d.sh.rows d.sh.cols fun i j =>
      widenElem fa cd rnd (lay32.value (rowS.getD i 0)) (lay32.value (colS.getD j 0)) (g.scale i j) (g.zero i j) (elemAt es i j))
    (n.putRows ci d r, fl)
  | .reduce d a fn =>
    let (r, fl) := splitFlags ((n.tileElems ci a).map fun row => [reduceRow fn row])
    (n.putRows ci d r, fl)
  | .scale d a col s mul add =>
    let es := n.tileElems ci a
    let (r, fl) := splitFlags (tabulate d.sh.rows d.sh.cols fun i j =>
      let k := if col then j else i
      scaleElem s (elemAt es i j) (mul.getD k 0) (add.getD k 0))
    (n.putRows ci d r, fl)
  | .topk d a v k =>
    let ks := (n.tileElems ci a).map fun row => (ranked valBefore row.zipIdx).take k
    ((n.putRows ci d (ks.map fun r => r.map (·.2))).putRows ci v (ks.map fun r => r.map (·.1)), 0)

/-! ### Issue -/

namespace Issue

/-- A tile as it now is (R260). -/
def tile (x : Issue) (t : Nat) : TileRef :=
  { t := t, sh := Shape.ofCfg (getD 0 x.n.tcfg (x.n.coreIdx x.w.unit * 16 + t)).toNat }

/-- The class acts once, if its predicate holds in some lane (R264). -/
def tileOnce (x : Issue) (f : Issue → Issue) : Issue := if x.ex.isEmpty then x else f x

/-- Hand work to the engine (R264). -/
def handOff (x : Issue) (w : TileWork) : Issue :=
  let t : TileTask := { id := x.s.nextId, unit := x.w.unit, node := x.nk, warp := x.wk, lane := x.elected, work := w }
  { x with s := { x.s with tileQ := x.s.tileQ ++ [t], nextId := x.s.nextId + 1 } }

def trapFmt (x : Issue) (sub : Nat) : Issue := x.trapAct 5 sub

/-- A 32-bit operand of the elected lane. -/
def elect32 (x : Issue) (k : Nat) : Nat := x.val k x.elected % 2 ^ 32

/-- The vote over the format words of the active path (R264, R266); then `go` with the word. -/
def withWord (x : Issue) (k : Nat) (go : FmtWord → Issue) : Issue :=
  if x.act.any fun l => x.val k l % 2 ^ 32 != x.elect32 k then x.trapFmt 1
  else if !(FmtWord.ofNat (x.elect32 k)).sound then x.trapFmt 2
  else go (FmtWord.ofNat (x.elect32 k))

/-- Scale and zero point entries of `rows` outer indexes from `o` on (04 R91). -/
def groupVals (x : Issue) (t : Fmt) (sc zp : Bool) (soff zoff g ng groups o rows : Nat) : GroupVals :=
  let idx := (List.range rows).flatMap fun i => (List.range groups).map fun k => (o + i) * ng + k
  { g := g, perRow := groups, sc := sc, zp := zp
    scales := if sc then idx.map fun n => x.part (soff + 2 * n) 2 else []
    zeros := if zp then idx.map fun n => zpOf t n (x.part (zpByte t zoff n) 1) else [] }

/-- Poisoned entries kill the node (19 R375). -/
def readGroups (x : Issue) (t : Fmt) (sc zp : Bool) (soff zoff ng groups o rows : Nat) : Issue :=
  let idx := (List.range rows).flatMap fun i => (List.range groups).map fun k => (o + i) * ng + k
  idx.foldl (fun (x : Issue) n =>
    let x := if sc then x.readPart (soff + 2 * n) 2 else x
    if zp then x.readPart (zpByte t zoff n) 1 else x) x

/-- The FP32 values of an array in the partition. -/
def fpArray (x : Issue) (off n : Nat) : List Nat := (List.range n).map fun k => x.part (off + 4 * k) 4

end Issue

/-! ### Configuration and moves (R262–R264, R269, R270) -/

/-- Write `tcfg`D. -/
def setTcfg (x : Issue) (d v : Nat) : Issue :=
  let n := x.n
  { x with n := { n with tcfg := put 0 (n.coreIdx x.w.unit * 16 + d) (BitVec.ofNat 32 v) n.tcfg } }

/-- `TCFG` (R262): value in a scalar register. -/
def execTcfg8 (f : TileF) (s : State) : Host.Outcome State Fault Refusal :=
  s.issue (.tcfg8 f) f.p fun x => x.tileOnce fun x =>
    if tcfgOk (x.val 2 0) then setTcfg x f.d (x.val 2 0) else x.trapFmt 2

/-- `TCFG` (R262): value in IMM32. -/
def execTcfg12 (f : TileF) (s : State) : Host.Outcome State Fault Refusal :=
  s.issue (.tcfg12 f) f.p fun x => x.tileOnce fun x => setTcfg x f.d f.imm.toNat

/-- `TRDC` (R263). -/
def execTrdc (f : TileF) (s : State) : Host.Outcome State Fault Refusal :=
  s.issue (.trdc f) f.p fun x => x.tileOnce fun x =>
    x.setAll 0 x.act fun _ => (getD 0 x.n.tcfg (x.n.coreIdx x.w.unit * 16 + f.a)).toNat

/-- The rows of a `TLD` or `TST` as scratchpad offsets (R269): none where one leaves the partition. -/
def spRows (x : Issue) (p n : Nat) : Option (List Nat) :=
  (List.range n).mapM fun (i : Nat) =>
    let o : Int := (x.elect32 1 : Int) + (i : Int) * sxInt 32 (x.elect32 2)
    if o < 0 ∨ x.n.partSize < o.toNat + p then none else some o.toNat

/-- How the rows of a memory form end: each row's address and pieces, up to the first that traps or faults (R269). -/
def memRows (x : Issue) (write : Bool) (p : Nat) : List Nat → List (Nat × List Piece) × Option Checked
  | [] => ([], none)
  | i :: t =>
    match formAddr (x.val 1 x.elected) ((i : Int) * sxInt 32 (x.elect32 2)) with
    | none => ([], some (.trap 3 0x23))
    | some va =>
      match x.s.checkAccess x.n.ctx (some x.n.launch) x.lvl { write := write, noDev := true } va p with
      | .ok ps => let r := memRows x write p t; ((va, ps) :: r.1, r.2)
      | .fault f done => ([(va, done)], some (.fault f done))
      | e => ([], some e)

/-- The checks that `TLD` and `TST` share (R269). -/
def tileRows (x : Issue) (f : TileF) (go : Issue → TileRef → Nat → Issue) : Issue :=
  let r := x.tile f.d
  let n := x.elect32 3
  if !r.sh.set || n == 0 || decide (r.sh.rows < n) then x.trapFmt 2 else go x r n

/-- `TLD` (R269). -/
def execTld (f : TileF) (s : State) : Host.Outcome State Fault Refusal :=
  s.issue (.tld f) f.p fun x => x.tileOnce fun x => tileRows x f fun x r n =>
    if f.sp then
      match spRows x r.sh.pitch n with
      | none => x.trapAct 3 0x21
      | some os =>
        let x := os.foldl (fun (x : Issue) o => x.readPart o r.sh.pitch) x
        x.handOff (.load r (os.map fun o => x.s.spBytes x.w.unit (x.n.partBase x.w.unit + o) r.sh.pitch))
    else
      let (rows, e) := memRows x false r.sh.pitch (List.range n)
      match e with
      | some (.trap c b) => x.trapAct c b
      | some (.fault g _) => x.parkAct g
      | _ =>
        let (x, bs) := rows.foldl (fun (a : Issue × List (List Byte)) e =>
          let (y, v) := a.1.readMem x.elected e.2
          (y, a.2 ++ [leBytes r.sh.pitch v])) (x, [])
        x.handOff (.load r bs)

/-- The bytes that a store writes for row `i`: the odd half of a last byte is 0 (04 R89). -/
def Node.storedRow (n : Node) (ci : Nat) (r : TileRef) (i : Nat) : List Byte :=
  packRow r.sh.w ((List.range r.sh.cols).map (unpack r.sh.w (n.tileRow ci r i)))

/-- `TST` (R269): the rows before a failing piece stay written (09 R236). -/
def execTst (f : TileF) (s : State) : Host.Outcome State Fault Refusal :=
  s.issue (.tst f) f.p fun x => x.tileOnce fun x => tileRows x f fun x r n =>
    let bytes (i : Nat) : List Byte := x.n.storedRow (x.n.coreIdx x.w.unit) r i
    if f.sp then
      match spRows x r.sh.pitch n with
      | none => x.trapAct 3 0x21
      | some os => os.zipIdx.foldl (fun (x : Issue) e =>
          x.writeSp x.elected x.w.unit (x.n.partBase x.w.unit + e.1) none (bytes e.2) none) x
    else
      let (rows, e) := memRows x true r.sh.pitch (List.range n)
      let stored := rows.zipIdx.foldl (fun (x : Issue) e =>
        x.storeMem x.elected e.1.1 (e.1.2.map (·.n)).sum (ofLe (bytes e.2)) e.1.2) x
      match e with
      | some (.trap c b) => x.trapAct c b
      | some (.fault g _) => stored.parkAct g
      | _ => stored

/-- `TZERO` (R270). -/
def execTzero (f : TileF) (s : State) : Host.Outcome State Fault Refusal :=
  s.issue (.tzero f) f.p fun x => x.tileOnce fun x =>
    let d := x.tile f.d
    if d.sh.set then x.handOff (.zero d) else x.trapFmt 2

/-- `TMOV` (R270). -/
def execTmov (f : TileF) (s : State) : Host.Outcome State Fault Refusal :=
  s.issue (.tmov f) f.p fun x => x.tileOnce fun x =>
    let d := x.tile f.d
    let a := x.tile f.a
    let fits := if f.x then d.sh.rows == a.sh.cols && d.sh.cols == a.sh.rows
      else d.sh.rows * d.sh.cols == a.sh.rows * a.sh.cols
    if d.sh.set && a.sh.set && d.sh.w == a.sh.w && fits then x.handOff (.move d a f.x) else x.trapFmt 2

/-! ### Products (R271–R275) -/

/-- The combinations that `MMA` and `MMAS` accept (04 R103). -/
def productFmts (f : FmtWord) (sparse : Bool) : Bool :=
  let f8 (c : Nat) : Bool := c == 3 || c == 4
  let asym (c : Nat) : Bool := c == 8 || c == 9
  let rnd := f.rnd == 0 || (f.cd != 0 && decide (f.rnd ≤ 3))
  (((f.fa == 1 && f.fb == 1 && (f.cd == 0 || f.cd == 1) && rnd)
      || (f.fa == 2 && f.fb == 2 && (f.cd == 0 || f.cd == 2) && rnd)
      || (f8 f.fa && f8 f.fb && decide (f.cd ≤ 2) && rnd)
      || (f.fa == 6 && f.fb == 6 && f.cd == 5 && f.rnd == 0)) && !f.sc && !f.zp
    || (asym f.fa && asym f.fb && f.rnd == 0 && ((f.cd == 5 && !f.sc) || (f.cd == 0 && f.sc))))
    && (f.gs == 0 || f.sc || f.zp) && ((f.sp != 0) == sparse)

/-- Kept values and group size of a sparsity pattern (R272). -/
def patternOf (p : Nat) : Nat × Nat := if p = 1 then (2, 4) else if p = 2 then (1, 4) else if p = 3 then (4, 8) else (1, 1)

/-- The first failure of the arrays of a product (R275, step 6): each offset aligned, each array within the partition. DESIGN CHOICE (log entry 44): the
arrays are tested one after another, those of A before those of B and scales before zero points, each for its alignment and then for its place. -/
def arrayTrap (x : Issue) (l : List (Nat × Nat)) : Option (Nat × Nat) :=
  l.findSome? fun e => if e.1 % 16 ≠ 0 then some (2, 4) else if x.inPart e.1 e.2 then none else some (3, 0x21)

/-- Bytes of the scale and of the zero-point array of `n` entries. -/
def arraysOf (t : Fmt) (sc zp : Bool) (soff zoff n : Nat) : List (Nat × Nat) :=
  (if sc then [(soff, 2 * n)] else []) ++ (if zp then [(zoff, ceilDiv (n * t.width) 8)] else [])

/-- The shapes of a product agree (R272). -/
def productShapes (p : Product) (k : Nat) : Bool :=
  p.a.sh.set && p.b.sh.set && p.d.sh.set
    && p.a.sh.w == p.fa.width && p.b.sh.w == p.fb.width && p.d.sh.w == p.cd.width
    && p.a.sh.rows == p.d.sh.rows && p.b.sh.rows == p.d.sh.cols
    && (match p.c with | some c => c.sh.set && c.sh.w == p.cd.width && c.sh.dims p.d.sh | none => true)
    && (match p.m with
      | some m => m.sh.set && m.sh.w == 4 && m.sh.dims p.a.sh && p.a.sh.cols % p.keep == 0
          && k * p.keep == p.a.sh.cols * p.of_
      | none => p.a.sh.cols == k)

/-- `MMA` and `MMAS`, with their checks in order (R275). -/
def execProduct (x : Issue) (sparse : Bool) : Issue :=
  x.withWord 1 fun f =>
    if !productFmts f sparse then x.trapFmt 2
    else
      let o := x.elect32 2
      if o % 64 ≠ 0 then x.trapAct 2 4
      else if !x.inPart o 64 then x.trapAct 3 0x21
      else
        let b := x.part o 64
        let y := x.readPart o 64
        let t (k : Nat) : Nat := bitsAt b (4 * k) 4
        let cz := bitAt b 20
        if (List.range 5).any fun k => decide (x.n.desc.t ≤ t k) then x.trapAct 1 0x0D
        else
          let (kp, of_) := patternOf f.sp
          let fa := (Fmt.ofCode f.fa).getD .f32
          let fb := (Fmt.ofCode f.fb).getD .f32
          let p : Product := { a := x.tile (t 0), b := x.tile (t 1), c := if cz then none else some (x.tile (t 2)),
                               d := x.tile (t 3), m := if sparse then some (x.tile (t 4)) else none, keep := kp, of_ := of_,
                               fa := fa, fb := fb, cd := (Fmt.ofCode f.cd).getD .f32,
                               rnd := (Rm.ofCode f.rnd).getD .rne, ga := {}, gb := {} }
          let k := p.b.sh.cols
          let g := groupSize f.gs
          if bitsAt b 21 235 != 0 || bitsAt b 384 128 != 0 || (cz && t 2 != 0) || (!sparse && t 4 != 0) || !productShapes p k then
            x.trapFmt 2
          else if (f.sc || f.zp) && k % g != 0 then x.trapFmt 3
          else
            let ng := if f.sc || f.zp then k / g else 0
            let sa := bitsAt b 256 32
            let za := bitsAt b 288 32
            let sb := bitsAt b 320 32
            let zb := bitsAt b 352 32
            let m := p.a.sh.rows
            let n := p.b.sh.rows
            match arrayTrap x (arraysOf fa f.sc f.zp sa za (m * ng) ++ arraysOf fb f.sc f.zp sb zb (n * ng)) with
            | some (c, u) => x.trapAct c u
            | none =>
              let y := (y.readGroups fa f.sc f.zp sa za ng ng 0 m).readGroups fb f.sc f.zp sb zb ng ng 0 n
              y.handOff (.product { p with
                ga := x.groupVals fa f.sc f.zp sa za g ng ng 0 m, gb := x.groupVals fb f.sc f.zp sb zb g ng ng 0 n })

/-- `MMA` (R271–R275). -/
def execMma (f : TileF) (s : State) : Host.Outcome State Fault Refusal :=
  s.issue (.mma f) f.p fun x => x.tileOnce fun x => execProduct x false

/-- `MMAS` (R271–R275). -/
def execMmas (f : TileF) (s : State) : Host.Outcome State Fault Refusal :=
  s.issue (.mmas f) f.p fun x => x.tileOnce fun x => execProduct x true

/-! ### The vector engine -/

/-- `TCOMP` (R276). -/
def execTcomp (f : TileF) (s : State) : Host.Outcome State Fault Refusal :=
  s.issue (.tcomp f) f.p fun x => x.tileOnce fun x => x.withWord 3 fun w =>
    let fa := (Fmt.ofCode w.fa).getD .f32
    let (n, m) := patternOf f.pat
    let a := x.tile f.a
    let d := x.tile f.d
    let b := x.tile f.b
    if !(w.fa == 1 || w.fa == 2 || w.fa == 3 || w.fa == 4 || w.fa == 6) then x.trapFmt 2
    else if a.sh.set && d.sh.set && b.sh.set && a.sh.w == fa.width && d.sh.w == fa.width && a.sh.cols % m == 0
        && d.sh.cols * m == a.sh.cols * n && b.sh.w == 4 && b.sh.dims d.sh && a.sh.rows == d.sh.rows then
      x.handOff (.compress d a b n m fa)
    else x.trapFmt 2

/-- The steps that `TQNT` and `TDQ` share once their word and shapes are sound (R281): the record for the format `t`, then
`go` with the record and what it names. -/
def withRecord (x : Issue) (pri : Nat) (t : Fmt) (plain : Bool) (a : TileRef) (o : Nat)
    (go : Issue → ParamRec → GroupVals → Issue) : Issue :=
  match x.record pri with
  | none => x.trapFmt 4
  | some r =>
    let on := r.sc || r.zp
    let g := groupSize r.gs
    let groups := ceilDiv a.sh.cols g
    if pri != 0 && !(r.sound t t.isAsym && (!plain || (r.bound == 0 && r.rm == 0))
        && (List.range a.sh.rows).all fun i => (List.range groups).all fun k => x.entryIn t r ((o + i) * r.ng + k)) then x.trapFmt 4
    else if on && a.sh.cols % g != 0 then x.trapFmt 3
    else
      let y := if pri = 0 then x else x.readPart (32 * (pri - 1)) 32
      if on then
        go (y.readGroups t r.sc r.zp r.soff r.zoff r.ng groups o a.sh.rows) r
          (x.groupVals t r.sc r.zp r.soff r.zoff g r.ng groups o a.sh.rows)
      else go y r {}

/-- `TQNT` (R277, R281). -/
def execTqnt (f : TileF) (s : State) : Host.Outcome State Fault Refusal :=
  s.issue (.tqnt f) f.p fun x => x.tileOnce fun x => x.withWord 2 fun w =>
    let fa := (Fmt.ofCode w.fa).getD .f32
    let cd := (Fmt.ofCode w.cd).getD .f32
    let a := x.tile f.a
    let d := x.tile f.d
    if !(decide (w.fa ≤ 2) && cd.isNarrow) then x.trapFmt 2
    else if !(a.sh.set && d.sh.set && d.sh.dims a.sh && a.sh.w == fa.width && d.sh.w == cd.width) then x.trapFmt 2
    else withRecord x w.pri cd false a (x.elect32 3) fun y r g =>
      y.handOff (.quantise d a fa cd ((Rm.ofCode r.rm).getD .rne) r.bound g)

/-- `TDQ` (R278, R281). -/
def execTdq (f : TileF) (s : State) : Host.Outcome State Fault Refusal :=
  s.issue (.tdq f) f.p fun x => x.tileOnce fun x => x.withWord 2 fun w =>
    let fa := (Fmt.ofCode w.fa).getD .f32
    let cd := (Fmt.ofCode w.cd).getD .f32
    let a := x.tile f.a
    let d := x.tile f.d
    if !(decide (w.cd ≤ 2) && decide (w.rnd ≤ 3)) then x.trapFmt 2
    else if !(a.sh.set && d.sh.set && d.sh.dims a.sh && a.sh.w == fa.width && d.sh.w == cd.width) then x.trapFmt 2
    else withRecord x w.pri fa true a 0 fun y _ g =>
      let u := x.elect32 3
      if u % 16 ≠ 0 then x.trapAct 2 4
      else if !x.inPart u (4 * (a.sh.rows + a.sh.cols)) then x.trapAct 3 0x21
      else
        let y := y.readPart u (4 * (a.sh.rows + a.sh.cols))
        y.handOff (.widen d a fa cd ((Rm.ofCode w.rnd).getD .rne) (x.fpArray u a.sh.rows)
          (x.fpArray (u + 4 * a.sh.rows) a.sh.cols) g)

/-- `TRED` (R279). -/
def execTred (f : TileF) (s : State) : Host.Outcome State Fault Refusal :=
  s.issue (.tred f) f.p fun x => x.tileOnce fun x =>
    let a := x.tile f.a
    let d := x.tile f.d
    if a.sh.set && d.sh.set && a.sh.w == 32 && d.sh.w == 32 && d.sh.rows == a.sh.rows && d.sh.cols == 1 then
      x.handOff (.reduce d a f.fn)
    else x.trapFmt 2

/-- `TSCL` (R280). -/
def execTscl (f : TileF) (s : State) : Host.Outcome State Fault Refusal :=
  s.issue (.tscl f) f.p fun x => x.tileOnce fun x =>
    let a := x.tile f.a
    let d := x.tile f.d
    let len := if f.x then a.sh.cols else a.sh.rows
    let u := x.elect32 2
    if !(a.sh.set && d.sh.set && a.sh.w == 32 && d.sh.w == 32 && d.sh.dims a.sh) then x.trapFmt 2
    else if u % 16 ≠ 0 then x.trapAct 2 4
    else if !x.inPart u (8 * len) then x.trapAct 3 0x21
    else (x.readPart u (8 * len)).handOff (.scale d a f.x (x.elect32 3) (x.fpArray u len) (x.fpArray (u + 4 * len) len))

/-- `VTOPK` over the rows of a tile (R282). -/
def execVtopk (f : TileF) (s : State) : Host.Outcome State Fault Refusal :=
  s.issue (.vtopk f) f.p fun x => x.tileOnce fun x =>
    let a := x.tile f.a
    let d := x.tile f.d
    let c := x.tile f.c
    let k := x.elect32 2
    let out (r : TileRef) : Bool := r.sh.set && r.sh.w == 32 && r.sh.rows == a.sh.rows && r.sh.cols == k
    if a.sh.set && a.sh.w == 32 && decide (1 ≤ k) && decide (k ≤ a.sh.cols) && out d && out c then
      x.handOff (.topk d a c k)
    else x.trapFmt 2

/-- `VTOPK.LN` over the lanes of the active path (R282). -/
def execVtopkLn (f : TileF) (s : State) : Host.Outcome State Fault Refusal :=
  s.issue (.vtopkLn f) f.p fun x => x.tileOnce fun x =>
    let k := x.elect32 2
    if k = 0 ∨ 32 < k then x.trapFmt 2
    else
      let top := ((ranked valBefore (x.act.map fun l => (x.val 1 l % 2 ^ 32, l))).take k).map (·.2)
      x.setAll 0 x.act fun l => (top.idxOf? l).getD 0xFFFFFFFF

/-! ### Completion -/

/-- The flags of a completed instruction reach the elected lane, or the fork of the sequencer (04 R98). -/
def State.tileFlags (s : State) (t : TileTask) (fl : Nat) : State :=
  match find t.warp s.warps with
  | none => s
  | some w =>
    match w.role with
    | .seq _ parent =>
      let f (p : Warp) : Warp := { p with fork := p.fork.map fun k => { k with flags := k.flags ||| fl } }
      { s with warps := adjust parent f s.warps }
    | _ => s.setWarp t.warp (w.setLane t.lane fun y => { y with fflags := y.fflags ||| fl })

/-- The oldest tile instruction of its node and core. -/
def State.tileFirst (s : State) (t : TileTask) : Bool :=
  match s.tileQ.find? fun q => q.node == t.node && q.unit == t.unit with | some q => q.id == t.id | none => false

/-- The tiles that an instruction's work writes. -/
def TileWork.writes : TileWork → List TileRef
  | .load d _ => [d] | .zero d => [d] | .move d _ _ => [d] | .product p => [p.d] | .compress d _ m _ _ _ => [d, m]
  | .quantise d _ _ _ _ _ _ => [d] | .widen d _ _ _ _ _ _ _ => [d] | .reduce d _ _ => [d]
  | .scale d _ _ _ _ _ => [d] | .topk d _ v _ => [d, v]

/-- The tiles that it reads. -/
def TileWork.reads : TileWork → List TileRef
  | .load _ _ => [] | .zero _ => [] | .move _ a _ => [a] | .product p => [p.a, p.b] ++ p.c.toList ++ p.m.toList
  | .compress _ a _ _ _ _ => [a] | .quantise _ a _ _ _ _ _ => [a] | .widen _ a _ _ _ _ _ _ => [a] | .reduce _ a _ => [a]
  | .scale _ a _ _ _ _ => [a] | .topk _ a _ _ => [a]

/-- A tile's write clears the poison of each granule that it covers whole (19 R375). -/
def State.cleanTiles (s : State) (nk core : Nat) (ds : List TileRef) : State :=
  { s with poison := s.poison.filter fun p => match p with
      | .tile k c t g => !(k == nk && c == core && ds.any fun r => t == r.t && decide ((g + 1) * 16 ≤ r.sh.rows * r.sh.pitch))
      | _ => true }

/-- Some granule of the rows of these tiles is poisoned. -/
def State.poisonedTiles (s : State) (nk core : Nat) (as : List TileRef) : Bool :=
  s.poison.any fun p => match p with
    | .tile k c t g => k == nk && c == core && as.any fun r => t == r.t && decide (g * 16 < r.sh.rows * r.sh.pitch)
    | _ => false

/-- `TILE_INSTRUCTION_COMPLETE` (04 R98, 11 R265): tile instructions of a core complete in the order of their issue; a poisoned
tile that one reads, those that its block names among them, kills the node (19 R375). -/
def execTileInstructionComplete (id : Nat) (s : State) : Host.Outcome State Fault Refusal :=
  match s.tileQ.find? fun t => t.id == id with
  | none => .next s
  | some t =>
    if !s.tileFirst t then .next s
    else
      let s := { s with tileQ := s.tileQ.filter fun q => q.id != id }
      match find t.node s.nodes with
      | none => .next s
      | some n =>
        let ci := n.coreIdx t.unit
        if s.poisonedTiles t.node ci t.work.reads then .next (s.killNode t.node 0x12 0 0)
        else
          let (n, fl) := n.tileWork ci t.work
          .next (((s.setNode t.node n).tileFlags t fl).cleanTiles t.node ci t.work.writes)

/-- The first tile instruction that can complete. -/
def State.tileEvent (s : State) : Option (Host.Outcome State Fault Refusal) :=
  firstDue s.tileQ fun t => execTileInstructionComplete t.id s

end Sys2Proof.Machine
end

