-- ==== Sys2Proof/Machine/Engines.lean ====
section
/-! DEFINITION. The engine class at issue (12 R284–R302): what each instruction checks in the order of R288, and the command
that it sends; forks and tasks (01 R35–R40). -/

namespace Sys2Proof.Machine

open Issue

/-! ### Engine commands -/

/-- Send a command with its acceptance store, a relaxed store of 0 to the completion word (R286, R287), as one
once-operation with two contributions (20 R440). -/
def sendCommand (x : Issue) (acq : Bool) (contrib : Nat × List Byte) (mk : Cmd → Cmd) : Issue :=
  let done := x.val 3 x.elected
  match x.s.checkAccess x.n.ctx (some x.n.launch) x.lvl { write := true, onlyN := true } done 8 with
  | .trap c b => x.trapAct c b
  | .fault g _ => x.parkAct g
  | .ok ps =>
    let q := ps.headD { va := done, n := 8 }
    let c : Cmd := { instr := x.i, unit := x.w.unit, node := x.nk, ctx := x.n.ctx, launch := x.n.launch, lvl := x.lvl,
                     warp := x.wk, widx := x.w.idx, lane := x.elected, lanes := x.act, at_ := x.at_, acq := acq,
                     doneVa := done, donePa := q.pa, doneTag := q.tag }
    let e : Emit := { lanes := [x.elected], cmd := some (mk c), once := true
                      req := some (.store q.tag ((List.range 8).map fun i => (q.pa + i, 0)))
                      contribs := [{ lane := x.elected, parts := [contrib, (done, [])] }] }
    { x with emits := x.emits ++ [e] }

/-- The completion word is misaligned (R287). -/
def badDone (x : Issue) : Bool := x.val 3 x.elected % 8 != 0

/-- `CPY` (R289): DIR bit 0 makes the destination, bit 1 the source a scratchpad offset. -/
def execCpy (f : EngF) (s : State) : Host.Outcome State Fault Refusal :=
  s.issue (.cpy f) f.p fun x => x.tileOnce fun x =>
    let n := x.elect32 2
    let dst := if bitAt f.x 0 then x.elect32 0 else x.val 0 x.elected
    let src := if bitAt f.x 1 then x.elect32 1 else x.val 1 x.elected
    if badDone x then x.trapAct 2 1
    else if (bitAt f.x 0 && !x.inPart dst n) || (bitAt f.x 1 && !x.inPart src n) then x.trapAct 3 0x21
    else if n = 0 ∨ 2 ^ 31 < n then x.trapAct 6 3
    else sendCommand x f.acq (dst, leBytes 8 src ++ leBytes 4 n) fun c => { c with d := dst, a := src, b := n }

/-- What a lane that waits on a location does with its first read there (R290, R302): the trailing copies of a REDUNDANT
node take the leading copy's value (19 R386). -/
def firstLook (y : Issue) (l : Nat) (ps : List Piece) (hit : Nat → Bool) (d : Option Nat) (wt : Wait) : Issue :=
  let out (y : Issue) (v : Nat) : Issue := match d with | some k => y.set k l v | none => y
  if y.red && y.w.copy != 0 then
    let (y, v) := y.readMem l ps
    out y v
  else
    let v := ofLe (ps.flatMap fun p => (List.range p.n).map fun i => y.laneByte l p.tag (p.pa + i))
    if y.s.badRead y.w.unit ps then { y with kill := some (0x12, 0, 0) }
    else if hit v then out (if y.red then y.putLog l 0 (some (.data v)) else y) v
    else { y with w := y.w.setLane l fun z => { z with st := .waiting, wait := wt } }

/-- `CWAIT` (R290): a lane whose completion word is 0 waits. -/
def execCwait (f : EngF) (s : State) : Host.Outcome State Fault Refusal :=
  s.issue (.cwait f) f.p fun x => x.ex.foldl (fun y l =>
    accessLane y l { write := false, onlyN := true } (some (x.val 1 l)) 8 true noPart fun y va ps =>
      firstLook y l ps (fun v => v != 0) (some 0) (.cwait va f.d)) x

/-- Decompression state of the issuing node on its core. -/
def decompOf (x : Issue) : Decomp := (find x.w.unit x.n.decomp).getD {}
/-- The code lengths of the current generation (R291): empty at generation 0. -/
def Decomp.current (d : Decomp) : List Byte := getD [] d.tables (d.gen % 4)

/-- `DEC` (R292). DESIGN CHOICE (log entry 103): the empty table of generation 0 is one of 16 symbols, so that before any `DTLD` the elements are of 4 bits. -/
def execDec (f : EngF) (s : State) : Host.Outcome State Fault Refusal :=
  s.issue (.dec f) f.p fun x => x.tileOnce fun x =>
    let n := x.elect32 2
    let off := x.elect32 0
    let t := (decompOf x).current
    let g := (decompOf x).gen
    if badDone x then x.trapAct 2 1
    else if !x.inPart off (if t.length = 256 then n else ceilDiv n 2) then x.trapAct 3 0x21
    else if n = 0 ∨ 2 ^ 24 < n then x.trapAct 6 3
    else sendCommand x f.acq (x.val 1 x.elected, leBytes 4 off ++ leBytes 4 n ++ leBytes 4 g) fun c =>
      { c with d := off, a := x.val 1 x.elected, b := n, table := t, gen := g }

/-- The lengths meet R291: none above 16, and Kraft's inequality. -/
def lengthsOk (t : List Byte) : Bool :=
  (t.all fun b => decide (b.toNat ≤ 16))
    && decide ((t.map fun b => if b = 0 then 0 else 2 ^ (16 - b.toNat)).foldl (· + ·) 0 ≤ 2 ^ 16)

/-- `DTLD` (R291): the next generation takes its table, and every lane of the active path its number. -/
def execDtld (f : EngF) (s : State) : Host.Outcome State Fault Refusal :=
  s.issue (.dtld f) f.p fun x => x.tileOnce fun x =>
    let off := x.elect32 1
    let n := if bitAt f.x 0 then 256 else 16
    if off % 16 ≠ 0 then x.trapAct 2 4
    else if !x.inPart off n then x.trapAct 3 0x21
    else
      let t := x.s.spBytes x.w.unit (x.n.partBase x.w.unit + off) n
      if !lengthsOk t then x.trapAct 6 4
      else
        let d := decompOf x
        let g := (d.gen + 1) % 65536
        let nd := x.n
        let x := x.readPart off n
        let d' : Decomp := { gen := g, tables := insert (g % 4) t d.tables }
        ({ x with n := { nd with decomp := insert x.w.unit d' nd.decomp } } : Issue).setAll 0 x.act fun _ => g

/-- `GPOOL` (R293). -/
def execGpool (f : EngF) (s : State) : Host.Outcome State Fault Refusal :=
  s.issue (.gpool f) f.p fun x => x.tileOnce fun x =>
    let off := x.elect32 2
    let h := x.val 1 x.elected
    let t := h / 2 ^ 50
    let tb := tabAt x t
    let b := x.part off 32
    let ooff := bitsAt b 224 32
    let woff := bitsAt b 192 32
    let koff := bitsAt b 160 32
    let nidx := bitsAt b 128 32
    let nel := bitsAt b 112 16
    let voff := bitsAt b 96 16
    let kw := tb.desc.keyBytes
    if badDone x then x.trapAct 2 1
    else if off % 32 ≠ 0 then x.trapAct 2 4
    else if !x.inPart off 32 then x.trapAct 3 0x21
    else if !(x.inPart koff (kw * nidx) && x.inPart woff (4 * nidx) && x.inPart ooff (4 * nel + 4)) then x.trapAct 3 0x21
    else match tabCheck x t (fun d => d.kind == 2) with
      | some (c, u) => x.trapAct c u
      | none =>
        if nidx == 0 || decide (65536 < nidx) || nel == 0 || decide (4096 < nel) || voff % 4 != 0 || decide (voff < kw)
            || decide (tb.desc.rowBytes < voff + 4 * nel) || bitsAt b 0 96 != 0
            || ooff % 16 != 0 || woff % 4 != 0 || koff % 8 != 0 then x.trapAct 6 3
        else
          let y := ((x.readPart off 32).readPart koff (kw * nidx)).readPart woff (4 * nidx)
          sendCommand y f.acq (h, leBytes 4 off) fun c =>
            { c with a := t, block := b,
                     data := x.s.spBytes x.w.unit (x.n.partBase x.w.unit + koff) (kw * nidx)
                       ++ x.s.spBytes x.w.unit (x.n.partBase x.w.unit + woff) (4 * nidx) }

/-- The fields of the block of `ATTN` (R294). -/
structure AttnBlock where
  pend : Nat
  pbeg : Nat
  sigma : Nat
  qoff : Nat
  ooff : Nat
  stoff : Nat
  voff : Nat
  koff : Nat
  dim : Nat
  heads : Nat
  kvf : Nat
  seq : Nat
  deriving DecidableEq, Repr

def AttnBlock.ofNat (b : Nat) : AttnBlock :=
  { pend := bitsAt b 448 64, pbeg := bitsAt b 384 64, sigma := bitsAt b 352 32, qoff := bitsAt b 320 32,
    ooff := bitsAt b 288 32, stoff := bitsAt b 256 32, voff := bitsAt b 240 16, koff := bitsAt b 224 16,
    dim := bitsAt b 56 8, heads := bitsAt b 52 4, kvf := bitsAt b 48 4, seq := bitsAt b 0 14 }

/-- `ATTN` (R294). -/
def execAttn (f : EngF) (s : State) : Host.Outcome State Fault Refusal :=
  s.issue (.attn f) f.p fun x => x.tileOnce fun x =>
    let off := x.elect32 2
    let w := x.part off 64
    let b := AttnBlock.ofNat w
    let row := (tabAt x b.seq).desc.rowBytes
    if badDone x then x.trapAct 2 1
    else if off % 64 ≠ 0 then x.trapAct 2 4
    else if !x.inPart off 64 then x.trapAct 3 0x21
    else if !(x.inPart b.qoff (4 * b.heads * b.dim) && x.inPart b.ooff (4096 * b.heads) && x.inPart b.stoff (32 * b.heads)) then
      x.trapAct 3 0x21
    else match tabCheck x b.seq isSequence with
      | some (c, u) => x.trapAct c u
      | none =>
        if decide (2 ^ 48 < b.pend) || decide (b.pend < b.pbeg) || bitsAt w 64 160 != 0 || bitsAt w 14 34 != 0
            || decide (b.dim < 2) || decide (64 < b.dim) || b.dim % 2 != 0 || b.heads == 0 || decide (8 < b.heads)
            || !(b.kvf == 1 || b.kvf == 2) || b.koff % 2 != 0 || b.voff % 2 != 0
            || decide (row < b.koff + 2 * b.dim) || decide (row < b.voff + 2 * b.dim)
            || b.qoff % 16 != 0 || b.ooff % 16 != 0 || b.stoff % 16 != 0 then x.trapAct 6 3
        else sendCommand (x.readPart off 64) f.acq (0, leBytes 4 off) fun c => { c with block := w }

/-! ### Forks (01 R38–R40, R298) -/

/-- The sequencers that SEQ names, with the entry register of each. -/
def seqEntries (f : EngF) : List (Nat × Nat) :=
  [(0, f.a), (1, f.b), (2, f.c)].filter fun e => bitAt f.x e.1

/-- A sequencer as its fork starts it (01 R38); one of a warp whose node is to stop counts with it (17 R343). -/
def seqWarp (x : Issue) (kind entry : Nat) : Warp :=
  { node := x.nk, idx := x.w.idx, unit := x.w.unit, role := .seq kind x.wk, copy := x.w.copy, preq := x.w.preq, pdleft := x.w.pdleft
    lanes := [{ pc := entry }], s := x.w.s.filter (fun e => decide (e.1 < 64)), castFull := x.n.desc.castSregs kind }

/-- `EFORK` (R298): the named sequencers start together with the warp's scalar registers. -/
def execEfork (f : EngF) (s : State) : Host.Outcome State Fault Refusal :=
  s.issue (.efork f) f.p fun x => x.tileOnce fun x =>
    let es := (seqEntries f).map fun e => (e.1, x.w.sreg e.2 % 2 ^ 32)
    if x.inRegion then x.trapAct 0x0C 4
    else if es.any fun e => e.2 % 4 != 0 then x.trapAct 2 3
    else if x.w.fork.isSome then x.trapAct 6 2
    else
      let id := x.s.nextId
      let ws := es.zipIdx.map fun e => (id + e.2, seqWarp x e.1.1 e.1.2)
      let w := x.w
      let fork : Fork := { seqs := ws.map (·.1), lane := x.elected }
      { x with w := { w with fork := some fork }
               s := { x.s with warps := ws.foldl (fun m e => insert e.1 e.2 m) x.s.warps, nextId := id + ws.length } }

/-- A rendezvous (01 R40): the sequencers become idle, their flags reach the lane that forked them, and the failure of an
aborted fork traps (01 R39). DESIGN CHOICE (log entry 89): the flags that the programs of an aborted fork had raised are discarded; 04 R98 delivers
flags when `ERDV` completes and is silent on one that traps. DESIGN CHOICE (log entry 99): flags that a sequencer's own uniform instructions raise stay
in the sequencer's lane and go with it; R98 delivers those of tile instructions alone. -/
def meetFork (x : Issue) : Issue :=
  match x.w.fork with
  | none => x
  | some k =>
    let w := x.w
    let y : Issue := { x with w := { w with fork := none }, s := { x.s with warps := x.s.warps.filter fun e => !k.seqs.contains e.1 } }
    match k.fail with
    | some (c, b) => y.trapAct c b
    | none => y.flag k.lane k.flags

/-- `ERDV` (R298): with an open fork the warp stalls until the rendezvous; a sequencer idles; without a fork it is `NOP`. -/
def execErdv (f : EngF) (s : State) : Host.Outcome State Fault Refusal :=
  match s.start (.erdv f) f.p with
  | none => .fault .noIssuer
  | some x =>
    if x.once && !x.w.isSeq && x.forkOpen then
      let mark (w : Warp) : Warp := { w with fork := w.fork.map fun k => { k with reached := some (f.p, x.at_) } }
      .next { s with warps := adjust x.wk mark s.warps }
    else s.issue (.erdv f) f.p fun x => x.tileOnce fun x =>
      if x.w.isSeq then { x with w := { x.w with atErdv := true } } else meetFork x

/-! ### Tasks (01 R35, R301, R302) -/

/-- Entries of a deque, with those whose increment is still on its way. -/
def dequeLoad (x : Issue) : Nat :=
  let out (r : Req) : Bool := r.unit == x.w.unit && (match r.kind with | .atomic a => a.task.isSome | _ => false)
  (getD [] x.s.deques x.w.unit).length + ((x.s.held ++ x.s.atomQ).filter out).length + (x.emits.length)

/-- One lane of `TFORK`: the counter's increment, which pushes the task once it is performed. -/
def tforkLane (x y : Issue) (l : Nat) (f : EngF) : Issue :=
  let entry := x.val 2 l % 2 ^ 32
  let ctr := x.w.sreg (f.imm.toNat % 64)
  if ctr % 8 ≠ 0 then y.trap l 2 1
  else if entry % 4 ≠ 0 then y.trap l 2 3
  else accessLane y l { write := true, onlyN := true, atomic := true } (some ctr) 8 true noPart fun y va ps =>
    if Config.dequeSize ≤ dequeLoad y then y.set 0 l 4
    else
      let q := ps.headD { va := va, n := 8 }
      let t : Task := { entry := entry, args := leBytes 16 (x.val 1 l), node := x.nk, counter := q.pa, tag := q.tag, home := q.home }
      let r : ReqKind := .atomic { pa := q.pa, tag := q.tag, home := q.home, size := 8, op := 0, b := 1, c := 0, d := none,
                                   task := some t }
      let e : Emit := { lanes := [l], req := some r }
      ({ y with emits := y.emits ++ [e] } : Issue).set 0 l 0

/-- `TFORK` (R301). -/
def execTfork (f : EngF) (s : State) : Host.Outcome State Fault Refusal :=
  s.issue (.tfork f) f.p fun x =>
    if x.red then x.trapLanes x.ex 0x0C 4 else x.ex.foldl (fun y l => tforkLane x y l f) x

/-- `TJOIN` (R302): a lane whose counter is not 0 waits. -/
def execTjoin (f : EngF) (s : State) : Host.Outcome State Fault Refusal :=
  s.issue (.tjoin f) f.p fun x => x.ex.foldl (fun y l =>
    accessLane y l { write := false, onlyN := true } (some (x.val 1 l)) 8 true noPart fun y va ps =>
      firstLook y l ps (fun v => v == 0) none (.tjoin va)) x

end Sys2Proof.Machine
end

