-- ==== Sys2Proof/Machine/Commands.lean ====
section
/-! DEFINITION. What engine commands do after their issue (12 R286–R295): start, accesses and retries (18 R362), and the
completion word (R287). -/

namespace Sys2Proof.Machine

/-! ### Accesses and ends -/

/-- How an attempt of a command ends: it goes on, it has its completion code (0 is done), or an access stalls it. -/
inductive CmdEnd
  | go (s : State) (c : Cmd)
  | code (s : State) (c : Cmd) (k : Nat)
  | stall (s : State) (c : Cmd) (f : FaultInfo)

def State.putCmd (s : State) (c : Cmd) : State :=
  { s with cmds := s.cmds.map fun q => if q.id = c.id then c else q }

/-- Close the open record of a command's fault (18 R363). -/
def State.closePark (s : State) (c : Cmd) : State :=
  match c.park.bind (·.open_) with | some r => s.resolveRec c.ctx r 1 | none => s

/-- The record of a command's first-stage fault (18 R363); none for a second-stage fault or while the sequence is full. -/
def State.cmdRecord (s : State) (c : Cmd) (f : FaultInfo) : State × Option RecRef :=
  if 0x18 ≤ f.code then (s, none)
  else
    let r : TrapRec := { launchId := (find c.launch s.launches).elim 0 fun l => l.id, frag := 63, warp := c.widx,
                         node := (find c.node s.nodes).elim 0 fun n => n.idx, lanes := 0, epc := c.at_, from_ := c.lvl,
                         sub := Issue.faultSub f true, cause := f.code, args := [(0, f.va), (1, c.doneVa)] }
    match s.appendTrap c.ctx (Issue.faultTbl c.lvl) r with
    | none => (s, none)
    | some (s, ref) => (s, some ref)

/-- A command stalls on a fault, or its retry faults again (18 R361, R362). -/
def State.parkCmd (s : State) (c : Cmd) (f : FaultInfo) : State :=
  match c.park with
  | some p =>
    if Issue.sameFault f p.fault then
      let (s, ref) := if p.open_.isSome then (s, p.open_) else s.cmdRecord c f
      let d := min (2 * p.d) (s.ctx c.ctx).parkceil
      s.putCmd { c with park := some { d := d, due := s.clock c.unit + d, fault := f, open_ := ref } }
    else
      let (s, ref) := (s.closePark c).cmdRecord c f
      s.putCmd { c with park := some { d := 64, due := s.clock c.unit + 64, fault := f, open_ := ref } }
  | none =>
    let (s, ref) := s.cmdRecord c f
    s.putCmd { c with park := some { d := 64, due := s.clock c.unit + 64, fault := f, open_ := ref } }

/-- Take the end of an attempt into the device. -/
def CmdEnd.apply : CmdEnd → State
  | .go s c => (s.closePark c).putCmd { c with park := none }
  | .code s c k => (s.closePark c).putCmd { c with park := none, code := some k }
  | .stall s c f => s.parkCmd c f

/-- Go on with the next part of an attempt. -/
def CmdEnd.andThen (e : CmdEnd) (f : State → Cmd → CmdEnd) : CmdEnd :=
  match e with | .go s c => f s c | e => e

/-- An access of a command's engine (18 R359, 05 R114): its pieces, or the end that a failing one makes: code 3 for a trap
of R235, code 5 where no route leads to the address (21 R404). -/
def State.cmdEnds (s : State) (c : Cmd) : Checked → Except CmdEnd (List Piece)
  | .ok ps => .ok ps
  | .trap _ _ => .error (.code s c 3)
  | .fault f _ => .error (if f.noRoute then .code s c 5 else .stall s c f)

/-- The block whose engine performs a command (12 R286, 16 R310): none for `ATTN`, whose pan units the spec does not name one by one. -/
def State.cmdBlock (s : State) (c : Cmd) : Option Nat :=
  match c.instr with
  | .attn _ => none
  | .gpool _ => some (rakeBlock (s.tableOf c.ctx c.a).desc.home)
  | _ => if c.coll.isSome then some sluiceBlock else some (engineBlock c.unit)

/-- The device as the engine of a command finds it. -/
def State.forCmd (s : State) (c : Cmd) : State := (s.cmdBlock c).elim s fun b => s.viaBlock c.ctx b

/-- The checks of such an access. -/
def State.cmdCheck (s : State) (c : Cmd) (write : Bool) (va n : Nat) : Checked :=
  (s.forCmd c).checkAccess c.ctx (some c.launch) c.lvl { write := write, onlyN := true } va n

/-- Go on with the pieces of an access. -/
def State.cmdAccess (s : State) (c : Cmd) (write : Bool) (va n : Nat) (go : List Piece → CmdEnd) : CmdEnd :=
  match s.cmdEnds c (s.cmdCheck c write va n) with
  | .ok ps => go ps
  | .error e => e

/-- Bytes that pieces hold. -/
def State.rdPieces (s : State) (ps : List Piece) : List Byte := ps.flatMap fun p => s.rdBytes p.tag p.pa p.n
def State.badPieces (s : State) (ps : List Piece) : Bool := ps.any fun p => s.poisonedMem p.pa p.n

/-- Write bytes over pieces, as one write. -/
def State.wrPieces (s : State) (ps : List Piece) (bs : List Byte) : State :=
  s.wrAll (((piecesAddrs ps).zip bs).map fun e => (e.1.2, e.1.1, e.2))

/-- A command writes bytes of its node's partition, in every copy of a REDUNDANT node (19 R386); with the last write of a granule its full/empty bit is
set (05 R112). -/
def State.cmdSpPut (s : State) (c : Cmd) (off : Nat) (bs : List Byte) (last : Bool) : State :=
  match find c.node s.nodes with
  | none => s
  | some n =>
    if n.desc.red then
      match s.pairAt c.node c.widx with
      | none => s
      | some p =>
        let s := s.setPairAt c.node { p with writes := p.writes ++ [⟨c.id, off, bs, last⟩] }
        (List.range p.copies.length).foldl (fun s k => s.copyWrite c.node c.widx k off bs last) s
    else
      let s := s.spWrite c.unit (n.partBase c.unit + off) bs
      if last then s.setFeRange c.unit (n.partBase c.unit + off) bs.length else s

/-- A write that is the last of its granules. -/
def State.cmdSpWrite (s : State) (c : Cmd) (off : Nat) (bs : List Byte) : State := s.cmdSpPut c off bs true

/-- Bytes of the partition that a command reads, and whether they are poisoned. -/
def State.cmdPart (s : State) (c : Cmd) (off n : Nat) : List Byte × Bool :=
  match find c.node s.nodes with
  | none => ([], false)
  | some nd => (s.spBytes c.unit (nd.partBase c.unit + off) n, s.spPoisoned c.unit (nd.partBase c.unit + off) n)

/-! ### Copies -/

/-- The source of a `CPY`, as it stands when the command begins (R289). -/
def State.beginCpy (s : State) (c : Cmd) (dir : Nat) : CmdEnd :=
  if bitAt dir 1 then
    let (bs, bad) := s.cmdPart c c.a c.b
    if bad then .code s c 1 else .go s { c with data := bs, ready := true }
  else s.cmdAccess c false c.a c.b fun ps =>
    if s.badPieces ps then .code s c 1 else .go s { c with data := s.rdPieces ps, ready := true }

/-- The destination of a `CPY` (R289). -/
def State.runCpy (s : State) (c : Cmd) (dir : Nat) : CmdEnd :=
  if bitAt dir 0 then .code (s.cmdSpWrite c c.d c.data) { c with wrote := true } 0
  else s.cmdAccess c true c.d c.b fun ps => .code (s.wrPieces ps c.data) { c with wrote := true } 0

/-! ### Decompression (R291, R292) -/

/-- Coded symbols by ascending length and symbol. -/
def codedSymbols (t : List Byte) : List (Nat × Nat) :=
  (List.range 17).tail.flatMap fun n => (t.zipIdx.filter fun e => e.1.toNat == n).map fun e => (n, e.2)

/-- The canonical codes: length, code and symbol. -/
def canonicalCodes : List (Nat × Nat) → Nat → Nat → List (Nat × Nat × Nat)
  | [], _, _ => []
  | (n, y) :: t, c, prev =>
    let c := c * 2 ^ (n - prev)
    (n, c, y) :: canonicalCodes t (c + 1) n

/-- What the next bits of a stream are: a symbol with its length, no code, or an end at byte `k` that does not read. -/
inductive Coded
  | sym (y len : Nat)
  | none
  | stop (k : Nat)
  deriving DecidableEq, Repr

/-- Match the bits from position `pos` on, `len` of them already read as `code`; `rd` reads a byte of the stream. -/
def matchCode (codes : List (Nat × Nat × Nat)) (rd : Nat → Option Byte) (pos : Nat) : Nat → Nat → Nat → Coded
  | 0, _, _ => .none
  | fuel + 1, len, code =>
    match codes.find? fun e => e.1 == len && e.2.1 == code with
    | some e => .sym e.2.2 len
    | none =>
      if !codes.any fun e => decide (len < e.1) && e.2.1 / 2 ^ (e.1 - len) == code then .none
      else match rd ((pos + len) / 8) with
        | none => .stop ((pos + len) / 8)
        | some b => matchCode codes rd pos fuel (len + 1) (code * 2 + flagNat (bitAt b.toNat (7 - (pos + len) % 8)))

/-- Decode up to `n` elements from a bit position: the elements, the position after them, and why decoding stopped. -/
def decodeStream (codes : List (Nat × Nat × Nat)) (rd : Nat → Option Byte) : Nat → Nat → List Byte × Nat × Option Coded
  | 0, pos => ([], pos, none)
  | n + 1, pos =>
    match matchCode codes rd pos 18 0 0 with
    | .sym y len =>
      let r := decodeStream codes rd n (pos + len)
      (BitVec.ofNat 8 y :: r.1, r.2)
    | e => ([], pos, some e)

/-- Decoded elements as they lie in the partition (R292). -/
def decOut (t es : List Byte) : List Byte := if t.length = 256 then es else packRow 4 (es.map (·.toNat))

/-- A `DEC` from where it has come to (R292): elements decoded before a failure are written. -/
def State.runDec (s : State) (c : Cmd) : CmdEnd :=
  let at_ (k : Nat) : Checked := s.cmdCheck c false ((c.a + k) % 2 ^ 64) 1
  let rd (k : Nat) : Option Byte :=
    match at_ k with
    | .ok ps => if s.badPieces ps then none else (s.rdPieces ps).head?
    | _ => none
  let codes := canonicalCodes (codedSymbols c.table) 0 0
  let (es, pos, e) := decodeStream codes rd (c.b - c.data.length) (c.vals.headD 0)
  let c := { c with data := c.data ++ es, vals := [pos] }
  let out := s.cmdSpWrite c c.d (decOut c.table c.data)
  match e with
  | none => .code out { c with wrote := true } 0
  | some (.stop k) =>
    match at_ k with
    | .fault f _ => if f.noRoute then .code out { c with wrote := true } 5 else .stall s c f
    | .trap _ _ => .code out { c with wrote := true } 3
    | .ok _ => .code out { c with wrote := true } 1
  | some _ => .code out { c with wrote := true } 6

/-! ### Pooling (R293) -/

/-- A row joins the sums of a `GPOOL` under a weight. -/
def poolRow (w : Nat) (sums row : List Nat) : List Nat :=
  (sums.zip row).map fun e => (fpFma lay32 .rne (num32 w) (num32 e.2) (num32 e.1)).1

/-- What the device of a far shard answers to a `GPOOL` lookup: no row, or the elements that the row holds, which are free values (21 R406; log entry
38). -/
def State.farRow (s : State) (nel : Nat) : State × Option (List Nat) :=
  let v (i : Nat) : Nat := Config.freeValue (s.fresh + i)
  ({ s with fresh := s.fresh + 1 + nel }, if v 0 % 2 = 0 then none else some ((List.range nel).map fun i => v (i + 1) % 2 ^ 32))

/-- A `GPOOL` from its next index on; `fuel` bounds the indices left. -/
def State.runGpool (s : State) (c : Cmd) : Nat → CmdEnd
  | 0 =>
    let acc := c.vals.drop 2
    let bs := acc.flatMap (leBytes 4) ++ leBytes 4 (c.vals.getD 1 0)
    .code (s.cmdSpWrite c (bitsAt c.block 224 32) bs) { c with wrote := true } 0
  | fuel + 1 =>
    let i := c.vals.getD 0 0
    let tb := s.tableOf c.ctx c.a
    let kw := tb.desc.keyBytes
    let nidx := bitsAt c.block 128 32
    let nel := bitsAt c.block 112 16
    let voff := bitsAt c.block 96 16
    let key := ofLe ((c.data.drop (i * kw)).take kw)
    let w := ofLe ((c.data.drop (nidx * kw + 4 * i)).take 4)
    let t := s.homeOf c.ctx c.a key
    let miss : Cmd := { c with vals := [i + 1, c.vals.getD 1 0 + 1] ++ c.vals.drop 2 }
    let hit (row : List Nat) : Cmd := { c with vals := [i + 1, c.vals.getD 1 0] ++ poolRow w (c.vals.drop 2) row }
    if s.poison.contains (.index c.ctx t) then .code s c 1
    else if s.away c.ctx t then
      if !s.routed (t / 2 ^ 14 - 1) then .code s c 5
      else match s.farRow nel with
        | (s, none) => (s.countAt c.ctx c.a key).runGpool miss fuel
        | (s, some row) => (s.countAt c.ctx c.a key).runGpool (hit row) fuel
    else match (s.tableOf c.ctx t).lookup key with
      | none => (s.countAt c.ctx c.a key).runGpool miss fuel
      | some x =>
        s.cmdAccess c false ((s.tableOf c.ctx t).rowAddr t x.slot + voff) (4 * nel) fun ps =>
          if s.badPieces ps then .code s c 1
          else (s.countAt c.ctx c.a key).runGpool (hit (words32 (s.rdPieces ps))) fuel

/-! ### Attention (R294, R295) -/

/-- The start of an `ATTN`: its reads of C and of the queries (R294). -/
def State.beginAttn (s : State) (c : Cmd) : CmdEnd :=
  let b := AttnBlock.ofNat c.block
  if (s.tableOf c.ctx b.seq).c < b.pend then .code s c 3
  else
    let (bs, bad) := s.cmdPart c b.qoff (4 * b.heads * b.dim)
    if bad then .code s c 1 else .go s { c with data := bs, ready := true, vals := [0] }

/-- A triple of a head on a stack: m, l, a and bad (R295). -/
structure Triple where
  m : Nat := 0xFF800000
  l : Nat := 0
  a : List Nat := List.replicate 64 0
  bad : Bool := false
  deriving DecidableEq, Repr

/-- `rne32(w * x + y)`, where a weight of +0 makes its product exactly +0 (R295). -/
def weightedSum (w x y : Nat) : Nat := (lay32.round .rne (Num.sum .rne [weighed w x, num32 y])).1

/-- The dot product of R295: the runs of 04 R104 with C = +0. -/
def dotRuns (q k : List Nat) : Nat :=
  ((runs 16 (q.zip k)).foldl (fun acc r =>
    accumulate acc (Num.sum .rne (r.map fun e => (num32 e.1).mul (num32 e.2)))) (0, 0)).1

/-- `fex2(x - y)` (R295): the difference is rounded once. -/
def expDiff (x y : Nat) : Nat := (fpSpecial .ex2 (fpAdd lay32 .rne (num32 x) (num32 y).neg).1).1

/-- One position joins a triple (R295). -/
def Triple.step (t : Triple) (sigma : Nat) (q k v : List Nat) : Triple :=
  let one := (lay32.round .rne oneNum).1
  let s := (fpMul lay32 .rne (num32 sigma) (num32 (dotRuns q k))).1
  if (num32 s).isNan then { t with bad := true }
  else if s = 0xFF800000 then t
  else if (num32 t.m).lt (num32 s) then
    let f := expDiff t.m s
    { t with m := s, l := weightedSum f t.l one,
             a := t.a.zipIdx.map fun e => if e.2 < v.length then weightedSum f e.1 (v.getD e.2 0) else e.1 }
  else
    let w := if (num32 s).eqv (num32 t.m) then one else expDiff s t.m
    { t with l := weightedSum w one t.l,
             a := t.a.zipIdx.map fun e => if e.2 < v.length then weightedSum w (v.getD e.2 0) e.1 else e.1 }

/-- The 512 bytes of a record, and its status (R295). -/
def Triple.record (t : Triple) : List Byte × Nat :=
  let nan := lay32.nanBits
  if t.bad then (List.replicate 128 nan |>.flatMap (leBytes 4), 2)
  else if t.m = 0xFF800000 then ((List.range 32).flatMap fun _ => leBytes 4 t.m ++ List.replicate 12 0, 1)
  else ((List.range 32).flatMap fun j => leBytes 4 t.m ++ leBytes 4 t.l ++ leBytes 4 (t.a.getD (2 * j) 0)
          ++ leBytes 4 (t.a.getD (2 * j + 1) 0), 0)

/-- A vector of `d` FP16 or BF16 elements as FP32 bits (R295). -/
def vecOf (kvf : Nat) (bs : List Byte) (d : Nat) : List Nat :=
  let t : Fmt := if kvf = 1 then .f16 else .bf16
  (List.range d).map fun i => (lay32.round .rne (match t.value (unpack 16 bs i) with | .nan _ => .nan false | y => y)).1

/-- The stack that holds the block of a position (06 R160). -/
def State.stackOf (s : State) (tb : Table) (p : Nat) : Option Nat :=
  (find (tb.blockOf (tb.posOff p / tb.desc.rowBytes)).1 tb.blocks).bind fun id => (find id s.blockRef).map (·.2)

/-- The positions of one stack join the triples of every head, in ascending order (R295). -/
def State.attnStack (s : State) (c : Cmd) (b : AttnBlock) : List Nat → List Triple → Except CmdEnd (List Triple)
  | [], ts => .ok ts
  | p :: ps, ts =>
    let tb := s.tableOf c.ctx b.seq
    let r := (s.opSqloc c.ctx { lane := 0, tbl := b.seq, a := p }).2
    if r.sr = some 5 then .error (.code s c 3)
    else if r.sr = some 6 then s.attnStack c b ps ts
    else
      let va := b.seq * 2 ^ 50 + tb.posOff p
      match s.cmdEnds c (s.cmdCheck c false (va + b.koff) (2 * b.dim)), s.cmdEnds c (s.cmdCheck c false (va + b.voff) (2 * b.dim)) with
      | .ok kp, .ok vp =>
        if s.badPieces kp || s.badPieces vp then .error (.code s c 1)
        else
          let kv := vecOf b.kvf (s.rdPieces kp) b.dim
          let vv := vecOf b.kvf (s.rdPieces vp) b.dim
          s.attnStack c b ps (ts.zipIdx.map fun e =>
            e.1.step b.sigma (words32 ((c.data.drop (4 * b.dim * e.2)).take (4 * b.dim))) kv vv)
      | .error e, _ => .error e
      | _, .error e => .error e

/-- An `ATTN` from its next stack on (R295); `fuel` bounds the stacks left. -/
def State.runAttn (s : State) (c : Cmd) : Nat → CmdEnd
  | 0 => .code s c 0
  | fuel + 1 =>
    let b := AttnBlock.ofNat c.block
    let t := c.vals.headD 0
    let tb := s.tableOf c.ctx b.seq
    let ps := ((List.range (b.pend - b.pbeg)).map fun i => b.pbeg + i).filter fun p => s.stackOf tb p == some t
    match s.attnStack c b ps (List.replicate b.heads {}) with
    | .error e => e
    | .ok ts =>
      let s := ts.zipIdx.foldl (fun (s : State) e =>
        let r := e.1.record
        (s.cmdSpWrite c (b.ooff + 512 * (8 * e.2 + t)) r.1).cmdSpPut c (b.stoff + 4 * (8 * e.2 + t)) (leBytes 4 r.2) (t % 4 == 3)) s
      s.runAttn { c with vals := [t + 1], wrote := true } fuel

/-! ### One attempt -/

/-- The reads that a command makes as it begins. -/
def State.beginCmd (s : State) (c : Cmd) : CmdEnd :=
  if c.ready then .go s c
  else match c.instr with
    | .cpy f => s.beginCpy c f.x
    | .attn _ => s.beginAttn c
    | .gpool _ => .go s { c with ready := true, vals := [0, 0] ++ List.replicate (bitsAt c.block 112 16) 0 }
    | _ => .go s { c with ready := true }

/-- The rest of a command. -/
def State.workCmd (s : State) (c : Cmd) : CmdEnd :=
  match c.instr with
  | .cpy f => s.runCpy c f.x
  | .dec _ => s.runDec c
  | .gpool _ => s.runGpool c (bitsAt c.block 128 32 - c.vals.getD 0 0)
  | .attn _ => s.runAttn c (8 - c.vals.headD 0)
  | _ => .go s c

/-! ### Start and completion (R286, R287) -/

/-- The acceptance store of a command has left its core: the completion write follows it (R286). -/
def State.accepted (s : State) (c : Cmd) : Bool := !s.held.any fun r => r.id + 1 == c.id

/-- The completion word of a code (R287). -/
def doneWord (k : Nat) : Nat := if k = 0 then 1 else 2 ^ 31 + k

/-- What a command that fails leaves written: a `DEC` whose retries end has written the elements decoded before the failure (R292). -/
def State.leaveWritten (s : State) (c : Cmd) : State :=
  match c.instr, c.code with
  | .dec _, some 2 => if c.data.isEmpty then s else s.cmdSpWrite c c.d (decOut c.table c.data)
  | _, _ => s

/-- Write the completion word of a command that has its code, once its acceptance store is performed. -/
def State.finishCmd (s : State) (id : Nat) : State :=
  match s.cmds.find? fun c => c.id == id with
  | none => s
  | some c =>
    match c.code with
    | none => s
    | some k =>
      if s.accepted c then
        { (s.leaveWritten c).wrBytes c.doneTag c.donePa (leBytes 8 (doneWord k)) with cmds := s.cmds.filter fun q => q.id != id }
      else s

/-- A command may go on: it has left its queue and no fault stalls it. -/
def Cmd.live (c : Cmd) : Bool := c.started && c.park.isNone && c.code.isNone

/-- The commands of a killed node complete with code 8 (01 R45). -/
def State.abortCmd (s : State) (c : Cmd) : State := CmdEnd.apply (.code s c 8)

/-- Work on a command and, where it comes to its end, write its completion word. -/
def State.stepCmd (s : State) (id : Nat) (mine : Instr → Bool) : State :=
  match s.cmds.find? fun c => c.id == id with
  | none => s
  | some c =>
    if !mine c.instr then s
    else
      let s := if c.aborted && c.started && c.code.isNone then s.abortCmd c
               else if c.live then ((s.beginCmd c).andThen State.workCmd).apply else s
      s.finishCmd id

/-- `CPY_COMPLETE` (R289). -/
def execCpyComplete (id : Nat) (s : State) : Host.Outcome State Fault Refusal :=
  .next (s.stepCmd id fun i => match i with | .cpy _ => true | _ => false)

/-- `DEC_COMPLETE` (R292). -/
def execDecComplete (id : Nat) (s : State) : Host.Outcome State Fault Refusal :=
  .next (s.stepCmd id fun i => match i with | .dec _ => true | _ => false)

/-- `GPOOL_COMPLETE` (R293). -/
def execGpoolComplete (id : Nat) (s : State) : Host.Outcome State Fault Refusal :=
  .next (s.stepCmd id fun i => match i with | .gpool _ => true | _ => false)

/-- `ATTN_COMPLETE` (R295). -/
def execAttnComplete (id : Nat) (s : State) : Host.Outcome State Fault Refusal :=
  .next (s.stepCmd id fun i => match i with | .attn _ => true | _ => false)

/-- What a command that acquires waits for: the earlier requests of the issuing lanes (05 R134, R137). -/
def State.acquired (s : State) (c : Cmd) : Bool :=
  !(s.held ++ s.atomQ ++ s.rakeQ).any fun r =>
    r.who.warp == c.warp && decide (r.id < c.id) && r.lanes.any fun l => c.lanes.contains l

/-- What a command of a REDUNDANT node waits for: every earlier entry of the buffer has left (19 R387). -/
def State.entriesOut (s : State) (c : Cmd) : Bool :=
  !((find c.node s.nodes).elim false fun n => n.desc.red)
    || !(s.held.any fun r => s.partyOf r.who.warp == s.partyOf c.warp && decide (r.id < c.id))

/-- The oldest command of a unit that has not left its queue, where it may leave: a saved node, or one that has stopped,
keeps its commands (R304). What its lanes' earlier accesses and commands are still to do to bytes that it writes comes first (24 R435). -/
def State.nextCmd (s : State) (unit : Nat) : Option Cmd :=
  (s.cmds.find? fun c => c.unit == unit && !c.started).filter fun c =>
    c.aborted || ((find c.node s.nodes).elim false fun n =>
      n.st == .running && ((s.warpsOf c.node).isEmpty || (s.warpsOf c.node).any fun e => e.2.stop == .running))
      && (!c.acq || s.acquired c) && s.entriesOut c && !s.cmdBehind c

/-- `ENGINE_COMMAND_START` (R286): the oldest command of a unit's queue goes to its engine; one whose entry an uncorrectable error has reached fails
(19 R375). -/
def execEngineCommandStart (unit : Nat) (s : State) : Host.Outcome State Fault Refusal :=
  match s.nextCmd unit with
  | none => .next s
  | some c =>
    let c := { c with started := true }
    if c.aborted then .next (s.abortCmd c)
    else if s.poisonedEntry c.id then .next (CmdEnd.apply (.code s c 1))
    else .next (s.beginCmd c).apply

/-! ### Waits (R290, R302) -/

/-- What a lane waits on: the address, and the values that end its wait. -/
def Wait.looks : Wait → Option (Nat × (Nat → Bool) × Option Nat)
  | .cwait va d => some (va, fun v => v != 0, some d)
  | .tjoin va => some (va, fun v => v == 0, Option.none)
  | _ => Option.none

/-- The read that ends a lane's wait: its value, or none where it waits on; an address that no longer translates, or poisoned
data, also end it. -/
def State.lookEnds (s : State) (wk : Nat) (w : Warp) (l : Nat) : Option (Option Nat × Bool) :=
  match (w.lane l).st, (w.lane l).wait.looks with
  | .waiting, some (va, hit, _) =>
    match s.reread wk w l va 8 with
    | none => some (none, false)
    | some (v, true) => some (some v, true)
    | some (v, false) => if hit v then some (some v, false) else none
  | _, _ => none

/-- A lane that waits on a location reads it again; where that read faults, it issues its instruction again and faults
there. -/
def State.lookAgain (s : State) (wk lane : Nat) : State :=
  match find wk s.warps with
  | none => s
  | some w =>
    match s.lookEnds wk w lane with
    | none => s
    | some (_, true) => s.killNode w.node 0x12 0 0
    | some (none, _) => s.setWarp wk (w.setLane lane fun y => { y with st := .running, wait := .none, pc := y.pc - 8 })
    | some (some v, false) =>
      match (w.lane lane).wait with
      | .cwait _ d => s.wake wk lane d 8 v
      | _ =>
        let s := s.setWarp wk (w.setLane lane fun y => { y with st := .running, wait := .none })
        if w.copy == 0 && ((find w.node s.nodes).elim false fun n => n.desc.red) then s.logPut w.node w.idx lane (.data v) else s

/-- `CWAIT_RELEASE` (R290). -/
def execCwaitRelease (r lane : Nat) (s : State) : Host.Outcome State Fault Refusal :=
  match find r s.warps with
  | some w => match (w.lane lane).wait with | .cwait _ _ => .next (s.lookAgain r lane) | _ => .next s
  | none => .next s

/-- `TJOIN_RELEASE` (R302). -/
def execTjoinRelease (r lane : Nat) (s : State) : Host.Outcome State Fault Refusal :=
  match find r s.warps with
  | some w => match (w.lane lane).wait with | .tjoin _ => .next (s.lookAgain r lane) | _ => .next s
  | none => .next s

/-! ### Rendezvous (01 R40) -/

/-- The rendezvous of a warp can take place. -/
def State.mayMeet (s : State) (wk : Nat) : Option (Pred × Nat) :=
  (find wk s.warps).bind fun w => w.fork.bind fun k => k.reached.bind fun e =>
    if w.issuePc == some e.2 && w.stop == .running && w.suspended.isNone
        && !(s.held ++ s.atomQ ++ s.rakeQ).any (fun r => w.drain.contains r.id)
        && ((find w.node s.nodes).elim false fun n => n.st == .running)
        && (k.fail.isSome || (k.seqs.all fun q => (match find q s.warps with | some v => v.atErdv | none => true))
          && !s.tileQ.any fun t => k.seqs.contains t.warp) then some e
    else none

/-- `ERDV_RENDEZVOUS` (01 R40): the warp that has reached its `ERDV` performs it. -/
def execErdvRendezvous (r : Nat) (s : State) : Host.Outcome State Fault Refusal :=
  match s.mayMeet r with
  | none => .next s
  | some (p, _) => execErdv { p := p } { s with cur := some r }

/-! ### Tasks (01 R36, R37) -/

/-- The lowest empty warp slot of a node on a unit. A pre-empted node starts tasks as long as none of its warps has stopped (17 R343, R347; log
entry 47). -/
def State.emptySlot (s : State) (nk u : Nat) : Option Nat :=
  match find nk s.nodes with
  | none => none
  | some n =>
    if n.st == .running && (n.pre.isNone || (s.warpsOf nk).all fun e => e.2.stop == .running) && !n.desc.pan && n.units.contains u then
      (List.range n.desc.w).find? fun j =>
        !s.warps.any fun e => e.2.node == nk && e.2.unit == u && !e.2.isSeq && e.2.idx % max 1 n.desc.w == j
    else none

/-- Start a task in an empty slot of its node (R37): as R17 states, with the node's parameters but for `s1` and `s2`. While the node's warps run
under a pre-emption request, it takes their request and their count (log entry 47). -/
def State.startTask (s : State) (t : Task) (u : Nat) : State :=
  match find t.node s.nodes, s.emptySlot t.node u with
  | some n, some j =>
    let a := ofLe t.args
    let w := freshWarp t.node n (n.coreIdx u * n.desc.w + j) u 0 t.entry 32 (.task t.counter t.tag t.home) 0
      (((n.desc.params.zipIdx.map fun e => (e.2 + 1, e.1)).drop 2) ++ [(1, BitVec.ofNat 64 a), (2, BitVec.ofNat 64 (a / 2 ^ 64))])
    let w := match (s.warpsOf t.node).find? fun e => e.2.preq with
      | some e => { w with preq := true, pdleft := e.2.pdleft }
      | none => w
    { s with warps := insert s.nextId w s.warps, nextId := s.nextId + 1 }
  | _, _ => s

/-- The other cores of a cluster in the order of their probes (R36). -/
def probeOrder (u : Nat) : List Nat := [1, 2, 3, 4, 5, 6, 7].map fun k => u / 8 * 8 + (u % 8 ^^^ k)

/-- The first core whose tail task has a slot on this one. -/
def State.stealFrom (s : State) (u : Nat) : Option Nat :=
  (probeOrder u).find? fun v => match (getD [] s.deques v).getLast? with
    | some t => (s.emptySlot t.node u).isSome
    | none => false

/-- One of the nodes of a core has an empty slot there. -/
def State.hasSlot (s : State) (u : Nat) : Bool := s.nodes.any fun e => (s.emptySlot e.1 u).isSome

/-- A core with an empty slot pops its own deque, or probes the others (R36); after a probe in vain it waits 64 cycles. -/
def State.takeTask (s : State) (u : Nat) : State :=
  match getD [] s.deques u with
  | t :: rest =>
    if (s.emptySlot t.node u).isSome then ({ s with deques := put [] u rest s.deques } : State).startTask t u else s
  | [] =>
    if !s.hasSlot u then s
    else match s.stealFrom u with
      | none => { s with probeDue := insert u (s.now + 64) s.probeDue }
      | some v =>
        match (getD [] s.deques v).getLast? with
        | none => s
        | some t =>
          ({ s with deques := put [] v (getD [] s.deques v).dropLast s.deques, probeDue := erase u s.probeDue } : State).startTask t u

/-- `TASK_START` (R36). -/
def execTaskStart (unit : Nat) (s : State) : Host.Outcome State Fault Refusal :=
  if decide (s.now < getD 0 s.probeDue unit) && (getD [] s.deques unit).isEmpty then .next s else .next (s.takeTask unit)

/-- `TASK_STEAL_RETRY` (R36): after 64 cycles the core probes again. -/
def execTaskStealRetry (unit : Nat) (s : State) : Host.Outcome State Fault Refusal :=
  match find unit s.probeDue with
  | some due => if s.now < due then .next s else .next (({ s with probeDue := erase unit s.probeDue } : State).takeTask unit)
  | none => .next s

/-- A core can pop its own head: it does so before another core steals (R36). -/
def State.popReady (s : State) (u : Nat) : Bool :=
  match getD [] s.deques u with | t :: _ => (s.emptySlot t.node u).isSome | [] => false

/-- Cores that can start a task now, or probe for one. -/
def State.taskReady (s : State) (u : Nat) : Bool :=
  match getD [] s.deques u with
  | t :: _ => (s.emptySlot t.node u).isSome
  | [] => (find u s.probeDue).isNone && s.hasSlot u

/-! ### The events that are due -/

/-- Units that hold nodes. -/
def State.busyUnits (s : State) : List Nat := distinct (s.nodes.flatMap fun e => e.2.units)

/-- Commands of an instruction that can be worked on or completed. -/
def State.cmdDue (s : State) (mine : Instr → Bool) : List Cmd :=
  s.cmds.filter fun c => mine c.instr && c.started
    && (if c.code.isSome then s.accepted c else c.aborted || c.park.isNone)

/-- The first engine event that is due. -/
def State.engEvent (s : State) : Option (Host.Outcome State Fault Refusal) :=
  firstDue ((distinct (s.cmds.map (·.unit))).filter fun u => (s.nextCmd u).isSome) (fun u => execEngineCommandStart u s)
    <|> firstDue (s.cmdDue fun i => match i with | .cpy _ => true | _ => false) (fun c => execCpyComplete c.id s)
    <|> firstDue (s.cmdDue fun i => match i with | .dec _ => true | _ => false) (fun c => execDecComplete c.id s)
    <|> firstDue (s.cmdDue fun i => match i with | .gpool _ => true | _ => false) (fun c => execGpoolComplete c.id s)
    <|> firstDue (s.cmdDue fun i => match i with | .attn _ => true | _ => false) (fun c => execAttnComplete c.id s)
    <|> firstDue (s.warps.filter fun e => (s.mayMeet e.1).isSome) (fun e => execErdvRendezvous e.1 s)
    <|> firstDue ((s.lanesWaiting fun _ y => y.wait.looks.isSome).filter fun e =>
          match find e.1 s.warps with
          | some w => (match (w.lane e.2).wait with | .cwait _ _ => true | _ => false) && (s.lookEnds e.1 w e.2).isSome
          | none => false) (fun e => execCwaitRelease e.1 e.2 s)
    <|> firstDue ((s.lanesWaiting fun _ y => y.wait.looks.isSome).filter fun e =>
          match find e.1 s.warps with
          | some w => (match (w.lane e.2).wait with | .tjoin _ => true | _ => false) && (s.lookEnds e.1 w e.2).isSome
          | none => false) (fun e => execTjoinRelease e.1 e.2 s)
    <|> firstDue (s.busyUnits.filter s.popReady) (fun u => execTaskStart u s)
    <|> firstDue (s.busyUnits.filter s.taskReady) (fun u => execTaskStart u s)
    <|> firstDue (s.probeDue.filter fun e => decide (e.2 ≤ s.now)) (fun e => execTaskStealRetry e.1 s)

end Sys2Proof.Machine
end

