-- ==== Sys2Proof/Machine/Sluice.lean ====
section
/-! DEFINITION. Collectives (12 R296, R297; 21 R408–R419): what `COLL` checks and reads at its issue, the trees that Sluice derives
from the link table, the chunks, the marks, and the delivery of all-to-all blocks. -/

namespace Sys2Proof.Machine

open Issue

/-! ### Issue -/

/-- The fields of a `COLL` descriptor (12 R296). -/
structure CollDesc where
  recv : Nat
  send : Nat
  cnta : Nat
  dlva : Nat
  chunk : Nat
  count : Nat
  red : Nat
  dt : Nat
  rsvd : Bool
  deriving DecidableEq, Repr

def CollDesc.ofNat (b : Nat) : CollDesc :=
  { recv := bitsAt b 448 64, send := bitsAt b 384 64, cnta := bitsAt b 320 64, dlva := bitsAt b 256 64, chunk := bitsAt b 224 32,
    count := bitsAt b 128 48, red := bitsAt b 4 4, dt := bitsAt b 0 4, rsvd := bitsAt b 176 48 != 0 || bitsAt b 8 120 != 0 }

/-- The format of an element (12 R296). -/
def collFmt (dt : Nat) : Fmt := if dt = 0 then .f32 else if dt = 1 then .f16 else if dt = 2 then .bf16 else .i32

/-- The descriptor is within its limits (12 R296). -/
def CollDesc.sound (d : CollDesc) (fn : Nat) : Bool :=
  !d.rsvd && decide (4096 ≤ d.chunk) && decide (d.chunk ≤ 2 ^ 24) && d.chunk % 64 == 0
    && (d.dt == 0 || d.dt == 1 || d.dt == 2 || d.dt == 5)
    && (if fn = 3 then d.count == 0 else decide (1 ≤ d.count) && decide (d.count ≤ 2 ^ 40) && d.cnta == 0 && d.dlva == 0)
    && (if fn ≤ 1 then decide (d.red ≤ 2) else d.red == 0)

/-- The header is within its limits (R408). -/
def commSound (h : Nat) : Bool :=
  bitsAt h 320 192 == 0 && bitsAt h 45 83 == 0 && bitsAt h 12 20 == 0 && decide (1 ≤ bitsAt h 160 32)
    && decide (bitsAt h 160 32 ≤ 2 ^ 24) && decide (1 ≤ bitsAt h 32 13) && decide (bitsAt h 32 13 ≤ 4096)
    && decide (bitsAt h 0 12 < bitsAt h 32 13)

/-- Numbers of 16 bits, low byte first, in a list of bytes. -/
def words16 : List Byte → List Nat
  | a :: b :: t => ofLe [a, b] :: words16 t
  | _ => []

/-- The member array is within its limits (R408). -/
def membersSound (ms : List Nat) (rank devid : Nat) : Bool :=
  ms.all (fun m => decide (m < 4096)) && decide (ms.eraseDups.length = ms.length) && ms.getD rank 4096 == devid

/-- A relaxed load of the elected lane (R417); a fault parks the active path. -/
def collLoad (x : Issue) (va n : Nat) (go : Issue → Nat → Issue) : Issue :=
  match x.s.checkAccess x.n.ctx (some x.n.launch) x.lvl { write := false, onlyN := true } va n with
  | .trap c b => x.trapAct c b
  | .fault f _ => x.parkAct f
  | .ok ps => let (y, v) := x.readMem x.elected ps; go y v

/-- `COLL` (12 R288, R296; 21 R408, R417). -/
def collIssue (x : Issue) (f : EngF) (fn : Nat) : Issue :=
  let off := x.elect32 2
  let comm := x.val 1 x.elected
  let d := CollDesc.ofNat (x.part off 64)
  let rt := d.recv / 2 ^ 50
  if x.inRegion then x.trapAct 0x0C 4
  else if badDone x then x.trapAct 2 1
  else if off % 64 ≠ 0 then x.trapAct 2 4
  else if !x.inPart off 64 then x.trapAct 3 0x21
  else match (if fn = 3 then tabCheck x rt (fun t => isSequence t && !t.pl) else none) with
    | some (c, u) => x.trapAct c u
    | none =>
      if !d.sound fn then x.trapAct 6 3
      else collLoad (x.readPart off 64) comm 64 fun x h =>
        let p := bitsAt h 32 13
        let rank := bitsAt h 0 12
        if !commSound h then x.trapAct 6 3
        else collLoad x (bitsAt h 192 64) (2 * p) fun x a =>
          let ms := words16 (leBytes (2 * p) a)
          if !membersSound ms rank x.s.settings.devid || decide (bitsAt h 160 32 < collChunks fn p d.count d.dt d.chunk) then x.trapAct 6 3
          else
            let k : Coll := { comm := comm, p := p, rank := rank, marka := bitsAt h 256 64, members := ms, fn := fn, det := f.det,
                              send := d.send, recv := d.recv, cnta := d.cnta, dlva := d.dlva, chunk := d.chunk, count := d.count,
                              red := d.red, dt := d.dt, rowlg := if fn = 3 then (tabAt x rt).desc.rowlg else 0 }
            sendCommand x f.acq (comm, leBytes 4 off) fun c => { c with coll := some k }

/-- `COLL.ALLRED` (12 R296). -/
def execCollAllred (f : EngF) (s : State) : Host.Outcome State Fault Refusal :=
  s.issue (.collAllred f) f.p fun x => x.tileOnce fun x => collIssue x f 0

/-- `COLL.REDSC` (12 R296). -/
def execCollRedsc (f : EngF) (s : State) : Host.Outcome State Fault Refusal :=
  s.issue (.collRedsc f) f.p fun x => x.tileOnce fun x => collIssue x f 1

/-- `COLL.ALLGATH` (12 R296). -/
def execCollAllgath (f : EngF) (s : State) : Host.Outcome State Fault Refusal :=
  s.issue (.collAllgath f) f.p fun x => x.tileOnce fun x => collIssue x f 2

/-- `COLL.ATOA` (21 R416). -/
def execCollAtoa (f : EngF) (s : State) : Host.Outcome State Fault Refusal :=
  s.issue (.collAtoa f) f.p fun x => x.tileOnce fun x => collIssue x f 3

/-! ### Trees (R410) -/

/-- The edges of the member graph, in row order (R410). -/
def State.memberEdges (s : State) (ms : List Nat) : List Edge :=
  s.upLinks.filter fun e => ms.contains e.1 && ms.contains e.2.2.1

/-- The far end and the near port of an edge at a vertex. -/
def Edge.at (e : Edge) (u : Nat) : Option (Nat × Nat) :=
  if e.1 = u then some (e.2.2.1, e.2.1) else if e.2.2.1 = u then some (e.1, e.2.2.2) else none

/-- Insert by far end, then port. -/
def edgeInsert (x : Nat × Nat × Edge) : List (Nat × Nat × Edge) → List (Nat × Nat × Edge)
  | [] => [x]
  | y :: t => if decide (x.1 < y.1) || (x.1 == y.1 && decide (x.2.1 < y.2.1)) then x :: y :: t else y :: edgeInsert x t

/-- The edges at a vertex by ascending device at the far end, then port. -/
def edgesAt (es : List Edge) (u : Nat) : List (Nat × Nat × Edge) :=
  (es.filterMap fun e => (e.at u).map fun a => (a.1, a.2, e)).foldl (fun l x => edgeInsert x l) []

/-- A tree: its root, and each edge taken with its parent and child, in the order of the visit. -/
structure Tree8 where
  root : Nat
  visited : List Nat
  kids : List (Nat × Nat × Edge)
  deriving DecidableEq, Repr

/-- The depth-first visit of R410; `fuel` bounds its depth. -/
def visit (es : List Edge) : Nat → Nat → Tree8 → Tree8
  | 0, _, t => t
  | fuel + 1, u, t =>
    (edgesAt es u).foldl (fun t x =>
      if t.visited.contains x.1 then t
      else visit es fuel x.1 { t with visited := x.1 :: t.visited, kids := t.kids ++ [(u, x.1, x.2.2)] }) t

/-- The trees built from the unused edges, from tree `t` on, `fuel` of them at most. -/
def buildTrees (ms : List Nat) : Nat → Nat → List Edge → List Tree8
  | 0, _, _ => []
  | fuel + 1, t, unused =>
    let root := ms.getD (t % ms.length) 0
    let tr := visit unused ms.length root { root := root, visited := [root], kids := [] }
    if ms.all tr.visited.contains then
      tr :: buildTrees ms fuel (t + 1) (unused.filter fun e => !tr.kids.any fun k => k.2.2 == e)
    else []

/-- The tree set of a member graph (R410). -/
def treesOf (ms : List Nat) (es : List Edge) : List Tree8 := buildTrees ms 8 0 es

/-- The children of a vertex, by ascending device. -/
def Tree8.children (t : Tree8) (ms : List Nat) (u : Nat) : List Nat :=
  let c := (t.kids.filter fun k => k.1 == u).map (·.2.1)
  (List.range 4096).filter fun d => ms.contains d && c.contains d

/-! ### Reductions (12 R296, 21 R411) -/

/-- One element of a reduction: sums round once, maxima and minima follow 08 R204. -/
def collOp (dt red a b : Nat) : Nat :=
  match (collFmt dt).layout with
  | none => if red = 0 then (a + b) % 2 ^ 32 else if red = 1 then maxOf false 32 a b else minOf false 32 a b
  | some F =>
    if red = 0 then (fpAdd F .rne (F.value a) (F.value b)).1
    else
      let up (w : Nat) : Nat := (lay32.round .rne (match F.value w with | .nan _ => .nan false | y => y)).1
      let r := fpMinMax (red == 1) (up a) (up b)
      (F.round .rne (match lay32.value r with | .nan _ => .nan false | y => y)).1

/-- Elements in bytes, and back. -/
def elemsOf (dt : Nat) (bs : List Byte) : List Nat :=
  (List.range (bs.length / collSize dt)).map fun i => ofLe ((bs.drop (i * collSize dt)).take (collSize dt))
def bytesOf (dt : Nat) (es : List Nat) : List Byte := es.flatMap (leBytes (collSize dt))

def zipOp (dt red : Nat) (a b : List Nat) : List Nat := (a.zip b).map fun e => collOp dt red e.1 e.2

/-- The partial of a vertex (R411); `fuel` bounds the depth of the tree. -/
def partialAt (t : Tree8) (ms : List Nat) (op : List Nat → List Nat → List Nat) (val : Nat → List Nat) : Nat → Nat → List Nat
  | 0, u => val u
  | fuel + 1, u =>
    match (t.children ms u).map (partialAt t ms op val fuel) with
    | [] => val u
    | k :: ks => op (ks.foldl op k) (val u)

/-- The value that the root of a chunk's tree sends (R411): under `DET` in rank order. -/
def reduceChunk (k : Coll) (t : Tree8) (val : Nat → List Nat) : List Nat :=
  let op := zipOp k.dt k.red
  if k.det then
    match k.members.map val with
    | [] => []
    | v :: vs => vs.foldl op v
  else partialAt t k.members op val k.members.length t.root

/-! ### Chunks (R411–R413, R419) -/

/-- The bytes of a chunk: first, and end. -/
def Coll.range (k : Coll) (i : Nat) : Nat × Nat := (i * k.chunk, min ((i + 1) * k.chunk) k.bytes)
/-- The part of a chunk that lies in a member's block. -/
def Coll.overlap (k : Coll) (i r : Nat) : Nat × Nat :=
  let (lo, hi) := k.range i
  (max lo (r * k.block), min hi ((r + 1) * k.block))

/-- The other members, by rank. -/
def Coll.others (k : Coll) : List Nat := (List.range k.p).filter fun r => r != k.rank

/-- What a member contributes to a chunk, in bytes. -/
def Coll.share (k : Coll) (i r : Nat) : Nat :=
  if k.fn = 2 then (k.overlap i r).2 - (k.overlap i r).1 else (k.range i).2 - (k.range i).1

/-- A contribution of another member that has arrived under the EPOCH in use (R414). -/
def Coll.arrived (k : Coll) (i r : Nat) : Option (List Byte) :=
  if k.share i r = 0 then some []
  else ((k.inbox.find? fun c => c.chunk == i && c.rank == r && c.epoch == k.epoch && c.data.length == k.share i r)).map (·.data)

/-- The block of a source rank that has arrived under the EPOCH in use and is not delivered (R414, R416). -/
def Coll.blockFrom (k : Coll) (r : Nat) : Option (List Byte) :=
  if k.marks.contains r then none else (k.blocks.find? fun b => b.1 == r && b.2.epoch == k.epoch).map fun b => b.2.data

/-- Every member's contribution to a chunk has arrived. -/
def Coll.complete (k : Coll) (i : Nat) : Bool := k.others.all fun r => (k.arrived i r).isSome

/-- The tree of a chunk in the set in use. -/
def Coll.tree (k : Coll) (i : Nat) : Option Tree8 :=
  let ts := treesOf k.members k.edges
  ts[i % max 1 ts.length]?

/-- No link of the chunk's tree is down, or has been since the tree set was adopted (R419). -/
def State.treeAlive (s : State) (k : Coll) (i : Nat) : Bool :=
  match k.tree i with
  | none => false
  | some t => t.kids.all fun e => (s.memberEdges k.members).contains e.2.2 && !k.deadEdges.contains e.2.2

/-- A write by Sluice of a command's receive bytes, marks or header. -/
def State.collWrite (s : State) (c : Cmd) (va : Nat) (bs : List Byte) (go : State → Cmd → CmdEnd) : CmdEnd :=
  if bs.isEmpty then go s c
  else s.cmdAccess c true va bs.length fun ps => go (s.wrPieces ps bs) { c with wrote := true }

/-- A read of its send bytes; poisoned data end the command (19 R375). -/
def State.collRead (s : State) (c : Cmd) (va n : Nat) (go : State → List Byte → CmdEnd) : CmdEnd :=
  if n = 0 then go s []
  else s.cmdAccess c false va n fun ps => if s.badPieces ps then .code s c 1 else go s (s.rdPieces ps)

/-- Write the mark of a chunk (R413). -/
def State.markChunk (s : State) (c : Cmd) (k : Coll) (i : Nat) : CmdEnd :=
  s.collWrite c ((k.marka + i) % 2 ^ 64) [1] fun s c =>
    .go s { c with coll := some { k with marks := k.marks ++ [i], inbox := k.inbox.filter fun x => x.chunk != i } }

/-- Work on one chunk whose contributions have arrived (R411). -/
def State.runChunk (s : State) (c : Cmd) (k : Coll) (i : Nat) : CmdEnd :=
  let (lo, hi) := k.range i
  if k.fn = 2 then
    let (a, b) := k.overlap i k.rank
    s.collRead c (k.send + (a - k.rank * k.block)) (b - a) fun s own =>
      let part (r : Nat) : List Byte := if r = k.rank then own else (k.arrived i r).getD []
      s.collWrite c (k.recv + lo) ((List.range k.p).flatMap part) fun s c => s.markChunk c k i
  else
    s.collRead c (k.send + lo) (hi - lo) fun s own =>
      let val (d : Nat) : List Nat :=
        elemsOf k.dt (if d = k.members.getD k.rank 0 then own else (k.arrived i (k.members.idxOf d)).getD [])
      match k.tree i with
      | none => .code s c 5
      | some t =>
        let out := bytesOf k.dt (reduceChunk k t val)
        if k.fn = 0 then s.collWrite c (k.recv + lo) out fun s c => s.markChunk c k i
        else
          let (a, b) := k.overlap i k.rank
          s.collWrite c (k.recv + (a - k.rank * k.block)) ((out.drop (a - lo)).take (b - a)) fun s c => s.markChunk c k i

/-- Work on the chunks of a list that can be worked on. -/
def State.runChunks (s : State) (c : Cmd) : List Nat → CmdEnd
  | [] => .go s c
  | i :: t =>
    match c.coll with
    | none => .go s c
    | some k =>
      if k.marks.contains i || !k.complete i || !s.treeAlive k i then s.runChunks c t
      else (s.runChunk c k i).andThen fun s c => s.runChunks c t

/-! ### All-to-all blocks (R416) -/

/-- The counts of slots that the command sends, by rank. -/
def State.sendCounts (s : State) (c : Cmd) (k : Coll) (go : State → List Nat → CmdEnd) : CmdEnd :=
  s.collRead c k.cnta (4 * k.p) fun s bs => go s (words32 bs)

/-- Where the block for a rank begins, and its bytes. -/
def Coll.blockOf (k : Coll) (cs : List Nat) (r : Nat) : Nat × Nat := (k.send + (cs.take r).sum * 2 ^ k.rowlg, cs.getD r 0 * 2 ^ k.rowlg)

/-- Deliver one block: its slots are reserved for the issuing node, written, and committed; a refusal drops the block, and where a slot's page stalls the
command nothing of it is reserved. -/
def State.deliverBlock (s : State) (c : Cmd) (k : Coll) (src : Nat) (data : List Byte) : CmdEnd :=
  let t := k.recv / 2 ^ 50
  let row := 2 ^ k.rowlg
  let n := data.length / row
  let done (s : State) (c : Cmd) (m : Nat) (refused : Bool) : CmdEnd :=
    (s.markChunk c { k with delivered := insert src m k.delivered, refused := k.refused || refused,
                            blocks := k.blocks.filter fun b => b.1 != src || b.2.epoch != k.epoch } src)
  -- the mark's page is checked first, so that a fault there leaves the block as it was
  s.cmdAccess c true ((k.marka + src) % 2 ^ 64) 1 fun _ =>
    if n = 0 then done s c 0 false
    else match s.reserveSeq c.ctx c.node t n with
      | (s, none) => done s c 0 true
      | (u, some p) =>
        let at_ (i : Nat) : Nat := t * 2 ^ 50 + (u.tableOf c.ctx t).posOff (p + i)
        match (List.range n).mapM fun i => s.cmdEnds c (u.cmdCheck c true (at_ i) row) with
        | .error e => e
        | .ok ps =>
          let u := u.wrPieces ps.flatten data
          done (u.updTable c.ctx t fun tb => tb.mark p n .committed) { c with wrote := true } n false

/-- The block to be delivered next: in order of arrival, under `DET` in rank order once all have arrived; none whose tree has a dead link (R416, R419). -/
def State.nextBlock (s : State) (k : Coll) : Option (Nat × List Byte) :=
  let get (r : Nat) : Option (Nat × List Byte) := (k.blockFrom r).map fun bs => (r, bs)
  let first : Option (Nat × List Byte) :=
    if k.det then
      if (List.range k.p).all fun r => k.marks.contains r || (k.blockFrom r).isSome then (List.range k.p).findSome? get else none
    else ((k.blocks.map (·.1)).filter (s.treeAlive k)).findSome? get
  first.filter fun b => s.treeAlive k b.1

/-- Deliver blocks that have arrived; `fuel` bounds their number. -/
def State.deliverBlocks (s : State) (c : Cmd) : Nat → CmdEnd
  | 0 => .go s c
  | fuel + 1 =>
    match c.coll with
    | none => .go s c
    | some k =>
      match s.nextBlock k with
      | none => .go s c
      | some (src, data) => (s.deliverBlock c k src data).andThen fun s c => s.deliverBlocks c fuel

/-! ### Start, end and recomputation -/

/-- The table has settled (R403). -/
def State.settled (s : State) : Bool := s.drainRound == 4

/-- The parameters of this member (R409). -/
def Coll.params (k : Coll) : CollParams :=
  { rank := k.rank, fn := k.fn, dt := k.dt, red := k.red, count := k.count, chunk := k.chunk, det := k.det,
    crc := crcFold 0 (k.members.flatMap (leBytes 2)), rowlg := k.rowlg }

/-- The chunks start (R410, R413, R418): trees from the settled table, every mark 0, EPOCH 0. -/
def State.startColl (s : State) (c : Cmd) (k : Coll) : CmdEnd :=
  let es := s.memberEdges k.members
  if (treesOf k.members es).isEmpty then .code s c 5
  else s.collWrite c k.marka (List.replicate k.chunks 0) fun s c =>
    s.collWrite c (k.comm + 16) (leBytes 4 0) fun s c =>
      .go s { c with coll := some { k with running := true, edges := es, deadEdges := [], epoch := 0, marks := [], seen := s.settlings } }

/-- Read the blocks for the ranks of a list (R412, R416): those for other members leave by the fabric, the member's own arrives with the others'. -/
def State.readBlocks (s : State) (c : Cmd) (k : Coll) (cs : List Nat) : List Nat → CmdEnd
  | [] => .go s c
  | r :: t => s.collRead c (k.blockOf cs r).1 (k.blockOf cs r).2 fun s bs =>
      let own : Coll := { k with blocks := k.blocks ++ [(k.rank, { data := bs, epoch := k.epoch })] }
      s.readBlocks (if r = k.rank then { c with coll := some own } else c) k cs t

/-- A member sends its blocks of an all-to-all, once under each EPOCH that restarts its chunk. -/
def State.ownBlock (s : State) (c : Cmd) (k : Coll) : CmdEnd :=
  if k.fn ≠ 3 || k.marks.contains k.rank || (k.blockFrom k.rank).isSome || !s.treeAlive k k.rank then .go s c
  else s.sendCounts c k fun s cs => s.readBlocks c k cs (List.range k.p)

/-- What a member has shown under the EPOCH in use: every mark is 1 there (R413). -/
def Coll.shownFull (k : Coll) (r : Nat) : Bool :=
  k.shown.any fun q => q.rank == r && q.epoch == k.epoch && (List.range k.chunks).all q.marks.contains

/-- The command has come to its end (R297, R413): the final exchange has shown every mark at every member to be 1. The delivered counts are written
before the completion word. -/
def State.endColl (s : State) (c : Cmd) (k : Coll) : CmdEnd :=
  if !(List.range k.chunks).all k.marks.contains || !k.others.all k.shownFull then .go s c
  else if k.fn = 3 then
    s.collWrite c k.dlva ((List.range k.p).flatMap fun r => leBytes 4 (getD 0 k.delivered r)) fun s c =>
      .code s c (if k.refused || k.shown.any fun q => q.epoch == k.epoch && q.refused then 7 else 0)
  else .code s c 0

/-! ### Recomputation (R414, R415, R418) -/

/-- The digest of the member graph's edges in row order (R414). -/
def State.collDigest (s : State) (k : Coll) : Nat :=
  crcFold 0 ((s.links.filter fun r => (linkEdge r.2).1 && k.members.contains (linkEdge r.2).2.1
    && k.members.contains (linkEdge r.2).2.2.2.1).flatMap fun r => leBytes 16 r.2)

/-- Clear the marks of chunks. -/
def State.clearMarks (s : State) (c : Cmd) (marka : Nat) : List Nat → CmdEnd
  | [] => .go s c
  | i :: t => s.collWrite c ((marka + i) % 2 ^ 64) [0] fun s c => s.clearMarks c marka t

/-- The table has settled since the member last acted on it: it sends its digest and its marks. It ends the command where its member graph has no
spanning tree, or where a member has been silent through 16 settlings (R414, R415; log entry 104). -/
def State.actOnSettling (s : State) (c : Cmd) (k : Coll) : CmdEnd :=
  if !s.settled || decide (s.settlings ≤ k.seen) then .go s c
  else
    let es := s.memberEdges k.members
    let silent := k.others.foldl (fun m r => put 0 r (getD 0 m r + 1) m) k.silent
    if (treesOf k.members es).isEmpty || k.others.any fun r => decide (16 ≤ getD 0 silent r) then .code s c 5
    else .go s { c with coll := some { k with seen := s.settlings, silent := silent, asked := some (s.collDigest k, es) } }

/-- One identical digest has come from every member: the tree set to adopt, and the chunks that are complete, those marked 1 at every member. -/
def Coll.agreedSet (k : Coll) : Option (List Edge × List Nat) :=
  k.asked.bind fun a =>
    if k.others.all fun r => k.digests.any fun q => q.rank == r && q.digest == a.1 then
      some (a.2, k.marks.filter fun i => k.others.all fun r => k.digests.any fun q => q.rank == r && q.marks.contains i)
    else none

/-- The member adopts a tree set (R414, R418): EPOCH one higher, its marks of the chunks that start again 0. What it writes before a stall it writes again
when the command tries again. -/
def State.adoptSet (s : State) (c : Cmd) (k : Coll) : CmdEnd :=
  match k.adopt with
  | none => .go s c
  | some (es, keep) =>
    let e := k.epoch + 1
    s.collWrite c (k.comm + 16) (leBytes 4 e) fun s c =>
      (s.clearMarks c k.marka ((List.range k.chunks).filter fun i => !keep.contains i)).andThen fun s c =>
        .go s { c with coll := some { k with edges := es, deadEdges := [], epoch := e, marks := keep, adopt := none
                                             inbox := k.inbox.filter fun q => decide (e ≤ q.epoch)
                                             blocks := k.blocks.filter fun b => decide (e ≤ b.2.epoch) } }

/-- What a settling and the other members' digests ask of a running command. -/
def State.recompute (s : State) (c : Cmd) (k : Coll) : CmdEnd :=
  let settled := if k.adopt.isSome then CmdEnd.go s c else s.actOnSettling c k
  settled.andThen fun s c => match c.coll with
    | none => .go s c
    | some k =>
      let k := if k.adopt.isSome then k else match k.agreedSet with
        | some a => { k with adopt := some a, asked := none, digests := [] }
        | none => k
      s.adoptSet { c with coll := some k } k

/-- What Sluice can do for a command. -/
def State.runColl (s : State) (c : Cmd) : CmdEnd :=
  match c.coll with
  | none => .go s c
  | some k =>
    if !k.agreed then .go s c
    else
      let begun := if k.running then s.recompute c k else if s.settled then s.startColl c k else .go s c
      begun.andThen fun s c => match c.coll with
        | none => .go s c
        | some k =>
          if !k.running then .go s c
          else
            let worked := if k.fn = 3 then (s.ownBlock c k).andThen fun s c => s.deliverBlocks c (k.p + 1) else s.runChunks c (List.range k.chunks)
            worked.andThen fun s c => match c.coll with | some k => s.endColl c k | none => .go s c

/-- What comes to a collective in Sluice's hands changes it, and what can then be done is done, unless a fault stalls the command. -/
def State.onColl (s : State) (id : Nat) (f : Cmd → Coll → CmdEnd) : State :=
  match s.cmds.find? fun c => c.id == id with
  | none => s
  | some c =>
    match c.coll with
    | none => s
    | some k =>
      let s :=
        if !c.started || c.code.isSome then s
        else if c.aborted then s.abortCmd c
        else match f c k with
          | .go s c => if c.park.isSome then s.putCmd c else (s.runColl c).apply
          | e => e.apply
      s.finishCmd id

/-- No earlier command of the communicator is still in Sluice's hands (R409). -/
def State.commFree (s : State) (c : Cmd) (k : Coll) : Bool :=
  !s.cmds.any fun q => decide (q.id < c.id) && q.ctx == c.ctx && (match q.coll with | some j => j.comm == k.comm | none => false)

/-- `COLL_START` (R297, R409): the parameters of all members are compared; on a disagreement the command fails. -/
def execCollStart (id : Nat) (peers : List CollParams) (s : State) : Host.Outcome State Fault Refusal :=
  .next (s.onColl id fun c k =>
    if k.agreed || !s.settled || !(k.others.all fun r => peers.any fun q => q.rank == r) || !s.commFree c k then .go s c
    else if k.others.all fun r => peers.any fun q => q == { k.params with rank := r } then .go s { c with coll := some { k with agreed := true } }
    else .code s c 3)

/-- `COMMAND_FAULT_RETRY` (18 R362): a stalled command tries again when its timer expires. -/
def execCommandFaultRetry (id : Nat) (s : State) : Host.Outcome State Fault Refusal :=
  match s.cmds.find? fun c => c.id == id with
  | none => .next s
  | some c =>
    match c.park with
    | none => .next s
    | some p =>
      if s.clock c.unit < p.due || c.aborted then .next s
      else .next ((((s.beginCmd c).andThen State.workCmd).andThen State.runColl).apply.finishCmd id)

/-- Data of a chunk that arrive under an EPOCH are taken in (R414, R419): those of an earlier one are discarded and those of a later one held; under the one
in use, a chunk that is marked, or whose tree has a dead link, takes no more. -/
def State.takesIn (s : State) (k : Coll) (chunk epoch : Nat) : Bool :=
  decide (k.epoch < epoch) || (epoch == k.epoch && !k.marks.contains chunk && (!k.running || s.treeAlive k chunk))

/-- A member has replied. -/
def Coll.heard (k : Coll) (r : Nat) : Coll := { k with silent := put 0 r 0 k.silent }

/-- `ATOA_BLOCK_DELIVERY` (R416): a block of another member arrives. -/
def execAtoaBlockDelivery (id src : Nat) (block : BlockIn) (s : State) : Host.Outcome State Fault Refusal :=
  .next (s.onColl id fun c k =>
    if k.agreed && k.fn == 3 && k.others.contains src && block.data.length % 2 ^ k.rowlg == 0 && s.takesIn k src block.epoch
        && !(k.blocks.any fun b => b.1 == src && b.2.epoch == block.epoch) then
      .go s { c with coll := some { k.heard src with blocks := k.blocks ++ [(src, block)] } }
    else .go s c)

/-- `COLL_COMPLETE` (R411, R413): contributions of the other members arrive, and what they show in the final exchange. -/
def execCollComplete (id : Nat) (chunks : List ChunkIn) (peers : List PeerMarks) (s : State) : Host.Outcome State Fault Refusal :=
  .next (s.onColl id fun c k =>
    if !k.agreed then .go s c
    else
      let new := chunks.filter fun q => decide (q.chunk < k.chunks) && k.others.contains q.rank && s.takesIn k q.chunk q.epoch
      let shown := peers.filter fun q => k.others.contains q.rank && decide (k.epoch ≤ q.epoch)
      let k := (new.map (·.rank) ++ shown.map (·.rank)).foldl Coll.heard k
      .go s { c with coll := some { k with
        inbox := k.inbox ++ new
        shown := (k.shown.filter fun q => !shown.any fun p => p.rank == q.rank) ++ shown } })

/-- `TREE_RECOMPUTE` (R414, R415): the digests and marks that other members send after a settling arrive, the newest of each counts; without any, the
member acts on a settling of its own table. -/
def execTreeRecompute (id : Nat) (peers : List PeerDigest) (s : State) : Host.Outcome State Fault Refusal :=
  .next (s.onColl id fun c k =>
    if !k.running then .go s c
    else
      let new := peers.filter fun q => k.others.contains q.rank
      let k := (new.map (·.rank)).foldl Coll.heard k
      .go s { c with coll := some { k with digests := (k.digests.filter fun q => !new.any fun p => p.rank == q.rank) ++ new } })

/-- A running collective has not yet acted on a settling of the table (R414). -/
def State.settlingDue (s : State) (c : Cmd) : Bool :=
  c.live && !c.aborted && s.settled && c.coll.elim false fun k => k.running && k.adopt.isNone && decide (k.seen < s.settlings)

/-- A collective can go on without anything from outside: a member alone, one that could not start while the table was
unsettled, or one that only has its completion word to write. -/
def State.collAlone (s : State) (c : Cmd) : Bool :=
  match c.coll with
  | none => false
  | some k =>
    c.started && (if c.code.isSome then s.accepted c else c.aborted
      || (c.park.isNone && (if k.agreed then k.running && k.p == 1 || !k.running && s.settled else k.p == 1 && s.settled && s.commFree c k)))

/-- The first event of a collective that is due. -/
def State.collEvent (s : State) : Option (Host.Outcome State Fault Refusal) :=
  let fresh (c : Cmd) : Bool := c.code.isNone && !c.aborted && c.coll.elim false fun k => !k.agreed
  firstDue ((s.cmds.filter s.collAlone).filter fresh) (fun c => execCollStart c.id [] s)
    <|> firstDue ((s.cmds.filter s.collAlone).filter fun c => !fresh c) (fun c => execCollComplete c.id [] [] s)
    <|> firstDue (s.cmds.filter s.settlingDue) (fun c => execTreeRecompute c.id [] s)
    <|> firstDue (s.cmds.filter fun c => !c.aborted && match c.park with | some p => decide (p.due ≤ s.clock c.unit) | none => false)
          (fun c => execCommandFaultRetry c.id s)

end Sys2Proof.Machine
end

