-- ==== Sys2Proof/Machine/Fabric.lean ====
section
/-! DEFINITION. Ports and the link table (21 R401–R403), requests of other devices (21 R404), interrupt messages (21 R400), and the
SMC's event sequence (23 R430). -/

namespace Sys2Proof.Machine

/-! ### The event sequence (23 R430) -/

/-- The block numbers of a class (23 R431). -/
def blockNo (cls idx : Nat) : Nat := cls * 4096 + idx

/-- The physical number of a stack (23 R426, R431). -/
def State.physStack (s : State) (k : Nat) : Nat := ((List.range 8).filter fun j => !s.smc.stacksOut.contains j).getD k 0

/-- The block of a unit (23 R431). -/
def State.unitBlock (s : State) (u : Nat) : Nat :=
  if u < Config.cores then blockNo 0 u
  else blockNo 4 (s.physStack ((u - Config.cores) / 16) * 16 + (u - Config.cores) % 16)

/-- The SMC commits a record to its event sequence (23 R430): every context that maps it sees it. -/
def State.smcEvent (s : State) (kind info block data : Nat) : State :=
  let t := s.events
  let bs := leBytes 64 (kind + info * 2 ^ 8 + block * 2 ^ 48 + t.r * 2 ^ 192 + data * 2 ^ 256)
  let s := match t.blockPa (t.posOff t.r) with
    | some pa => s.wrBytes 0 pa bs
    | none => s
  let t := (t.reserve 1 0).mark t.r 1 .committed
  let show_ (e : Nat × Ctx) : Nat × Ctx :=
    (e.1, if (find 7 e.2.tables).isSome then { e.2 with tables := insert 7 t e.2.tables } else e.2)
  ({ s with events := t, ctxs := s.ctxs.map show_ } : State).raiseIrq 0 3

/-- `INTERRUPT_MESSAGE` (21 R400): the host takes a message; until then later ones of its context and vector merge with it. -/
def execInterruptMessage (ctx vector : Nat) (s : State) : Host.Outcome State Fault Refusal :=
  .next { s with interrupts := s.interrupts.filter fun e => e != (ctx, vector) }

/-! ### Links (21 R401–R403) -/

def State.port (s : State) (p : Nat) : Port := (find p s.ports).getD {}
def State.setPort (s : State) (p : Nat) (x : Port) : State := { s with ports := insert p x s.ports }

/-- The row of an entry, and its 128 bits (21 R402). -/
def linkRow (e : LinkEntry) : Nat := e.deva * 24 + e.porta
def linkBits (e : LinkEntry) : Nat :=
  1 + e.deva * 2 ^ 1 + e.porta * 2 ^ 13 + e.devb * 2 ^ 18 + e.portb * 2 ^ 30 + flagNat e.up * 2 ^ 35 + e.ver % 2 ^ 32 * 2 ^ 96

/-- VER and UP that the table holds of a row. -/
def State.linkVer (s : State) (row : Nat) : Nat := bitsAt (getD 0 s.links row) 96 32
def State.linkUp (s : State) (row : Nat) : Bool := bitAt (getD 0 s.links row) 35

/-- Cycles of one period of a drain round (21 R403). -/
def drainPeriod : Nat := 16384

/-- An update is applied: its entry is written and a drain round starts (21 R403); a link that it marks down is dead for the collectives under way until
they adopt a new tree set (22 R419). -/
def State.applyLink (s : State) (e : LinkEntry) : State :=
  let lose (c : Cmd) : Cmd := { c with coll := c.coll.map fun k => { k with deadEdges := k.deadEdges ++ [(e.deva, e.porta, e.devb, e.portb)] } }
  { s with links := put 0 (linkRow e) (linkBits e) s.links, drainRound := 0, drainDue := s.hub + drainPeriod
           cmds := if e.up then s.cmds else s.cmds.map lose }

/-- An update leaves on every up port but one (21 R403). -/
def State.sendUpdate (s : State) (except : Option Nat) : State :=
  { s with ports := s.ports.map fun e => if e.2.up && except != some e.1 then (e.1, { e.2 with lastSent := s.hub }) else e }

/-- The entry of a port's link. -/
def State.linkOf (s : State) (p : Nat) (ver : Nat) (up : Bool) : LinkEntry :=
  let x := s.port p
  let d := s.settings.devid
  if d < x.peer || (d == x.peer && decide (p < x.peerPort)) then { ver := ver, up := up, deva := d, porta := p, devb := x.peer, portb := x.peerPort }
  else { ver := ver, up := up, deva := x.peer, porta := x.peerPort, devb := d, portb := p }

/-- The device originates an update of a port's link (21 R403): one version above what it knows. -/
def State.originate (s : State) (p : Nat) (up : Bool) : State :=
  let row := linkRow (s.linkOf p 0 up)
  (s.applyLink (s.linkOf p (s.linkVer row + 1) up)).sendUpdate none

/-- A port goes down (21 R401), with the way it did (23 R430). -/
def State.portDown (s : State) (p way : Nat) : State :=
  if !(s.port p).up then s
  else
    let x := s.port p
    let s := (s.setPort p { x with up := false }).smcEvent 3 way (blockNo 6 p) 0
    if way = 4 then s else s.originate p false

/-- `LINK_UP` (21 R401): training completes at both ends, which agree on each other; two devices of one identifier never
bring a link up. Ports stay down until stage 5 of bring-up (23 R426). -/
def execLinkUp (port dev peerPort : Nat) (s : State) : Host.Outcome State Fault Refusal :=
  if decide (s.smc.stage < 5) || s.smc.off || decide (24 ≤ port) || (s.port port).up || dev == s.settings.devid || decide (4096 ≤ dev) || decide (24 ≤ peerPort) then .next s
  else
    let s := s.setPort port { up := true, peer := dev, peerPort := peerPort, heard := s.hub, lastSent := s.hub }
    .next ((s.smcEvent 4 0 (blockNo 6 port) (dev + peerPort * 2 ^ 16)).originate port true)

/-- `LINK_RETRANSMIT_FAIL` (21 R401). -/
def execLinkRetransmitFail (port : Nat) (s : State) : Host.Outcome State Fault Refusal := .next (s.portDown port 1)

/-- `LINK_IDLE_TIMEOUT` (21 R401): 65,536 cycles have passed since any flit that arrived. -/
def execLinkIdleTimeout (port : Nat) (s : State) : Host.Outcome State Fault Refusal :=
  if (s.port port).heard + 65536 ≤ s.hub then .next (s.portDown port 2) else .next s

/-- `PORT_TAKEN_DOWN` (21 R401): the SMC takes a port down. -/
def execPortTakenDown (port : Nat) (s : State) : Host.Outcome State Fault Refusal := .next (s.portDown port 3)

/-- An idle flit of a port is due. -/
def State.idleDue (s : State) (p : Nat) : Bool := (s.port p).up && decide ((s.port p).lastSent + 512 ≤ s.hub)

/-- `IDLE_FLIT` (21 R401): a port that has sent nothing for 512 cycles sends an idle flit. -/
def execIdleFlit (port : Nat) (s : State) : Host.Outcome State Fault Refusal :=
  if s.idleDue port then
    let x := s.port port
    .next (s.setPort port { x with lastSent := s.hub })
  else .next s

/-- The update is newer than the stored entry (21 R403). -/
def State.newer (s : State) (e : LinkEntry) : Bool :=
  decide (s.linkVer (linkRow e) < e.ver) || (s.linkVer (linkRow e) == e.ver && s.linkUp (linkRow e) && !e.up)

/-- `LINK_STATE_UPDATE` (21 R403): an update that is newer is applied and forwarded; a port whose link it marks down goes
down. -/
def execLinkStateUpdate (port : Nat) (e : LinkEntry) (s : State) : Host.Outcome State Fault Refusal :=
  if !(s.port port).up then .next s
  else
    let x := s.port port
    let s := s.setPort port { x with heard := s.hub }
    if !s.newer e then .next s
    else
      let s := (s.applyLink e).sendUpdate (some port)
      let mine (q : Nat × Port) : Bool := q.2.up && (s.linkOf q.1 e.ver e.up) == e
      .next (if e.up then s else ((s.ports.filter mine).map (·.1)).foldl (fun s p => s.portDown p 4) s)

/-- A period of the drain round is over. -/
def State.drainDueNow (s : State) : Bool := decide (s.drainRound < 4) && decide (s.drainDue ≤ s.hub)

/-- `DRAIN_ROUND` (21 R403): the counter rises; at 4 the table is settled, which ends stage 5 of bring-up (23 R426). -/
def execDrainRound (s : State) : Host.Outcome State Fault Refusal :=
  if s.drainDueNow then
    .next { s with drainRound := s.drainRound + 1, drainDue := s.drainDue + drainPeriod,
                   settlings := if s.drainRound = 3 then s.settlings + 1 else s.settlings
                   smc := if s.drainRound = 3 ∧ s.smc.stage = 5 then { s.smc with stage := 6 } else s.smc }
  else .next s

/-! ### Requests of other devices (21 R404) -/

/-- The code of a failure in a reply: a fault's code, or a cause with its subcode. -/
def checkedCode : Checked → Nat
  | .ok _ => 0
  | .trap c b => c + b * 256
  | .fault f _ => f.code

/-- A reply on its way to a queue of the host, or under 16 and above to another device. -/
def State.reply (s : State) (who code : Nat) (data : List Byte) : State :=
  { s with replies := insert who { code := code, data := data } s.replies }

/-- The bytes of a request lie in this device's memory. -/
def State.ownPa (s : State) (pa n : Nat) : Bool :=
  pa / 2 ^ 40 == s.settings.devid && (pa + n - 1) / 2 ^ 40 == s.settings.devid && !s.absentPa pa && !s.absentPa (pa + n - 1)

/-- Perform a request (21 R404); code 1 tells of poisoned data, 2 of an address or table that is not here, 16 of a forwarding entry, with the index of
the shard that it names (R406), and otherwise the status of R243. -/
def State.remotePerform (s : State) (src : Nat) (op : RemoteOp) : State :=
  let out := s.reply (16 + src)
  match op with
  | .read pa n k =>
    if !s.ownPa pa n then out 2 []
    else if s.poisonedMem pa n then out 1 []
    else out 0 (s.rdBytes (s.keyTag k) pa n)
  | .write pa bs k =>
    if !s.ownPa pa bs.length then out 2 [] else (s.wrBytes (s.keyTag k) pa bs).reply (16 + src) 0 []
  | .atomic pa size f b c k home =>
    if !s.ownPa pa size then out 2 []
    else if s.poisonedMem pa size then out 1 []
    else
      let s := match home with | some page => s.countAccess page 104 | none => s
      let m := ofLe (s.rdBytes (s.keyTag k) pa size)
      let s' := if f = 10 ∧ m ≠ b then s else s.wrBytes (s.keyTag k) pa (leBytes size (atomicOp f size m b c).1)
      s'.reply (16 + src) 0 (leBytes size m)
  | .lookup ck t key =>
    match (s.ctx ck).table t with
    | none => out 2 []
    | some tb =>
      let s := s.updTable ck t fun x => { x with lookups := countLookup key src x.lookups }
      match tb.lookup key, find key tb.forward with
      | some x, _ => s.reply (16 + src) 0 (leBytes 8 (tb.rowAddr t x.slot))
      | none, some j => s.reply (16 + src) 16 (leBytes 8 j)
      | none, none => s.reply (16 + src) 2 []
  | .insert ck t key row =>
    match (s.ctx ck).table t with
    | none => out 2 []
    | some tb =>
      match tb.lookup key, find key tb.forward with
      | none, some j => out 16 (leBytes 8 j)
      | old, _ => match (if tb.desc.uniq then old else none), tb.freeSlot with
      | some x, _ => out 3 (leBytes 8 (tb.rowAddr t x.slot))
      | none, none => out 4 []
      | none, some slot =>
        let kw := tb.desc.keyBytes
        let bs := leBytes kw key ++ ((row.drop kw ++ List.replicate tb.desc.rowBytes 0).take (tb.desc.rowBytes - kw))
        match s.newRow ck t slot bs fun tb => tb.addEntry ⟨key, slot⟩ with
        | .error k => out (checkedCode k) []
        | .ok s => s.reply (16 + src) 0 (leBytes 8 (tb.rowAddr t slot))
  | .delete ck t key =>
    match (s.ctx ck).table t with
    | none => out 2 []
    | some tb =>
      match (if tb.desc.uniq then tb.lookup key else tb.index.find? fun x => x.slot == key), find key tb.forward with
      | some x, _ => (s.updTable ck t fun tb => tb.delEntry x).reply (16 + src) 0 []
      | none, some j => if tb.desc.uniq then out 16 (leBytes 8 j) else out 2 []
      | none, none => out 2 []

/-- Perform the waiting requests of a source that are next in number; `fuel` bounds them. -/
def State.remoteDrain (s : State) (src : Nat) : Nat → State
  | 0 => s
  | fuel + 1 =>
    let n := getD 0 s.remoteNext src
    match s.remoteWait.find? fun q => q.src == src && q.num == n with
    | none => s
    | some q =>
      let s := s.remotePerform src q.op
      ({ s with remoteNext := put 0 src (n + 1) s.remoteNext, remoteWait := s.remoteWait.filter fun r => r != q } : State).remoteDrain src fuel

/-- `REMOTE_REQUEST` (21 R404): the requests of a source are performed in number order, each number once. -/
def execRemoteRequest (q : RemoteReq) (s : State) : Host.Outcome State Fault Refusal :=
  if q.num < getD 0 s.remoteNext q.src then .next s
  else if s.remoteWait.any fun r => r.src == q.src && r.num == q.num then .next s
  else
    let s := { s with remoteWait := s.remoteWait ++ [q] }
    .next (s.remoteDrain q.src s.remoteWait.length)

/-- The first event of the fabric that is due. -/
def State.fabricEvent (s : State) : Option (Host.Outcome State Fault Refusal) :=
  (if s.drainDueNow then some (execDrainRound s) else none)
    <|> firstDue (s.ports.filter fun e => s.idleDue e.1) (fun e => execIdleFlit e.1 s)

end Sys2Proof.Machine
end

