-- ==== Sys2Proof/Machine/Resolve.lean ====
section
/-! DEFINITION. The resolution of trap and fault records (16 R316, R321; 18 R364): what a fragment or a command does once its record
is resolved. -/

namespace Sys2Proof.Machine

/-- What an `ERET` asks for, as it is stored (16 R315, R318): 1 retry, 2 skip, 3 kill. -/
abbrev Action := Nat

/-- The word of RES of a lane in a record (16 R315). -/
def State.recRes (s : State) (ck : Nat) (r : Option RecRef) (l : Nat) : Nat :=
  match r.bind (s.recPlace ck) with
  | some (pa, tag) => ofLe (s.rdBytes tag (pa + 320 + 8 * l) 8)
  | none => 0

/-- The lanes of a fragment go back to its parent, `skip` bytes beyond where they stand, and the fragment dissolves (01 R32). -/
def Warp.leaveFrag (w : Warp) (g : Frag) (pc : Nat → Nat) : Warp :=
  let ls := w.fragLanes g.id
  (w.onLanes (fun l => ls.contains l) fun y => { y with st := .running, pc := pc y.pc, frag := g.parent }).dissolve

/-- A fragment acts on the action of its record (16 R321, 18 R364): a held one leaves for its parent, after a `GCALL` with its D
pairs taken from RES; a parked one retries at once, or its lanes skip the access. -/
def State.actFrag (s : State) (lk : Nat) (l : Launch) (w : Warp) (g : Frag) (act : Action) : Warp :=
  let toPc (pc : Nat) : Nat := if act = 2 then pc + codeLen s lk l pc else pc
  match g.esc, g.park with
  | some e, _ =>
    let ls := w.fragLanes g.id
    let w := match e.gcallD with
      | some d =>
        let w := ls.foldl (fun (w : Warp) k => w.wrReg .vp d k (s.recRes l.ctx e.ref k)) w
        { w with pend := w.pend.filter fun p => !(p.req == 0 && p.lanes.all ls.contains) }
      | none => w
    w.leaveFrag g toPc
  | none, some p =>
    if act = 2 then w.leaveFrag g toPc
    else
      let ls := w.fragLanes g.id
      (w.setFrag { g with action := none, park := some { p with d := 64, due := s.clock w.unit + 64, open_ := none } }).onLanes
        (fun k => ls.contains k) fun y => if y.st = .parked then { y with st := .running } else y
  | none, none => w

/-- The fragment of a context that a record speaks of. -/
def State.recFrag (s : State) (ck : Nat) (r : RecRef) : Option (Nat × Warp × Frag) :=
  (s.warps.filter fun e => (find e.2.node s.nodes).elim false fun n => n.ctx == ck).findSome? fun e =>
    (e.2.frags.find? fun g => g.openRec == some r).map fun g => (e.1, e.2, g)

/-- The fork of a sequencer fails (18 R362): no trap cause is given for it, and it takes that of an engine program that cannot go
on (01 R39). -/
def State.failFork (s : State) (w : Warp) : State :=
  match w.role with
  | .seq _ parent =>
    let f (p : Warp) : Warp := { p with fork := p.fork.map fun k => { k with fail := some (k.fail.getD (1, Illegal.engine.code)) } }
    let seqs := ((find parent s.warps).bind (·.fork)).elim [] fun k => k.seqs
    { s with warps := (adjust parent f s.warps).filter fun e => !seqs.contains e.1 }
  | _ => s

/-- The code with which a command fails that is not retried any more (18 R362). -/
def failCode (f : FaultInfo) : Nat := if f.code = 0x11 ∨ f.code = 0x19 then 3 else 2

/-- A command acts on the action of its record (18 R364). -/
def Cmd.act (c : Cmd) (p : Park) (now : Nat) (act : Action) : Cmd :=
  if act = 1 then { c with park := some { p with d := 64, due := now, open_ := none } }
  else { c with park := none, code := some (failCode p.fault) }

end Sys2Proof.Machine
end

