-- ==== Sys2Proof/Machine/Saltern.lean ====
section
/-! DEFINITION. Saltern at work: resource reports (17 R335), the ready pool and dispatch (17 R336–R340), pre-emption and saving (17
R342–R347; 16 R317–R319), resumption and moves (17 R345, R346), retirement (01 R44), and the watchdogs (17 R348, R349). -/

namespace Sys2Proof.Machine

/-! ### Reports (R335) -/

/-- A free count of a die and its maximum. -/
abbrev Count := Nat × Nat

/-- Free slots of a quadrant, or of a pan unit. -/
def State.freeSlots (s : State) (u q cap : Nat) : Count := (cap - ((s.running u).map fun r => r.slotsIn q).sum, cap)

/-- Free register budget of a quadrant. -/
def State.freeBudget (s : State) (u q : Nat) : Count := (1024 - ((s.running u).map fun r => r.slotsIn q * (r.desc.n + 16)).sum, 1024)

/-- Free runs of a unit. -/
def State.freeRuns (s : State) (u : Nat) : Nat := ((List.range runsPerUnit).filter fun b => s.runsFree u b 1).length

/-- Free queue channels of a cluster: a launch whose nodes run there holds those that they bind (12 R300). -/
def State.freeChannels (s : State) (c : Nat) : Nat := 16 - (s.channelsOn c).length

/-- The free counts of a core unit; of a unit that no node uses, the maxima. -/
def State.coreCounts (s : State) (u : Nat) : List Count :=
  if (s.holding u).isEmpty then [(16, 16), (1024, 1024), (16, 16), (1024, 1024), (16, 16), (1024, 1024), (16, 16), (1024, 1024), (32, 32), (16, 16)]
  else ([0, 1, 2, 3].flatMap fun q => [s.freeSlots u q 16, s.freeBudget u q]) ++ [(32 - ((s.running u).map fun r => r.desc.t).sum, 32), (s.freeRuns u, 16)]

/-- The free counts of a die: 0–7 compute, 8 and above a stack. -/
def State.dieCounts (s : State) (d : Nat) : List Count :=
  if d < 8 then
    ((List.range 96).flatMap fun k => s.coreCounts (d * 96 + k)) ++ (List.range 12).map fun c => (s.freeChannels (d * 12 + c), 16)
  else (stackUnits (d - 8)).flatMap fun u => [s.freeSlots u 0 4, (s.freeRuns u, 16)]

/-- The view that Saltern has of a die: at first every count at its maximum. -/
def State.view (s : State) (d : Nat) : List Nat := (find d s.views).getD ((s.dieCounts d).map (·.2))

/-- A count has moved enough to be reported. -/
def State.reportDue (s : State) (d : Nat) : Bool :=
  ((s.dieCounts d).zip (s.view d)).any fun e =>
    let (c, v) := (e.1.1, e.2)
    c != v && (decide (s.settings.repstep < (if c < v then v - c else c - v)) || c == 0 || c == e.1.2)

/-- A die that has reported before or has a node's units: any other holds every count at its maximum, as Saltern's view has it. -/
def State.mayReport (s : State) (d : Nat) : Bool :=
  (find d s.views).isSome || s.nodes.any fun e => e.2.allUnits.any fun u =>
    (if u < Config.cores then u / 96 else 8 + (u - Config.cores) / 16) == d

/-- `RESOURCE_REPORT` (R335): a die reports its free counts. -/
def execResourceReport (die : Nat) (s : State) : Host.Outcome State Fault Refusal :=
  .next { s with views := insert die ((s.dieCounts die).map (·.1)) s.views }

/-! ### The ready pool (R336) -/

/-- The nodes that stand as one entry with a node: its gang or channel set (01 R21, 12 R300). -/
def State.entryOf (s : State) (nk : Nat) : List Nat :=
  match find nk s.nodes with
  | none => []
  | some n => match find n.launch s.launches with
    | none => [nk]
    | some l =>
      let ds := l.nodes.map fun k => (find k s.nodes).elim {} fun m => m.desc
      (gangOf l.groups ds n.idx).filterMap fun i => l.nodes[i]?

/-- Of these, the nodes that have not ended. -/
def State.liveEntry (s : State) (nk : Nat) : List Nat :=
  (s.entryOf nk).filter fun k => (find k s.nodes).elim false fun n => !n.st.final

/-- A node waits in the pool: ready, or saved. -/
def Node.pooled (n : Node) : Bool := n.st == .ready || n.st == .saved

/-- An entry of the pool: its nodes, its level, and the cycle at which it entered that level. -/
structure PoolEntry where
  keys : List Nat
  level : Nat
  entered : Nat
  deriving DecidableEq, Repr

/-- The entry before which another stands: level, then time of entry. -/
def PoolEntry.before (a b : PoolEntry) : Bool := decide (b.level < a.level) || (a.level == b.level && decide (a.entered < b.entered))

def poolInsert (e : PoolEntry) : List PoolEntry → List PoolEntry
  | [] => [e]
  | f :: t => if e.before f then e :: f :: t else f :: poolInsert e t

/-- The pool in its order: an entry is in it once all of its nodes that have not ended are ready, or saved. -/
def State.pool (s : State) : List PoolEntry :=
  let firsts := s.nodes.filter fun e => e.2.pooled && (s.liveEntry e.1).head? == some e.1
  let es := firsts.filterMap fun e =>
    let ks := s.liveEntry e.1
    let ns := ks.filterMap fun k => find k s.nodes
    if ns.all Node.pooled then
      some ({ keys := ks, level := (ns.map (·.level)).foldl max 0, entered := (ns.map (·.entered)).foldl max 0 } : PoolEntry)
    else none
  es.foldl (fun l e => poolInsert e l) []

/-- `STARVE_PROMOTION` (R336): an entry that has waited STARVE cycles in its level rises to the tail of the next. -/
def execStarvePromotion (n : Nat) (s : State) : Host.Outcome State Fault Refusal :=
  match s.pool.find? fun e => e.keys.contains n with
  | none => .next s
  | some e =>
    if decide (7 ≤ e.level) || decide (s.hub < e.entered + s.settings.starve) then .next s
    else .next { s with nodes := s.nodes.map fun q =>
      if e.keys.contains q.1 then (q.1, { q.2 with level := e.level + 1, entered := s.hub }) else q }

/-! ### Dispatch (R340) -/

/-- A command in hand targets a stretch of runs of a unit: it may write the partition of its node there. -/
def State.cmdOn (s : State) (u b n : Nat) : Bool :=
  s.cmds.any fun c => (find c.node s.nodes).elim false fun m => m.allUnits.contains u && runsMeet (m.bankOn u) m.desc.scr b n

/-- A run is idle: no node of its owner holds it and no command targets it (23 R423). -/
def State.runIdle (s : State) (u r : Nat) : Bool := s.runsFree u r 1 && !s.cmdOn u r 1

/-- A run changes owner: its bytes become 0 and its full/empty bits clear (23 R423). -/
def State.giveRun (s : State) (u r : Nat) (owner : Option Nat) : State :=
  let lo := spKey u (r * runBytes u)
  let hi := lo + runBytes u
  { s with
    scratch := s.scratch.filter fun e => decide (e.1 < lo) || decide (hi ≤ e.1)
    fe := s.fe.filter fun e => decide (e.1 < feKey u (r * runBytes u)) || decide (feKey u (r * runBytes u) + runBytes u / 16 ≤ e.1)
    poison := s.poison.filter fun p => match p with
      | .scratch v o => !(v == u && decide (r * runBytes u ≤ o) && decide (o < (r + 1) * runBytes u))
      | _ => true
    runOwner := match owner with | some k => insert (u * 16 + r) k s.runOwner | none => erase (u * 16 + r) s.runOwner }

/-- `RUN_REASSIGN` (23 R423): an idle run changes owner; a request for one that is not idle waits until it is. -/
def execRunReassign (unit run : Nat) (owner : Option Nat) (s : State) : Host.Outcome State Fault Refusal :=
  let k := unit * 16 + run
  if find k s.runOwner = owner then .next { s with reassign := erase k s.reassign }
  else if s.runIdle unit run then .next (({ s with reassign := erase k s.reassign } : State).giveRun unit run owner)
  else .next { s with reassign := insert k owner s.reassign }

/-- The partition of a node on a unit: its owner becomes the node's context, and its full/empty bits clear (05 R112). -/
def State.givePartition (s : State) (n : Node) (u : Nat) : State :=
  let s := (List.range n.desc.scr).foldl (fun (s : State) i =>
    if find (u * 16 + (n.bankOn u + i)) s.runOwner = some n.ctx then s else s.giveRun u (n.bankOn u + i) (some n.ctx)) s
  { s with fe := s.fe.filter fun e =>
      decide (e.1 < feKey u (n.partBase u)) || decide (feKey u (n.partBase u) + n.partSize / 16 ≤ e.1) }

/-- Every run of a partition is the context's already, or no command targets it. -/
def State.partReady (s : State) (n : Node) : Bool :=
  n.allUnits.all fun u => (List.range n.desc.scr).all fun i =>
    find (u * 16 + (n.bankOn u + i)) s.runOwner == some n.ctx || !s.cmdOn u (n.bankOn u + i) 1

/-- The launched warps of one copy of a node. -/
def State.startWarps (s : State) (nk : Nat) (n : Node) (l : Launch) (copy : Nat) : State :=
  (List.range (ceilDiv n.desc.l 32)).foldl (fun (s : State) i =>
    let u := (n.copyUnits copy).getD (i / max 1 n.desc.w) 0
    { s with warps := insert s.nextId (launchedWarp nk n l i u copy) s.warps, nextId := s.nextId + 1 }) s

/-- The pairs of a REDUNDANT node (19 R382): its copies' warps, by index. -/
def State.makePairs (s : State) (nk : Nat) (n : Node) : List Pair :=
  (List.range (ceilDiv n.desc.l 32)).map fun i =>
    let warpOf (k : Nat) : Nat := ((s.warpsOf nk).find? fun e => e.2.idx == i && e.2.copy == k).elim 0 fun e => e.1
    { idx := i, copies := [{ warp := warpOf 0 }, { warp := warpOf 1 }] }

/-- A node that has its units starts there (R340). -/
def State.startNode (s : State) (nk : Nat) : State :=
  match find nk s.nodes with
  | none => s
  | some n =>
    match find n.launch s.launches with
    | none => s
    | some l =>
      let others : State := { s with nodes := s.nodes.filter fun e => e.1 != nk }
      let n := n.allUnits.foldl (fun (n : Node) u => n.bindSlots (others.usedSlots u) u) { n with slots := [] }
      let n : Node := { n with st := .running, blocked := false, tiles := [], tcfg := [], decomp := [], pairs := [], pre := none, slack := s.settings.rslack }
      let s := n.allUnits.foldl (fun (s : State) u => s.givePartition n u) (s.setNode nk n)
      let s := s.startWarps nk n l 0
      let s := if n.desc.red then
          let s := s.startWarps nk n l 1
          s.setNode nk { n with pairs := s.makePairs nk n }
        else s
      let c := s.ctx n.ctx
      s.setCtx n.ctx { c with dispatched := true }

/-! ### The save area (16 R317–R319) -/

/-- Bits of a lane's state (16 R319). -/
def laneWord (y : Lane) : Nat :=
  let obj := match y.wait with | .mask m => m | .bar g => g | _ => 0
  let st := match y.st with | .running => 0 | .waiting => 1 | .parked => 2 | .exited => 3 | .never => 4
  st + obj % 256 * 2 ^ 3 + y.age % 1024 * 2 ^ 11 + y.frag % 64 * 2 ^ 21

/-- Address and reference value of a lane's wait (16 R318). -/
def waitWords (y : Lane) : List Byte :=
  match y.wait with
  | .poll va ref _ _ _ _ _ _ _ => leBytes 8 va ++ leBytes 8 ref
  | .sqwait t target _ => leBytes 8 (t * 2 ^ 50) ++ leBytes 8 target
  | .cwait va _ => leBytes 8 va ++ leBytes 8 0
  | .tjoin va => leBytes 8 va ++ leBytes 8 0
  | _ => leBytes 16 0

/-- The word of a fragment in a warp record (16 R318). The 320 bytes at 0x540 hold 40 words of 8 bytes. -/
def fragWord (w : Warp) (f : Nat) : Nat :=
  if f = 0 then maskOf (w.fragLanes 0)
  else match w.frag f with
    | none => 0
    | some g => maskOf (w.fragLanes f) + g.parent % 64 * 2 ^ 32 + flagNat g.esc.isSome * 2 ^ 38 + (g.action.getD 0) % 4 * 2 ^ 40

/-- The warp record of a warp of a node with `n` low registers (16 R318). -/
def warpRecord (n : Nat) (w : Warp) : List Byte :=
  let lane (l : Nat) : Lane := w.lane l
  leBytes 64 (w.utvec.toNat + w.agelim * 2 ^ 64 + w.grps.toNat * 2 ^ 128 + flagNat w.preq * 2 ^ 192 + flagNat w.fork.isSome * 2 ^ 256)
    ++ (allLanes.flatMap fun l => leBytes 4 (lane l).pc)
    ++ (allLanes.flatMap fun l => leBytes 8 (laneWord (lane l)))
    ++ ((List.range 12).flatMap fun r => leBytes 4 (w.mreg r)) ++ leBytes 16 0
    ++ ((List.range 64).flatMap fun r => leBytes 8 (w.sreg r))
    ++ (allLanes.flatMap fun l => leBytes 8 ((lane l).ucause % 2 ^ 16 + (lane l).uepc.toNat * 2 ^ 16 + (lane l).fflags % 64 * 2 ^ 48
          + flagNat (lane l).inHandler * 2 ^ 54))
    ++ leBytes 64 0
    ++ ((List.range 40).flatMap fun f => leBytes 8 (fragWord w f))
    ++ (allLanes.flatMap fun l => waitWords (lane l))
    ++ leBytes 128 0
    ++ (((List.range n) ++ (List.range 16).map fun k => 224 + k).flatMap fun r => allLanes.flatMap fun l => leBytes 4 (w.vreg r l))

/-- Queued commands of a node on a unit, in issue order, and its deque tasks there: in the queue and the deque, or spilled (12 R304). -/
def State.queuedCmds (s : State) (nk : Nat) (n : Node) (u : Nat) : List Cmd :=
  (s.cmds.filter fun c => c.node == nk && c.unit == u && !c.started) ++ n.savedCmds.filter fun c => c.unit == u
def State.queuedTasks (s : State) (nk : Nat) (n : Node) (u : Nat) : List Task :=
  ((getD [] s.deques u).filter fun t => t.node == nk) ++ (n.savedTasks.filter fun e => e.1 == u).map (·.2)

/-- The core section of a node on a unit (16 R318); how a command and a task are written is log entry 22. -/
def State.coreSection (s : State) (nk : Nat) (n : Node) (u : Nat) : List Byte :=
  let ci := n.coreIdx u
  let d := (find u n.decomp).getD {}
  let seqOf (k : Nat) : Option Warp := ((s.warpsOf nk).find? fun e => e.2.unit == u && (match e.2.role with | .seq j _ => j == k | _ => false)).map (·.2)
  let forkBytes (k : Nat) : List Byte := match seqOf k with
    | some w => leBytes 8 (w.lane 0).pc ++ (List.range 64).flatMap fun r => leBytes 8 (w.sreg r)
    | none => leBytes 520 0
  let cmds := s.queuedCmds nk n u
  let tasks := s.queuedTasks nk n u
  ((List.range 16).flatMap fun t => leBytes 8 (getD 0 n.tcfg (ci * 16 + t)).toNat)
    ++ (leBytes 8 d.gen ++ (List.range 4).flatMap fun k => ((getD [] d.tables k) ++ List.replicate 256 0).take 256) ++ leBytes 120 0
    ++ (((List.range 3).flatMap forkBytes) ++ List.replicate 2048 0).take 2048
    ++ ((cmds.flatMap fun (c : Cmd) => (List.range 64).map fun i => Config.cmdImage c.id i) ++ List.replicate 4096 0).take 4096
    ++ ((tasks.flatMap fun (t : Task) => (List.range 32).map fun i => Config.taskImage t.entry (ofLe t.args) i) ++ List.replicate 8192 0).take 8192
    ++ leBytes 8 tasks.length ++ leBytes 760 0
    ++ ((List.range n.desc.t).flatMap fun t => (List.range 16384).map fun i => getD 0 n.tiles ((ci * 16 + t) * 16384 + i))

/-- Where the parts of an area begin (16 R317, word 4–6): the first core section, the first warp record, the channels. -/
def areaOffsets (n : Node) : Nat × Nat × Nat :=
  let core := 256
  let warp := core + n.desc.c * (0x4000 + n.desc.t * 16384)
  (core, warp, warp + n.desc.c * n.desc.w * (0x900 + (n.desc.n + 16) * 128))

/-- Word 3 of the header of an area (16 R317): where the node stands, its first partition unit that of its lowest core (log entry 22). -/
def Node.placeWord (n : Node) : Nat :=
  let u0 := n.units.headD 0
  let die := if n.desc.pan then 8 + (u0 - Config.cores) / 16 else u0 / 96
  let cluster := if n.desc.pan then 0 else u0 / 8 % 12
  let mask := (n.units.map fun u => 2 ^ (if n.desc.pan then (u - Config.cores) % 16 else u % 8)).foldl (· + ·) 0
  die + cluster * 2 ^ 4 + mask * 2 ^ 8 + n.partBase u0 / 4096 * 2 ^ 24 + n.partSize / 4096 * 2 ^ 32

/-- The header of an area (16 R317). -/
def State.areaHeader (s : State) (n : Node) (status : Nat) : List Byte :=
  let (a, b, c) := areaOffsets n
  leBytes 8 (0x58465453 + 2 ^ 32 + status * 2 ^ 48)
    ++ leBytes 8 (((find n.launch s.launches).elim 0 fun l => l.id) + n.idx * 2 ^ 32 + n.desc.lvl * 2 ^ 48 + flagNat (s.ctx n.ctx).sec * 2 ^ 50)
    ++ leBytes 8 (n.desc.c + n.desc.w * 2 ^ 8 + n.desc.n * 2 ^ 16 + n.desc.t * 2 ^ 24 + flagNat n.desc.cast * 2 ^ 32 + flagNat n.desc.pan * 2 ^ 33)
    ++ leBytes 8 (n.areaWord.getD n.placeWord)
    ++ leBytes 8 a ++ leBytes 8 b ++ leBytes 8 c ++ leBytes 200 0

/-- The channel section (16 R317): the entries of the channels that the node binds. -/
def State.channelSection (s : State) (n : Node) : List Byte :=
  let es (c : Nat) : List (List W32) :=
    if n.desc.qbind.any fun b => bitAt b 7 && b % 16 == c then s.chanEntries n.launch c else []
  ((List.range 16).flatMap fun c =>
      (((es c).flatMap fun (e : List W32) => e.flatMap fun (v : W32) => leBytes 4 v.toNat) ++ List.replicate 2048 0).take 2048)
    ++ (List.range 16).flatMap fun c => leBytes 1 (es c).length

/-- The whole area of a node. -/
def State.areaBytes (s : State) (nk : Nat) (n : Node) : List Byte :=
  let warpAt (i : Nat) : Option Warp := ((s.warpsOf nk).find? fun e => e.2.idx == i && e.2.copy == 0 && !e.2.isSeq).map (·.2)
  s.areaHeader n 0 ++ (n.units.flatMap fun u => s.coreSection nk n u)
    ++ ((List.range (n.desc.c * n.desc.w)).flatMap fun i =>
        match warpAt i with
        | some w => warpRecord n.desc.n w
        | none => warpRecord n.desc.n { node := nk, idx := i, unit := 0, lanes := allLanes.map fun _ => { st := .never } })
    ++ s.channelSection n

/-! ### Pre-emption (R342–R347) -/

/-- A pre-emption request reaches the units of an entry's running nodes (R342). -/
def State.requestPreempt (s : State) (nk : Nat) (p : Preempt) : State :=
  (s.entryOf nk).foldl (fun (s : State) k =>
    match find k s.nodes with
    | none => s
    | some n =>
      if n.st ≠ .running || n.pre.isSome then s
      else
        let pdl := (find n.launch s.launches).elim 65536 fun l => l.pdl
        let q : Preempt := if k = nk then p else {}
        let s := s.setNode k { n with pre := some q }
        { s with warps := s.warps.map fun e => if e.2.node = k then (e.1, { e.2 with preq := true, pdleft := pdl }) else e }) s

/-- The node that a selector names in a context (16 R320): none where bits 31:16 are not 0 or no node exists from the acceptance
of its launch to its completion (20 R394). -/
def State.selNode (s : State) (ck sel : Nat) : Option (Nat × Node) :=
  if bitsAt sel 16 16 ≠ 0 then none
  else (s.launches.find? fun e => e.2.ctx == ck && e.2.id == sel / 2 ^ 32).bind fun e =>
    (e.2.nodes[sel % 2 ^ 16]?).bind fun k => (find k s.nodes).bind fun n => if n.st.final then none else some (k, n)

/-- Bytes of an area (16 R317). -/
def areaSize (n : Node) : Nat := (areaOffsets n).2.2 + 16 * 2048 + 16

/-- Every page of `n` bytes at an address can be accessed by a command. -/
def State.rangeOk (s : State) (c : Cmd) (write : Bool) (va n : Nat) : Bool :=
  ((List.range (n / 8192 + 1)).map fun i => min (i * 8192) (n - 1)).all fun o =>
    match s.checkAccess c.ctx none c.lvl { write := write, onlyN := true } (va + o) 1 with | .ok _ => true | _ => false

/-- A command of Saltern has its code, and writes it. -/
def State.endCmd (s : State) (c : Cmd) (k : Nat) : State := (s.putCmd { c with code := some k }).finishCmd c.id

/-- Saltern serves a `CTXS` (16 R322): none where it waits, for its acceptance store, for the node to run, or for another
pre-emption of it. A node already saved has its area written again. -/
def State.serveCtxs (s : State) (c : Cmd) : Option State :=
  if c.ready || !s.accepted c then none
  else if c.aborted then some (s.endCmd c 8)
  else match s.selNode c.ctx c.b with
    | none => some (s.endCmd c 3)
    | some (k, n) =>
      if !s.rangeOk c true c.a (areaSize n) then some (s.endCmd c 3)
      else match n.st, n.pre with
        | .running, none =>
          some ((s.putCmd { c with ready := true }).requestPreempt k
            { area := some c.a, ctx := c.ctx, done := some c.donePa, doneTag := c.doneTag })
        | .running, some p =>
          if p.written || p.done.isSome then none
          else some ((s.putCmd { c with ready := true }).setNode k
            { n with pre := some { p with area := some c.a, ctx := c.ctx, done := some c.donePa, doneTag := c.doneTag } })
        | .saved, _ =>
          let n := { n with areaWord := some n.placeWord }
          let s := (s.wrVirt c.ctx c.a (s.areaBytes k n)).setNode k { n with area := some (c.a, c.ctx) }
          some (s.endCmd c 0)
        | _, _ => none

/-- `PREEMPT_REQUEST` (R342): at the request of the SMC, or for the first `CTXS` with this area. -/
def execPreemptRequest (n : Nat) (area : Option Nat) (s : State) : Host.Outcome State Fault Refusal :=
  match area with
  | none => .next (s.requestPreempt n {})
  | some va =>
    match (s.cmds.filter fun c => isCtxs c.instr && c.a == va).findSome? s.serveCtxs with
    | some s => .next s
    | none => .next s

/-- How far a copy has come since the pair last met: its instructions, and whether it stands at the next one (19 R392). -/
def CopySt.place (c : CopySt) : Nat := 2 * c.steps + flagNat (c.meet != .none)

/-- How far a copy of a REDUNDANT warp and the others have come. -/
def State.copyPlaces (s : State) (w : Warp) : Option (Nat × List Nat) :=
  (find w.node s.nodes).bind fun n => if !n.desc.red || w.isSeq then none else
    (n.pair w.idx).bind fun p => (p.copies[w.copy]?).map fun c => (c.place, (p.copies.filter fun k => k.warp != c.warp).map CopySt.place)

/-- The warp of which this is a sequencer has stopped: its fork is halted with it (R343, 12 R304). -/
def State.forkHalts (s : State) (w : Warp) : Bool :=
  match w.role with | .seq _ parent => (find parent s.warps).elim false fun p => p.stop != .running | _ => false

/-- The count of a warp is 0 and it stops: a copy of a REDUNDANT warp at the instruction to which the copy furthest ahead has
come (19 R392). -/
def State.stopsNow (s : State) (w : Warp) : Bool :=
  (w.preq && w.pdleft == 0 || s.forkHalts w) && w.stop == .running
    && (match s.copyPlaces w with
      | none => true
      | some (k, others) => others.all fun o => decide (o ≤ k))

/-- A warp stops (R343): its pending full/empty loads are cancelled and its lanes set back to them (09 R223). -/
def State.forceStop (s : State) (wk : Nat) : State :=
  match find wk s.warps with
  | none => s
  | some w => (s.dropFe wk).setWarp wk { (w.cancelFe (s.feOf wk)) with stop := .forced }

/-- `FORCED_STOP` (R343): the warps of a unit whose count has come to 0 stop, and the sequencers of their forks with them
(12 R304). -/
def execForcedStop (unit : Nat) (s : State) : Host.Outcome State Fault Refusal :=
  .next (((s.warps.filter fun e => e.2.unit == unit && s.stopsNow e.2).map (·.1)).foldl (fun (s : State) k => s.forceStop k) s)

/-- The warps of a node have stopped or retired, and what they have issued has finished (R343): table replies, atomic results
and tile instructions are in. A node without live warps is not stopped. -/
def State.stoppedNode (s : State) (nk : Nat) : Bool :=
  let ws := s.warpsOf nk
  ws.any (fun e => !e.2.isSeq) && ws.all (fun e => e.2.stop != .running && e.2.suspended.isNone && e.2.pend.all fun p => p.req == 0)
    && !(s.tileQ.any fun t => t.node == nk)
    && !((s.atomQ ++ s.rakeQ ++ s.held).any fun r => r.node == nk && (match r.kind with | .store _ _ => false | _ => true))
    && !(s.atomRes.any fun r => ws.any fun e => e.1 == r.who.warp) && !(s.tabRes.any fun r => ws.any fun e => e.1 == r.warp)

/-! ### The implicit `RCHK` of a pre-emption (19 R392) -/

/-- Every warp of a node that is to be saved has stopped, and some copy has not come to its comparison. -/
def State.implicitDue (s : State) (nk : Nat) : Bool :=
  (find nk s.nodes).elim false fun n => n.desc.red && n.st == .running && (n.pre.elim false fun p => !p.written)
    && (s.warpsOf nk).any (fun e => !e.2.isSeq) && (s.warpsOf nk).all (fun e => e.2.stop != .running)
    && n.pairs.any fun p => !s.pairGone p && p.copies.any fun c => c.meet == .none || c.meet == .once

/-- A copy comes to the implicit `RCHK`: its chunk ends, unless it has ended at the operation before which it stands; at an `RCHK`, a `REND` or an `EXIT`
the copies compare as that instruction has them. -/
def CopySt.comesToStop (c : CopySt) : CopySt :=
  match c.meet with
  | .none => { (if c.open_ then c.close else c) with meet := .stop }
  | .once => { c with meet := .stop }
  | _ => c

/-- The stopped pairs of a node come to their implicit `RCHK`; outside a region there is nothing to compare. -/
def State.implicitCheck (s : State) (nk : Nat) : State :=
  let stop (p : Pair) : Pair :=
    let quiet := p.copies.all fun c => !c.open_
    { p with copies := p.copies.map fun c => { c.comesToStop with pass := c.pass || quiet } }
  { s with nodes := adjust nk (fun n => { n with pairs := n.pairs.map fun p => if s.pairGone p then p else stop p }) s.nodes }

/-- Every pair of a node has been let through its comparison, and no chunk of it is left. -/
def State.checked (s : State) (n : Node) : Bool :=
  !n.desc.red || n.pairs.all fun p => s.pairGone p || p.copies.all fun c => c.pass && c.meet != .none && c.meet != .once && c.buf.isEmpty

/-- An area in table 5 that no saved node of the context has (R344): the lowest, of one more than there are nodes (log entry 24). -/
def State.freeArea (s : State) (ck : Nat) : Nat :=
  let taken (va : Nat) : Bool := s.nodes.any fun e => e.2.area == some (va, ck)
  (((List.range (s.nodes.length + 1)).map fun i => 5 * 2 ^ 50 + i * 2 ^ 25).find? fun va => !taken va).getD (5 * 2 ^ 50)

/-- Spill the commands still in the queue and the deque tasks of a node that has stopped (12 R304). -/
def State.spill (s : State) (nk : Nat) (n : Node) : State :=
  let queued (c : Cmd) : Bool := c.node == nk && !c.started && !isCtxs c.instr && !isCtxl c.instr
  let n : Node := { n with
    savedCmds := s.cmds.filter queued
    savedTasks := s.deques.flatMap fun (e : Nat × List Task) => (e.2.filter fun t => t.node == nk).map fun t => (e.1, t) }
  ({ s with cmds := s.cmds.filter fun c => !queued c
            deques := s.deques.map fun (e : Nat × List Task) => (e.1, e.2.filter fun t => t.node != nk) } : State).setNode nk n

/-- Copy a partition of a node with its bits and its poison from its place on a unit to its place as `m` on another (R346; 19 R375). -/
def State.copyPartition (s : State) (n m : Node) (u v : Nat) : State :=
  let size := n.partSize
  let src := n.partBase u
  let dst := m.partBase v
  let into (p : PoisonLoc) : Bool := match p with | .scratch w o => w == v && decide (dst ≤ o) && decide (o < dst + size) | _ => false
  let goes (p : PoisonLoc) : Option PoisonLoc := match p with
    | .scratch w o => if w == u && decide (src ≤ o) && decide (o < src + size) then some (.scratch v (dst + (o - src))) else none
    | _ => none
  { s with
    scratch := (List.range size).foldl (fun c i => put 0 (spKey v (dst + i)) (s.spByte u (src + i)) c) s.scratch
    fe := (List.range (size / 16)).foldl (fun c i => put false (feKey v (dst + 16 * i)) (s.feBit u (src + 16 * i)) c) s.fe
    poison := (s.poison.filter fun p => !into p) ++ s.poison.filterMap goes }

/-- A copy that has passed its comparison runs on after the save, from the instruction before which it stopped. -/
def CopySt.stopped (c : CopySt) : CopySt := if c.meet = .stop then { c with meet := .none, pass := false } else c

/-- One copy's state is saved (19 R392): the trailing copies of a node's warps stand as the leading ones do, in registers, lanes, partition and
decompression state. -/
def State.mirror (s : State) (nk : Nat) (n : Node) : State :=
  if !n.desc.red then s
  else
    let unit (wk : Nat) : Option Nat := (find wk s.warps).map (·.unit)
    let both : List (Nat × Nat) := (n.pairs.filterMap fun p => match p.copies with
      | [a, b] => (unit a.warp).bind fun u => (unit b.warp).map fun v => (u, v)
      | _ => none).eraseDups
    let s := both.foldl (fun (s : State) e => s.copyPartition n n e.1 e.2) s
    let same (d : List (Nat × Decomp)) (e : Nat × Nat) : List (Nat × Decomp) :=
      match find e.1 d with
      | some x => insert e.2 x d
      | none => erase e.2 d
    let s : State := { s with nodes := adjust nk (fun m => { m with decomp := both.foldl same m.decomp }) s.nodes }
    n.pairs.foldl (fun (s : State) p =>
      match p.copies with
      | [a, b] => match find a.warp s.warps, find b.warp s.warps with
        | some w, some v =>
          let s := s.setWarp b.warp { w with unit := v.unit, slot := v.slot, copy := v.copy, fork := v.fork }
          let a := a.stopped
          s.setPairAt nk { p with copies := [a, { a with warp := b.warp }] }
        | _, _ => s
      | _ => s) s

/-- Poisoned registers or tiles of a node would be read for its area (19 R375). -/
def State.savesPoison (s : State) (nk : Nat) : Bool :=
  s.poison.any fun p => match p with
    | .reg w _ _ _ => (find w s.warps).elim false fun v => v.node == nk && v.copy == 0
    | .tile k _ _ _ => k == nk
    | _ => false

/-- A queued command whose entry an uncorrectable error has reached is not spilled: it fails (19 R375). -/
def State.failPoisoned (s : State) (nk : Nat) : State :=
  let bad (c : Cmd) : Bool := c.node == nk && !c.started && s.poisonedEntry c.id
  { s with cmds := s.cmds.map fun c => if bad c then { c with started := true, code := some 1 } else c }

/-- A stopped node whose copies agree, and whose area is not written. -/
def State.saves (s : State) (nk : Nat) : Bool :=
  (find nk s.nodes).elim false fun n => n.st == .running && (n.pre.elim false fun p => !p.written) && s.stoppedNode nk && s.checked n

/-- The area of a node is written (R344): `p` is its pre-emption. -/
def State.writeArea (s : State) (nk : Nat) (n : Node) (p : Preempt) : State :=
  let s := (s.failPoisoned nk).mirror nk n
  let n := { (find nk s.nodes).getD n with areaWord := some n.placeWord }
  let (va, ck) := match p.area with | some a => (a, p.ctx) | none => (s.freeArea n.ctx, n.ctx)
  let s := s.wrVirt ck va (s.areaBytes nk n)
  let forced := (s.warpsOf nk).any fun e => !e.2.isSeq && e.2.stop == .forced
  s.spill nk { n with area := some (va, ck), pre := some { p with written := true, forced := forced } }

/-- `SUMP_SAVE` (R344): the sump engines of a stopped node write its area; where they meet poison in a register or a tile, the node is killed (19 R375). -/
def execSumpSave (n : Nat) (s : State) : Host.Outcome State Fault Refusal :=
  match find n s.nodes with
  | none => .next s
  | some nd =>
    match nd.pre with
    | none => .next s
    | some p =>
      if !s.saves n then .next s
      else if s.savesPoison n then .next (s.killNode n 0x12 0 0)
      else .next (s.writeArea n nd p)

/-- `SAVE_COMMIT` (R344, R347): the node's slots, registers and tiles are free, its partition stays, and it stands in the pool again at its PRIO (R336).
A gang is committed together. -/
def execSaveCommit (n : Nat) (s : State) : Host.Outcome State Fault Refusal :=
  let ks := (s.entryOf n).filter fun k => (find k s.nodes).elim false fun m => m.st == .running
  let ready (k : Nat) : Bool := (find k s.nodes).elim false fun m => (m.pre.elim false fun p => p.written)
  if ks.isEmpty || !ks.all ready then .next s
  else .next (ks.foldl (fun (s : State) k =>
    match find k s.nodes with
    | none => s
    | some m =>
      match m.pre, find m.launch s.launches with
      | some p, some l =>
        let s := s.setNode k { m with st := .saved, pre := none, slots := [], level := m.desc.prio, entered := s.hub, blocked := false }
        let s := s.preDone p
        s.appendCompletion m.ctx (completionRec l (if p.forced then 4 else 3) 0 m.idx)
      | _, _ => s) s)

/-! ### Resumption and moves (R345, R346) -/

/-- A parked fragment's delay starts again (18 R361), and an action that an `ERET` stored meanwhile is left to act. -/
def Frag.resume (g : Frag) (now : Nat) : Frag :=
  { g with
    park := g.park.map fun p => { p with d := 64, due := now + 64 }
    late := g.late.map fun q => { q with due := now + Config.lateCycles } }

/-- A waiting lane waits again (R343): a polling one reads at once. -/
def Wait.resume (w : Wait) (now : Nat) : Wait :=
  match w with
  | .poll va ref n eq d acq yh _ _ => .poll va ref n eq d acq yh 32 now
  | w => w

/-- The byte of AGELIM in a saved area, the one byte that system software may change (16 R318). -/
def State.areaAge (s : State) (n : Node) (i : Nat) : Option Nat :=
  n.area.bind fun a => (s.rdVirt a.2 ((a.1 + (areaOffsets n).2.1 + i * (0x900 + (n.desc.n + 16) * 128) + 8) % 2 ^ 64) 1).map ofLe

/-- A warp of a resumed node runs on; an AGELIM of 0 in its record restores 64 (01 R27). -/
def State.resumeWarp (s : State) (n : Node) (w : Warp) : Warp :=
  { w with
    stop := .running, preq := false, pdleft := 0, slot := n.slotOf w.unit (w.idx % max 1 n.desc.w)
    agelim := if w.isSeq then w.agelim else match s.areaAge n w.idx with | some 0 => 64 | some a => a | none => w.agelim
    frags := w.frags.map fun g => g.resume (s.clock w.unit)
    lanes := w.lanes.map fun y => { y with wait := y.wait.resume (s.clock w.unit) } }

/-- A fragment acts on the action that an `ERET` stored while its node was saved (16 R316). -/
def State.actStored (s : State) (nk wk id : Nat) : State :=
  match find wk s.warps, (find nk s.nodes).bind fun n => (find n.launch s.launches).map fun l => (n.launch, l) with
  | some w, some (lk, l) =>
    match w.frag id with
    | none => s
    | some g =>
      match g.action with
      | none => s
      | some a =>
        if a = 3 then s.killNode nk 0x10 0 0
        else if w.isSeq && a == 2 then s.failFork w
        else s.setWarp wk (s.actFrag lk l w g a)
  | _, _ => s

/-- A saved node runs again on the units that hold its partition (R345). -/
def State.resumeNode (s : State) (nk : Nat) : State :=
  match find nk s.nodes with
  | none => s
  | some n =>
    let stored := (s.warpsOf nk).flatMap fun e => (e.2.frags.filter fun g => g.action.isSome).map fun g => (e.1, g.id)
    let others : State := { s with nodes := s.nodes.filter fun e => e.1 != nk }
    let n := n.allUnits.foldl (fun (n : Node) u => n.bindSlots (others.usedSlots u) u) { n with slots := [] }
    let back (e : Nat × Warp) : Nat × Warp := if e.2.node = nk then (e.1, s.resumeWarp n e.2) else e
    let deque (m : List (Nat × List Task)) (u : Nat) : List (Nat × List Task) :=
      put [] u (getD [] m u ++ (n.savedTasks.filter fun e => e.1 == u).map (·.2)) m
    let s : State := { s.setNode nk { n with st := .running, blocked := false, area := none, areaWord := none, savedCmds := [], savedTasks := [] } with
      warps := s.warps.map back
      cmds := s.cmds ++ n.savedCmds
      deques := (distinct (n.savedTasks.map (·.1))).foldl deque s.deques }
    stored.foldl (fun (s : State) e => s.actStored nk e.1 e.2) s

/-- The nodes of an entry fit where they stand, one after another: saved ones have their partitions there. -/
def standing (s : State) : List Nat → Option State
  | [] => some s
  | k :: t => match find k s.nodes with
    | none => none
    | some n =>
      if n.allUnits.all (fun u => s.roomOn n u && s.worldOk n.ctx u && (n.st == .saved || s.runsFree u (n.bankOn u) n.desc.scr)) then
        standing { s with nodes := insert k { n with st := .running } s.nodes } t
      else none

/-- An area is as it was saved, but for the byte of AGELIM of each warp record (16 R318). -/
def sameArea (n : Node) (a b : List Byte) : Bool :=
  let size := 0x900 + (n.desc.n + 16) * 128
  let lo := (areaOffsets n).2.1
  let hi := (areaOffsets n).2.2
  a.length == b.length && (a.zip b).zipIdx.all fun e =>
    e.1.1 == e.1.2 || (decide (lo ≤ e.2) && decide (e.2 < hi) && (e.2 - lo) % size == 8)

/-- Saltern serves a `CTXL` (16 R322): none where it waits, for its acceptance store or, once the area is taken, for the node to
be resumed. An area of STATUS NONE, or one that differs from the saved state outside AGELIM, fails. -/
def State.serveCtxl (s : State) (c : Cmd) : Option State :=
  if !s.accepted c then none
  else match s.selNode c.ctx c.b with
    | none => some (s.endCmd c (if c.aborted then 8 else 3))
    | some (k, n) =>
      if c.ready then (if n.st = .saved then none else some (s.endCmd c 0))
      else if c.aborted then some (s.endCmd c 8)
      else if n.st ≠ .saved then some (s.endCmd c 3)
      else match s.rdVirt c.ctx c.a (areaSize n) with
        | none => some (s.endCmd c 3)
        | some bs =>
          if !sameArea n bs (s.areaBytes k n) then some (s.endCmd c 3)
          else some ((s.putCmd { c with ready := true }).setNode k
            { n with area := some (c.a, c.ctx), level := n.desc.prio, entered := s.hub, blocked := false })

/-- The nodes whose partitions move together with a node's: its entry, with the ended owners whose partitions are still reached (05 R111). -/
def State.movers (s : State) (nk : Nat) : List Nat :=
  (s.entryOf nk).filter fun k => (find k s.nodes).elim false fun n => n.st == .saved || s.lingers n

/-- The units of a node with one pair of unit and run for each, in order. -/
def Node.movedTo (n : Node) (ps : List (Nat × Nat)) : Node :=
  let c := n.units.length
  let us := ps.map (·.1)
  { n with banks := ps, units := us.take c, units2 := (us.drop c).take n.units2.length, units3 := us.drop (c + n.units2.length), st := .running }

/-- A core set as R11 and R12 have it: of one cluster or stack, its units ascending. -/
def coreSetOk (pan : Bool) (us : List Nat) : Bool :=
  (us.all fun u => if pan then decide (Config.cores ≤ u) && (u - Config.cores) / 16 == (us.headD 0 - Config.cores) / 16 && decide (u < Config.units)
    else decide (u < Config.cores) && u / 8 == us.headD 0 / 8) && decide (us.Pairwise (· < ·))

/-- Every member of a WIN group stands on one unit (01 R21). -/
def winsOk (l : Launch) (ns : List Node) : Bool :=
  l.groups.all fun g => !g.win ||
    let us := g.members.filterMap fun m => (ns.find? fun n => n.idx == m.1).bind fun n => n.units[m.2 / max 1 n.desc.w]?
    us.all fun u => u == us.headD 0

/-- Put moving nodes on their new places one after another: none where a place is taken or no core set. The moving nodes' old places stay taken,
under numbers that no node has. -/
def moveOn (s : State) : List (Nat × List (Nat × Nat)) → Option State
  | [] => some s
  | (k, ps) :: t => match find k s.nodes with
    | none => none
    | some n =>
      let m := n.movedTo ps
      if ps.length == n.allUnits.length && coreSetOk n.desc.pan m.units && coreSetOk false m.units2 && coreSetOk false m.units3
          && decide (m.allUnits.Nodup) && ps.all (fun p => s.worldOk n.ctx p.1 && s.runsFree p.1 p.2 n.desc.scr) && s.partReady m then
        moveOn { s with nodes := insert k m s.nodes } t
      else none

/-- The device in which the places of the nodes that are to move are sought: their old places are held by stand-ins. -/
def State.forMove (s : State) (ks : List Nat) : State :=
  { s with nodes := s.nodes ++ (ks.zipIdx.filterMap fun e => (find e.1 s.nodes).map fun n => (s.nextId + e.2, { n with st := .saved })) }

/-- One node's partition moves to its new place as `m` has it, and what is saved of the node with it. -/
def State.moveNode (s : State) (k : Nat) (m : Node) : State :=
  match find k s.nodes with
  | none => s
  | some n =>
    let pairs := n.allUnits.zip m.allUnits
    let s := m.allUnits.foldl (fun (s : State) u => s.givePartition m u) s
    let s := pairs.foldl (fun (s : State) e => s.copyPartition n m e.1 e.2) s
    let goTo (u : Nat) : Nat := (find u pairs).getD u
    let s : State := { s with
      warps := s.warps.map fun e => if e.2.node = k then (e.1, { e.2 with unit := goTo e.2.unit }) else e
      casts := s.casts.map fun c => if c.node = k then { c with unit := goTo c.unit } else c }
    s.setNode k { m with
      st := n.st, decomp := n.decomp.map fun e => (goTo e.1, e.2), savedCmds := n.savedCmds.map fun c => { c with unit := goTo c.unit }
      savedTasks := n.savedTasks.map fun e => (goTo e.1, e.2) }

/-- The device once saved nodes have moved (R346): none where a command targets a partition, a place is taken, or the nodes are no entry. -/
def State.moved (s : State) (moves : List (Nat × List (Nat × Nat))) : Option State :=
  let ks := moves.map (·.1)
  let ns := ks.filterMap fun k => find k s.nodes
  let l := (ns.head?.bind fun n => find n.launch s.launches).getD { ctx := 0, id := 0 }
  if (ns.any fun n => n.st == .saved) && decide (ks.Pairwise (· < ·)) && (ks.all fun k => s.movers k == ks)
      && !(s.cmds.any fun c => ks.contains c.node) then
    (moveOn (s.forMove ks) moves).bind fun t =>
      let ms := ks.filterMap fun k => (find k t.nodes).map fun m => (k, m)
      if winsOk l (ms.map (·.2)) then some (ms.foldl (fun (s : State) e => s.moveNode e.1 e.2) s) else none
  else none

/-- `NODE_MOVE` (R346; 05 R111): once every command that targets their partitions is complete, the saved nodes of an entry move together to free
runs of other core sets; the old banks are free. `place` gives the lowest of the nodes one pair of unit and run for each of its units, `mates` the others
of its entry. -/
def execNodeMove (node : Nat) (place : List (Nat × Nat)) (mates : List (Nat × List (Nat × Nat))) (s : State) : Host.Outcome State Fault Refusal :=
  .next ((s.moved ((node, place) :: mates)).getD s)

/-! ### Dispatch of the head (R336) -/

/-- The head is blocked. -/
def State.isBlocked (s : State) (e : PoolEntry) : Bool := e.keys.any fun k => (find k s.nodes).elim false fun n => n.blocked

/-- The groups of an entry's launch. -/
def State.entryGroups (s : State) (e : PoolEntry) : List Group :=
  (((e.keys.head?.bind fun k => find k s.nodes).bind fun n => find n.launch s.launches).elim [] fun l => l.groups)

/-- The nodes of an entry with their places taken, where they fit: saved nodes and those of a blocked head where they stand, others placed
(R336, R338, R345). -/
def State.entryFits (s : State) (e : PoolEntry) : Option State :=
  let ns := e.keys.filterMap fun k => find k s.nodes
  (if (ns.all fun n => n.st == .saved) || s.isBlocked e then standing s e.keys else s.placeEntry true (s.entryGroups e) e.keys).bind fun t =>
    if e.keys.all fun k => (find k t.nodes).elim true fun n => (find k s.nodes).elim false (fun m => m.st == .saved) || s.partReady n then some t else none

/-- Dispatch an entry (R336, R340). -/
def State.dispatchEntry (s t : State) (e : PoolEntry) : State :=
  let placed (q : Nat × Node) : Nat × Node :=
    match find q.1 t.nodes with
    | some m => if e.keys.contains q.1 && q.2.st == .ready then (q.1, { m with st := .ready }) else q
    | none => q
  let s := { s with nodes := s.nodes.map placed, nextDispatch := s.hub + 1 }
  e.keys.foldl (fun (s : State) k =>
    match find k s.nodes with
    | some n => if n.st = .saved then s.resumeNode k else s.startNode k
    | none => s) s

/-- A node holds runs that the placement of a blocked head needs (R336). -/
def State.headNeeds (s : State) (h : PoolEntry) (n : Node) : Bool :=
  n.allUnits.any fun u => (h.keys.filterMap fun k => find k s.nodes).any fun m => m.st == .ready && m.allUnits.contains u
    && runsMeet (m.bankOn u) m.desc.scr (n.bankOn u) n.desc.scr

/-- The nodes beside a blocked head that hold runs which it needs and that no pre-emption frees: saved ones, and ended ones whose partitions are still
reached. -/
def State.inHeadsWay (s : State) (h : PoolEntry) : List (Nat × Node) :=
  s.nodes.filter fun e => (e.2.st == .saved || s.lingers e.2) && !h.keys.contains e.1 && s.headNeeds h e.2

/-- The nodes that would move with a node are all saved, and no command targets their partitions (R346). -/
def State.movable (s : State) (k : Nat) : Bool :=
  !s.cmds.any (fun c => (s.movers k).contains c.node) && (s.liveEntry k).all fun k => (find k s.nodes).elim false fun n => n.st == .saved

/-- The move of a node that stands in a blocked head's way: to the first place that R338 gives with room for the partitions beside the head's; none where
there is none. Which place is not architectural (log entry 53). -/
def State.moveFor (s : State) (h : PoolEntry) (k : Nat) : Option (List (Nat × List (Nat × Nat))) :=
  let heads : State := { s with nodes := s.nodes.map fun e => if h.keys.contains e.1 then (e.1, { e.2 with st := .running }) else e }
  let ks := s.movers k
  ((heads.forMove ks).placeEntry false (s.entryGroups { keys := ks, level := 0, entered := 0 }) ks).map fun t =>
    ks.filterMap fun k => (find k t.nodes).map fun m => (k, m.allUnits.map fun u => (u, m.bankOn u))

/-- The moves that a blocked head has Saltern make (R336, R346): of the first entry in its way that can move. -/
def State.movesDue (s : State) : Option (List (Nat × List (Nat × Nat))) :=
  match s.pool with
  | [] => none
  | h :: _ => if !s.isBlocked h then none else (s.inHeadsWay h).findSome? fun e => if s.movable e.1 then s.moveFor h e.1 else none

/-- An entry stands in a blocked head's way and has nowhere to move: the head waits for it to be resumed (R346). -/
def State.mustRun (s : State) (h e : PoolEntry) : Bool :=
  (s.inHeadsWay h).any fun q => s.liveEntry q.1 == e.keys && s.movable q.1 && (s.moveFor h q.1).isNone

/-- The entry that a cycle may dispatch: the head, or behind a head that is not blocked the first that fits; behind a blocked one, only one for which it
waits. -/
def State.dispatchable (s : State) (backfill : Bool) : Option (PoolEntry × State) :=
  match s.pool with
  | [] => none
  | h :: t =>
    match s.entryFits h with
    | some x => if backfill then none else some (h, x)
    | none =>
      if s.isBlocked h == backfill then none
      else t.findSome? fun e => if backfill || s.mustRun h e then (s.entryFits e).map fun x => (e, x) else none

/-- `NODE_RESUME` (R345; 16 R322): a `CTXL` of the node is served; otherwise the entry of a saved node resumes where it lies, once it reaches
dispatch. -/
def execNodeResume (n : Nat) (s : State) : Host.Outcome State Fault Refusal :=
  match (s.cmds.filter fun c => isCtxl c.instr && ((s.selNode c.ctx c.b).elim true fun e => e.1 == n)).findSome? s.serveCtxl with
  | some s => .next s
  | none =>
    let saved (k : Nat) : Bool := (find k s.nodes).elim false fun m => m.st == .saved
    if s.hub < s.nextDispatch then .next s
    else match [false, true].findSome? fun b => (s.dispatchable b).filter fun e => e.1.keys.contains n && e.1.keys.all saved with
      | some (e, t) => .next (s.dispatchEntry t e)
      | none => .next s

/-- `NODE_DISPATCH` (R336): one entry at most in each hub cycle; a dispatch that a die refuses leaves its nodes where they are in the
pool (R335). -/
def execNodeDispatch (backfill : Bool) (s : State) : Host.Outcome State Fault Refusal :=
  if s.hub < s.nextDispatch then .next s
  else match s.dispatchable backfill with
    | some (e, t) => .next (s.dispatchEntry t e)
    | none => .next s

/-- The head has waited STARVE cycles at level 7 and does not fit. -/
def State.headStarved (s : State) : Option PoolEntry :=
  match s.pool with
  | [] => none
  | h :: _ =>
    if h.level == 7 && decide (h.entered + s.settings.starve ≤ s.hub) && (s.entryFits h).isNone
        && !s.isBlocked h then some h else none

/-- The head with the placement that it would get on an otherwise empty device (R336, R338): a saved node's is where its partition lies. -/
def State.headPlaced (s : State) (h : PoolEntry) : State :=
  let ns := h.keys.filterMap fun k => find k s.nodes
  let empty : State := { s with nodes := s.nodes.filter fun e => h.keys.contains e.1 }
  let at_ (k : Nat) (n : Node) : Node :=
    if ns.all fun n => n.st == .saved then { n with blocked := true }
    else match (empty.placeEntry true (s.entryGroups h) h.keys).bind fun t => find k t.nodes with
      | some m => { m with st := n.st, blocked := true }
      | none => { n with blocked := true }
  { s with nodes := s.nodes.map fun e => if h.keys.contains e.1 then (e.1, at_ e.1 e.2) else e }

/-- The running nodes that hold a resource of the placement of the head. -/
def State.headVictims (s : State) (h : PoolEntry) : List Nat :=
  let us := h.keys.flatMap fun k => (find k (s.headPlaced h).nodes).elim [] Node.allUnits
  (s.nodes.filter fun e => e.2.st == .running && e.2.allUnits.any us.contains).map (·.1)

/-- `HEAD_BLOCKED` (R336): the head is blocked and chooses its placement, and the running nodes that hold resources of it are pre-empted. -/
def execHeadBlocked (s : State) : Host.Outcome State Fault Refusal :=
  match s.headStarved with
  | none => .next s
  | some h => .next ((s.headVictims h).foldl (fun (s : State) k => s.requestPreempt k {}) (s.headPlaced h))

/-! ### Retirement (01 R44) -/

/-- A node may retire. -/
def State.mayRetire (s : State) (nk : Nat) : Bool :=
  match find nk s.nodes with
  | none => false
  | some n =>
    n.st == .running && (s.warpsOf nk).isEmpty && n.openForks == 0 && !(s.deques.any fun e => e.2.any fun t => t.node == nk)
      && !(s.cmds.any fun c => c.node == nk)
      && !((s.held ++ s.atomQ).any fun r => r.node == nk && (match r.kind with | .atomic a => a.task.isSome | _ => false))

/-- The writes of a node have been performed: its completion is a release (01 R15). -/
def State.drained (s : State) (nk : Nat) : Bool := !((s.held ++ s.atomQ ++ s.rakeQ).any fun r => r.node == nk)

/-- `NODE_RETIRE` (01 R44): a node with nothing left to do completes done. -/
def execNodeRetire (n : Nat) (s : State) : Host.Outcome State Fault Refusal :=
  if s.mayRetire n && s.drained n then .next (s.endNode n true 0 0 0) else .next s

/-! ### Watchdogs (R348, R349) -/

/-- The count of a unit for a context. -/
def idleKey (ck u : Nat) : Nat := ck * 1024 + u

/-- The units that hold running nodes of a context. -/
def State.ctxUnits (s : State) (ck : Nat) : List Nat :=
  distinct ((s.nodes.filter fun e => e.2.ctx == ck && e.2.st == .running).flatMap fun e => e.2.allUnits)

/-- The limit that a count is compared with: the one in force when it began, or the context's where it stands at 0 (16 R311). -/
def limitOf (lims counts : List (Nat × Nat)) (k now : Nat) : Nat := if getD 0 counts k = 0 then now else (find k lims).getD now

def State.idleOver (s : State) (ck u : Nat) : Bool :=
  decide (limitOf s.idleLim s.idle (idleKey ck u) (s.ctx ck).wdlim ≤ getD 0 s.idle (idleKey ck u))
def State.extOver (s : State) (ck u : Nat) : Bool :=
  let lim := limitOf s.extLim s.ext (idleKey ck u) (s.ctx ck).extlim
  lim != 0 && decide (lim ≤ getD 0 s.ext (idleKey ck u))

/-- What both watchdogs ask of a context: it has been dispatched, and nothing of it is ready, being dispatched or saved. -/
def State.quiet (s : State) (ck : Nat) : Bool :=
  (s.ctx ck).dispatched && !(s.nodes.any fun e => e.2.ctx == ck && (e.2.st == .ready || e.2.pre.isSome || e.2.st == .saved))

/-- Every running or saved node of a context is killed. -/
def State.killCtx (s : State) (ck reason : Nat) : State :=
  ((s.nodes.filter fun e => e.2.ctx == ck && (e.2.st == .running || e.2.st == .saved)).map (·.1)).foldl
    (fun (s : State) k => s.killNode k reason 0 0) s

/-- The watchdog of a context fires. -/
def State.wdFires (s : State) (ck : Nat) : Bool :=
  s.quiet ck && !(s.ctxUnits ck).isEmpty && (s.ctxUnits ck).all fun u => s.idleOver ck u
def State.extFires (s : State) (ck : Nat) : Bool :=
  s.quiet ck && ((s.ctxUnits ck).all fun u => s.idleOver ck u || s.extOver ck u) && (s.ctxUnits ck).any fun u => s.extOver ck u

/-- `WATCHDOG_EXPIRY` (R348): a unit reports its count expired; with every unit of the context the watchdog fires. -/
def execWatchdogExpiry (unit ctx : Nat) (s : State) : Host.Outcome State Fault Refusal :=
  if s.idleOver ctx unit && s.wdFires ctx then .next (s.killCtx ctx 0x13) else .next s

/-- `EXTWAIT_EXPIRY` (R349). -/
def execExtwaitExpiry (unit ctx : Nat) (s : State) : Host.Outcome State Fault Refusal :=
  if s.extOver ctx unit && s.extFires ctx then .next (s.killCtx ctx 0x14) else .next s

/-! ### The events that are due -/

/-- Nodes whose area can be written. -/
def State.sumpDue (s : State) : List Nat := (s.nodes.map (·.1)).filter s.saves

/-- Nodes whose save can be committed with their gang. -/
def State.commitDue (s : State) : List Nat :=
  (s.nodes.filter fun e => e.2.st == .running && (e.2.pre.elim false fun p => p.written)
    && (s.entryOf e.1).all fun k => (find k s.nodes).elim true fun m => m.st != .running || m.pre.elim false fun p => p.written).map (·.1)

/-- Entries that rise a level. -/
def State.promoteDue (s : State) : List Nat :=
  (s.pool.filter fun e => decide (e.level < 7) && decide (e.entered + s.settings.starve ≤ s.hub)).filterMap fun e => e.keys.head?

/-- The first event of Saltern that is due. Whether it dispatches behind a head that does not fit is not architectural: by itself
it does not (log entry 4). -/
def State.salternEvent (s : State) : Option (Host.Outcome State Fault Refusal) :=
  firstDue ((s.ctxs.filter fun e => s.submitted e.1).map (·.1)) (fun c => execLaunchAccept c s)
    <|> firstDue (s.launches.filter fun e => s.closes e.1 e.2) (fun e => .next (s.closeLaunch e.1))
    <|> firstDue ((s.nodes.map (·.1)).filter fun k => s.mayRetire k && s.drained k) (fun k => execNodeRetire k s)
    <|> firstDue (distinct ((s.warps.filter fun e => s.stopsNow e.2).map fun e => e.2.unit)) (fun u => execForcedStop u s)
    <|> firstDue ((s.nodes.map (·.1)).filter s.implicitDue) (fun k => .next (s.implicitCheck k))
    <|> firstDue s.sumpDue (fun k => execSumpSave k s)
    <|> firstDue s.commitDue (fun k => execSaveCommit k s)
    <|> firstDue (if s.nodes.isEmpty then [] else (List.range (8 + s.stackCount)).filter s.reportDue) (fun d => execResourceReport d s)
    <|> firstDue (s.cmds.filter fun c => isCtxs c.instr && (s.serveCtxs c).isSome) (fun c => execPreemptRequest 0 (some c.a) s)
    <|> firstDue (s.cmds.filter fun c => isCtxl c.instr && (s.serveCtxl c).isSome)
          (fun c => execNodeResume ((s.selNode c.ctx c.b).elim 0 fun e => e.1) s)
    <|> firstDue s.promoteDue (fun k => execStarvePromotion k s)
    <|> (if decide (s.nextDispatch ≤ s.hub) && (s.dispatchable false).isSome then some (execNodeDispatch false s) else none)
    <|> (if s.headStarved.isSome then some (execHeadBlocked s) else none)
    <|> (s.movesDue.filter fun m => (s.moved m).isSome).bind (fun m => m.head?.map fun e => execNodeMove e.1 e.2 m.tail s)
    <|> firstDue ((s.ctxs.filter fun e => s.wdFires e.1).filterMap fun e => (s.ctxUnits e.1).head?.map fun u => (u, e.1))
          (fun e => execWatchdogExpiry e.1 e.2 s)
    <|> firstDue ((s.ctxs.filter fun e => s.extFires e.1).filterMap fun e => ((s.ctxUnits e.1).find? fun u => s.extOver e.1 u).map fun u => (u, e.1))
          (fun e => execExtwaitExpiry e.1 e.2 s)

end Sys2Proof.Machine
end

