-- ==== Sys2Proof/Machine/System.lean ====
section
/-! DEFINITION. The system class at issue (16 R320–R328): the level check, the resolution of records, invalidations, calls of the
guest supervisor, commands to Saltern, row migration and armed flips. -/

namespace Sys2Proof.Machine

open Issue

/-- A system instruction does nothing where no lane executes (16 R320); the level it requires is checked at its issue (`Issue.denied`). -/
def whenAny (x : Issue) (go : Issue → Issue) : Issue := if x.ex.isEmpty then x else go x

/-! ### `ERET` (R321) -/

/-- The record that an address names: a slot of the guest sequence, or at level 2 of either, and in it the latest record. -/
def recordAt (x : Issue) (a : Nat) : Option (Option RecRef) :=
  let t := a / 2 ^ 50
  let off := a % 2 ^ 50
  if !(t == 8 || (t == 9 && x.lvl == 2)) || off % 1024 ≠ 0 || decide (Config.trapWindow ≤ off / 1024) then none
  else
    let slot := off / 1024
    let r := ((find t x.ctx.tables).getD {}).r
    if r ≤ slot then some none
    else some (some ⟨t, slot + (r - 1 - slot) / Config.trapWindow * Config.trapWindow⟩)

/-- STATE of a record (16 R315). -/
def State.recState (s : State) (ck : Nat) (r : RecRef) : Nat :=
  match s.recPlace ck r with | some (pa, tag) => (s.rdByte tag (pa + 40)).toNat % 4 | none => 3

/-- The address of a fragment's word in the save area of its node (16 R318). -/
def fragWordAt (n : Node) (w : Warp) (f va : Nat) : Nat :=
  va + (areaOffsets n).2.1 + w.idx * (0x900 + (n.desc.n + 16) * 128) + 0x540 + 8 * f

/-- Store an action for a fragment of a node whose area is written (16 R316). -/
def State.storeAction (s : State) (wk : Nat) (w : Warp) (n : Node) (g : Frag) (act : Action) : State :=
  let g := { g with action := some act, park := g.park.map fun p => { p with open_ := none } }
  let w := w.setFrag g
  let s := s.setWarp wk w
  match n.area with
  | some (va, ck) => if w.isSeq then s else s.wrVirt ck (fragWordAt n w g.id va) (leBytes 8 (fragWord w g.id))
  | none => s

/-- Resolve a record (R321, 18 R364): the device after it, and a node that is to be killed; none where it is resolved already, or
what it speaks of is gone. -/
def State.resolveBy (s : State) (ck : Nat) (r : RecRef) (act : Action) : Option (State × Option Nat) :=
  if s.recState ck r ≠ 0 then none
  else match s.recFrag ck r with
    | some (wk, w, g) =>
      match find w.node s.nodes with
      | none => none
      | some n =>
        let l := (find n.launch s.launches).getD { ctx := ck, id := 0 }
        let t := s.resolveRec ck r act
        if n.st == .saved || n.pre.elim false (fun p => p.written) then some (t.storeAction wk w n g act, none)
        else if w.isSeq && act != 1 then some (t.failFork w, none)
        else if act = 3 then some (t, some w.node)
        else some (t.setWarp wk (s.actFrag n.launch l w g act), none)
    | none =>
      (s.cmds.findSome? fun c => c.park.bind fun p => if c.ctx == ck && p.open_ == some r then some (c, p) else none).map fun e =>
        ((s.resolveRec ck r act).putCmd (e.1.act e.2 (s.clock e.1.unit) act), none)

/-- Work on the whole device, the issuing warp and its node put back, and take them out again. -/
def onDevice (x : Issue) (f : State → State) : Issue :=
  let s := f ((x.s.setWarp x.wk x.w).setNode x.nk x.n)
  { x with s := s, w := (find x.wk s.warps).getD x.w, n := (find x.nk s.nodes).getD x.n }

/-- One lane of an `ERET`: statuses 0 OK, 1 GONE, 2 BADREC. -/
def eretLane (x : Issue) (l : Nat) (act : Action) : Issue :=
  match recordAt x (x.val 1 l) with
  | none => x.set 0 l 2
  | some none => x.set 0 l 1
  | some (some r) =>
    match ((x.s.setWarp x.wk x.w).setNode x.nk x.n).resolveBy x.n.ctx r act with
    | none => x.set 0 l 1
    | some (t, gone) =>
      let x := onDevice x fun _ => t
      let x := x.set 0 l 0
      match gone with
      | none => x
      | some k => if k = x.nk then { x with kill := some (0x10, 0, 0) } else { x with s := x.s.killNode k 0x10 0 0 }

/-- The three actions of `ERET`. -/
def eret (x : Issue) (act : Action) : Issue := whenAny x fun x => x.ex.foldl (fun x l => eretLane x l act) x

/-- `ERET.RETRY` (R321). -/
def execEretRetry (f : SysF) (s : State) : Host.Outcome State Fault Refusal := s.issue (.eretRetry f) f.p fun x => eret x 1

/-- `ERET.SKIP` (R321). -/
def execEretSkip (f : SysF) (s : State) : Host.Outcome State Fault Refusal := s.issue (.eretSkip f) f.p fun x => eret x 2

/-- `ERET.KILL` (R321). -/
def execEretKill (f : SysF) (s : State) : Host.Outcome State Fault Refusal := s.issue (.eretKill f) f.p fun x => eret x 3

/-! ### Invalidations (R323, R324) -/

/-- The warp waits until every access that any party has translated for the context has been performed (R323), those that wait in the compare buffers of
REDUNDANT nodes among them. Walks read the tables
as they stand (log entry 23), so an invalidation has nothing to remove. -/
def drainCtx (x : Issue) : Issue :=
  let w := x.w
  { x with w := { w with drain := ((x.s.inFlight ++ (x.s.setNode x.nk x.n).buffered).filter fun r => r.ctx == x.n.ctx).map (·.id) } }

/-- `TLBI.CTX` (R323). -/
def execTlbiCtx (f : SysF) (s : State) : Host.Outcome State Fault Refusal := s.issue (.tlbiCtx f) f.p fun x => whenAny x drainCtx

/-- `TLBI.TBL` (R323). -/
def execTlbiTbl (f : SysF) (s : State) : Host.Outcome State Fault Refusal := s.issue (.tlbiTbl f) f.p fun x => whenAny x drainCtx

/-- `TLBI.VA` (R323). -/
def execTlbiVa (f : SysF) (s : State) : Host.Outcome State Fault Refusal := s.issue (.tlbiVa f) f.p fun x => whenAny x drainCtx

/-- `TLBI.S2` (R323). -/
def execTlbiS2 (f : SysF) (s : State) : Host.Outcome State Fault Refusal := s.issue (.tlbiS2 f) f.p fun x => whenAny x drainCtx

/-- A form of one line (R324): its address must stay in its table (09 R219). -/
def lineOp (x : Issue) (d : Int) : Issue :=
  match formAddr (x.val 1 x.elected) d with
  | none => x.trapLanes x.ex 3 0x23
  | some _ => drainCtx x

/-- `CINV.LINE` with a register displacement (R324): caches hold no value of their own here, so nothing but the order remains. -/
def execCinvLine8 (f : SysF) (s : State) : Host.Outcome State Fault Refusal :=
  s.issue (.cinvLine8 f) f.p fun x => whenAny x fun x => lineOp x (sxInt 32 (x.val 2 x.elected % 2 ^ 32))

/-- `CINV.LINE` with IMM32 (R324). -/
def execCinvLine12 (f : SysF) (s : State) : Host.Outcome State Fault Refusal :=
  s.issue (.cinvLine12 f) f.p fun x => whenAny x fun x => lineOp x f.imm.toInt

/-- `CINV.ALL` (R324). -/
def execCinvAll (f : SysF) (s : State) : Host.Outcome State Fault Refusal := s.issue (.cinvAll f) f.p fun x => whenAny x drainCtx

/-- `CWB.LINE` with a register displacement (R324). -/
def execCwbLine8 (f : SysF) (s : State) : Host.Outcome State Fault Refusal :=
  s.issue (.cwbLine8 f) f.p fun x => whenAny x fun x => lineOp x (sxInt 32 (x.val 2 x.elected % 2 ^ 32))

/-- `CWB.LINE` with IMM32 (R324). -/
def execCwbLine12 (f : SysF) (s : State) : Host.Outcome State Fault Refusal :=
  s.issue (.cwbLine12 f) f.p fun x => whenAny x fun x => lineOp x f.imm.toInt

/-- `CWB.ALL` (R324). -/
def execCwbAll (f : SysF) (s : State) : Host.Outcome State Fault Refusal := s.issue (.cwbAll f) f.p fun x => whenAny x drainCtx

/-! ### `GCALL` (R326) -/

/-- `GCALL` (R326): the executing lanes escalate with their arguments. -/
def execGcall (f : SysF) (s : State) : Host.Outcome State Fault Refusal :=
  s.issue (.gcall f) f.p fun x => if x.ex.isEmpty then x else { x with gcall := some (f.d, x.ex.map fun l => (l, x.val 1 l)) }

/-! ### Commands to Saltern (R322) -/

/-- Send a command to Saltern with its acceptance store (12 R287): it waits in no queue of the core. -/
def saltCommand (x : Issue) : Issue :=
  let a := x.val 1 x.elected
  let b := x.val 2 x.elected
  if badDone x then x.trapAct 2 1
  else sendCommand x false (a, leBytes 8 b) fun c => { c with started := true, a := a, b := b }

/-- `CTXS` (R322). -/
def execCtxs (f : SysF) (s : State) : Host.Outcome State Fault Refusal := s.issue (.ctxs f) f.p fun x => whenAny x saltCommand

/-- `CTXL` (R322). -/
def execCtxl (f : SysF) (s : State) : Host.Outcome State Fault Refusal := s.issue (.ctxl f) f.p fun x => whenAny x saltCommand

/-! ### `KMIG` (R327) -/

/-- `KMIG` (R327): the checks of R241, then a shard index of the map; the request goes to the rake units once, for every executing
lane's D. -/
def execKmig (f : SysF) (s : State) : Host.Outcome State Fault Refusal :=
  s.issue (.kmig f) f.p fun x => whenAny x fun x =>
    let t := x.val 1 x.elected / 2 ^ 50
    let key := x.val 2 x.elected
    let k := x.val 3 x.elected % 2 ^ 32
    match tabCheck x t (fun d => d.kind == 2 && d.shard != 0) with
    | some (c, b) => x.trapLanes x.ex c b
    | none =>
      let tb := tabAt x t
      if f.kw != tb.desc.k16 then x.trapLanes x.ex 8 4
      else if (x.s.shardMap x.n.ctx tb.desc.shard).elim true (fun m => decide (m.ents.length ≤ k)) then x.trapLanes x.ex 6 3
      else
        let ls := x.ex.map fun l => ({ lane := l, tbl := t, a := key, b := k } : TabLane)
        let c : Contrib := { lane := x.elected, parts := [(t * 2 ^ 50, leBytes (if f.kw then 16 else 8) key)] }
        let e : Emit := { lanes := x.ex, req := some (.table { instr := x.i, at_ := x.at_, lanes := ls }), contribs := [c],
                          pend := regsOf x.w.isSeq (x.opnd 0), suspend := true }
        { x with emits := x.emits ++ [e] }

/-! ### `INJ` (R328) -/

/-- The fields of a selector break R328, for a node with `n` low registers. -/
def badSelector (sel : Nat) (n : Option Nat) : Bool :=
  let reg := bitsAt sel 4 8
  bitsAt sel 32 32 != 0 || bitsAt sel 0 2 == 3 ||
    (match bitsAt sel 2 2 with
     | 0 => decide (240 ≤ reg) || (match n with | some n => decide (n ≤ reg) && decide (reg ≤ 223) | none => false)
     | 1 => reg == 0 || decide (64 ≤ reg)
     | 2 => reg != 0
     | _ => true)

/-- Arm a flip in a node (R328, 20 R394): the warp index must be one of the node, and the third copy must run. -/
def armFlip (x : Issue) (k : Nat) (n : Node) (sel : Nat) : Issue × Nat :=
  let wi := bitsAt sel 23 9
  let flip : Flip := { warp := wi, copy := bitsAt sel 0 2, sel := sel }
  if !n.desc.red then (x, 1)
  else if ceilDiv n.desc.l 32 ≤ wi then (x, 2)
  else if n.st == .running && !(n.pairs.any fun p => p.idx == wi && decide (flip.copy < p.copies.length)
      && (p.copies[flip.copy]?).elim false fun c => (find c.warp (insert x.wk x.w x.s.warps)).isSome) then (x, 2)
  else if n.st != .running && flip.copy == 2 then (x, 2)
  else if n.st == .saved && !(x.s.warps.any fun e => e.2.node == k && e.2.idx == wi && !e.2.isSeq) then (x, 2)
  else (onDevice x fun s => s.setNode k { n with flips := n.flips ++ [flip] }, 0)

/-- `INJ` (R328): statuses 0 armed, 1 NOTRED, 2 GONE. -/
def execInj (f : SysF) (s : State) : Host.Outcome State Fault Refusal :=
  s.issue (.inj f) f.p fun x => whenAny x fun x =>
    let sel := x.val 1 x.elected
    let nsel := x.val 2 x.elected
    let node := (x.s.setNode x.nk x.n).selNode x.n.ctx nsel
    if bitsAt nsel 16 16 != 0 || badSelector sel (node.map fun e => e.2.desc.n) then x.trapLanes x.ex 6 3
    else
      let (x, st) := match node with | none => (x, 2) | some (k, n) => armFlip x k n sel
      x.setAll 0 x.ex fun _ => st

end Sys2Proof.Machine
end

