-- ==== Sys2Proof/Machine/Faults.lean ====
section
/-! DEFINITION. Faults after their parking: the timed retry (18 R361), the escalation that waits for room (16 R314), what the SMC does
with a second-stage fault (18 R366, R373), and the move of a page (18 R372). -/

namespace Sys2Proof.Machine

open Issue

/-! ### Timed retries (R361) -/

/-- A parked lane of the fragment is there to retry. -/
def Warp.anyParked (w : Warp) (f : Nat) : Bool := (w.fragLanes f).any fun l => (w.lane l).st == .parked

/-- The retry of a fragment is due: its fault's timer, or that of an escalation that found its sequence full. -/
def Frag.retryDue (g : Frag) (w : Warp) (now : Nat) : Bool :=
  match g.esc, g.park with
  | some e, _ => e.ref.isNone && decide (e.due ≤ now)
  | none, some p => w.anyParked g.id && decide (p.due ≤ now)
  | none, none => false

/-- The warp's node runs and the warp has not stopped. -/
def State.warpRuns (s : State) (w : Warp) : Bool :=
  w.stop == .running && (find w.node s.nodes).elim false fun n => n.st == .running

/-- An escalation is tried again (16 R314). -/
def Issue.escalateAgain (x : Issue) (g : Frag) (e : Escalation) : Issue :=
  let x := { x with at_ := e.epc }
  let tbl := if x.lvl = 0 then 8 else 9
  let g' := match x.s.appendTrap x.n.ctx tbl (x.trapRec g.id (x.w.fragLanes g.id) e.cause e.sub e.epc e.dbl e.args) with
    | some (s, r) => (s, { e with ref := some r })
    | none => (x.s, { e with d := min (2 * e.d) x.ctx.parkceil, due := x.s.clock x.w.unit + min (2 * e.d) x.ctx.parkceil })
  { x with s := g'.1, w := x.w.setFrag { g with esc := some g'.2 } }

/-- `PARK_RETRY` (R361): the lanes of a parked fragment become Running at the faulting instruction, still its members. -/
def execParkRetry (r frag : Nat) (s : State) : Host.Outcome State Fault Refusal :=
  match find r s.warps with
  | none => .next s
  | some w =>
    match w.frag frag with
    | none => .next s
    | some g =>
      if !(s.warpRuns w && g.retryDue w (s.clock w.unit)) then .next s
      else match g.esc with
        | some e =>
          match s.replyIssue r .pad e.epc [] with
          | none => .next s
          | some x =>
            let x := x.escalateAgain g e
            .next (x.s.setWarp r x.w)
        | none =>
          let ls := w.fragLanes frag
          .next (s.setWarp r (w.onLanes (fun l => ls.contains l) fun y => if y.st = .parked then { y with st := .running } else y))

/-! ### Entries of the second stage -/

/-- Write an 8-byte entry of a second-stage table, as its walker reads it. -/
def State.wrEntry (s : State) (pa v : Nat) : State :=
  { s with mem := (leBytes 8 v).zipIdx.foldl (fun m e => memSet m (pa + e.2) e.1) s.mem }

/-- The address and level of the second-stage leaf entry of an IPA. -/
def State.leafEntry (s : State) (ipa : Nat) : Nat → Nat → Nat → Option (Nat × Nat)
  | 0, _, _ => none
  | fuel + 1, base, level =>
    let a := base + 8 * bitsAt ipa (levelShift level) (levelBits level)
    let p := Pte.ofNat (s.rdEntry a)
    if !p.v then none else if p.leaf then some (a, level) else s.leafEntry ipa fuel p.oa (level + 1)

/-- An entry with another output address; with RD, or without. -/
def entryAt (e oa : Nat) : Nat := e % 2 ^ 13 + oa / 2 ^ 13 * 2 ^ 13 % 2 ^ 52 + e / 2 ^ 52 * 2 ^ 52
def entryRd (e : Nat) (rd : Bool) : Nat := e - (if bitAt e 10 then 2 ^ 10 else 0) + (if rd then 2 ^ 10 else 0)
/-- A pointer to a table. -/
def pointerAt (oa : Nat) : Nat := 1 + oa / 2 ^ 13 * 2 ^ 13 % 2 ^ 52

/-- Write the eight equal entries of a 64 KiB page from the first of them on. -/
def State.wrGroup (s : State) (a e : Nat) : State := (List.range 8).foldl (fun (s : State) i => s.wrEntry (a + 8 * i) e) s

/-- The page of a collapse (R373): without RD, at this device's own copy, or at the one that another device owns. -/
def soleEntry (e : Nat) (owner : Option Nat) (size : Nat) : Nat := entryRd (owner.elim e fun o => entryAt e (o / size * size)) false

/-- A level-3 table that maps a region of 2 MiB in 64 KiB leaves of an entry `e` from `oa` on; the page of `ipa`, where it lies in the
region, goes to the owner's copy without RD. -/
def State.splitTable (s : State) (table e oa region ipa : Nat) (owner : Option Nat) : State :=
  (List.range 32).foldl (fun (s : State) g =>
    let leaf := (if bitAt e 3 then e else e + 8) % 2 ^ 13 + e / 2 ^ 52 * 2 ^ 52
    let e' := entryAt leaf (oa + g * 2 ^ 16)
    let here := region + g * 2 ^ 16 == ipa / 2 ^ 16 * 2 ^ 16
    s.wrGroup (table + 64 * g) (if here then soleEntry e' owner (2 ^ 16) else e')) s

/-- The collapse of a read-duplicate page (R373): its leaf is split into 64 KiB leaves, of which the one with the faulting byte maps the
owner's copy with RD = 0: the writer's device's own, so this device's for a writer of its own. `tables` are free pages: one for a 2 MiB leaf; for a 1 GiB
leaf one for its level 2 and 512 more. -/
def State.collapse (s : State) (root ipa : Nat) (owner : Option Nat) (tables : Nat) : State :=
  match s.leafEntry ipa 4 root 0 with
  | none => s
  | some (a, level) =>
    let e := s.rdEntry a
    let oa := (Pte.ofNat e).oa
    if level = 3 then
      if bitAt e 3 then s.wrGroup (a / 64 * 64) (soleEntry e owner (2 ^ 16)) else s.wrEntry a (soleEntry e owner (2 ^ 13))
    else if level = 2 then
      (s.splitTable tables e oa (ipa / 2 ^ 21 * 2 ^ 21) ipa owner).wrEntry a (pointerAt tables)
    else
      let base := ipa / 2 ^ 30 * 2 ^ 30
      let s := (List.range 512).foldl (fun (s : State) i =>
        let t := tables + 8192 * (i + 1)
        (s.splitTable t e (oa + i * 2 ^ 21) (base + i * 2 ^ 21) ipa owner).wrEntry (tables + 8 * i) (pointerAt t)) s
      s.wrEntry a (pointerAt tables)

/-! ### The SMC (R366) -/

/-- The record of the death of a node by the SMC (23 R430). -/
def State.noteKill (s : State) (nk code : Nat) : State :=
  match find nk s.nodes with
  | none => s
  | some n => s.smcEvent 6 code 0 (n.ctx % 2 ^ 16 + ((find n.launch s.launches).elim 0 fun l => l.id) * 2 ^ 16 + n.idx * 2 ^ 48)

/-- The SMC kills a node (R366; 19 R381). -/
def State.smcKill (s : State) (nk code : Nat) : State :=
  if (find nk s.nodes).elim true fun n => n.st.final then s else (s.killNode nk 0x12 code 0).noteKill nk code

/-- The context and fault of a target, where a second-stage fault, or a write to a read-duplicate page, holds it. -/
def State.faultOf (s : State) (t : FaultTarget) : Option (Nat × Park) :=
  let r : Option (Nat × Park) := match t with
    | .frag wk f => (find wk s.warps).bind fun w => (find w.node s.nodes).bind fun n => (w.frag f).bind fun g => g.park.map fun p => (n.ctx, p)
    | .command id => (s.cmds.find? fun (c : Cmd) => c.id == id).bind fun (c : Cmd) => c.park.map fun p => (c.ctx, p)
    | .page _ _ => none
  r.filter fun e => decide (0x18 ≤ e.2.fault.code)

/-- Forward a fault to the hypervisor (R366): its record goes to the hypervisor trap sequence. -/
def State.forwardFault (s : State) (t : FaultTarget) (p : Park) : State :=
  if p.open_.isSome then s
  else match t with
    | .frag wk f =>
      match s.replyIssue wk .pad 0 [] with
      | none => s
      | some x =>
        match x.w.frag f with
        | none => s
        | some g =>
          let ls := x.w.fragLanes f
          let epc := (ls.head?.map fun l => (x.w.lane l).pc).getD 0
          let r := if x.w.isSeq then x.trapRec 63 [] p.fault.code (faultSub p.fault true) epc false [(0, p.fault.va)]
            else x.trapRec f ls p.fault.code (faultSub p.fault false) epc false p.vas
          match s.appendTrap x.n.ctx 9 r with
          | none => s
          | some (s, ref) => s.setWarp wk (x.w.setFrag { g with park := some { p with open_ := some ref } })
    | .command id =>
      match s.cmds.find? fun c => c.id == id with
      | none => s
      | some c =>
        let r : TrapRec := { launchId := (find c.launch s.launches).elim 0 fun l => l.id, frag := 63, warp := c.widx,
                             node := (find c.node s.nodes).elim 0 fun n => n.idx, lanes := 0, epc := c.at_, from_ := c.lvl,
                             sub := faultSub p.fault true, cause := p.fault.code, args := [(0, p.fault.va), (1, c.doneVa)] }
        match s.appendTrap c.ctx 9 r with
        | none => s
        | some (s, ref) => s.putCmd { c with park := some { p with open_ := some ref } }
    | .page _ _ => s

/-- The node of a target is killed; its command has failed before (R366). -/
def State.killFor (s : State) (t : FaultTarget) (p : Park) : State :=
  match t with
  | .frag wk _ => match find wk s.warps with | some w => s.smcKill w.node p.fault.code | none => s
  | .command id =>
    match s.cmds.find? fun c => c.id == id with
    | none => s
    | some c => (((s.closePark c).putCmd { c with park := none, code := some (failCode p.fault) }).finishCmd id).smcKill c.node p.fault.code
  | .page _ _ => s

/-- This device gives up its replica of a read-duplicate page to another device, which is its owner (R373; log entry 105): the page is mapped there, where a
route leads to it. -/
def State.surrender (s : State) (ck ipa owner tables : Nat) : State :=
  let root := (s.ctx ck).s2root
  let dev := owner / 2 ^ 40
  match s.leafEntry ipa 4 root 0 with
  | some (a, _) => if (Pte.ofNat (s.rdEntry a)).rd && dev != s.settings.devid && s.routed dev then s.collapse root ipa (some owner) tables else s
  | none => s

/-- `SMC_FAULT_SERVICE` (R366): the SMC ends the matter of a second-stage fault or of a write to a read-duplicate page. -/
def execSmcFaultService (t : FaultTarget) (act : SmcAct) (s : State) : Host.Outcome State Fault Refusal :=
  match s.faultOf t with
  | none =>
    match t, act with
    | .page ck ipa, .surrender owner tables => .next (s.surrender ck ipa owner tables)
    | _, _ => .next s
  | some (ck, p) =>
    match act with
    | .repair es => .next (es.foldl (fun (s : State) e => s.wrEntry e.1 e.2.toNat) s)
    | .collapse tables => if p.fault.code = 0x1C then .next (s.collapse (s.ctx ck).s2root p.fault.ipa none tables) else .next s
    | .surrender _ _ => .next s
    | .forward => .next (s.forwardFault t p)
    | .kill => .next (s.killFor t p)

/-! ### Page movement (R372) -/

/-- An address of a page that moves. -/
def moved (src size dst pa : Nat) : Nat := if src ≤ pa ∧ pa < src + size then pa - src + dst else pa

/-- Move the entries of a map of a page to another. -/
def moveKeys {α : Type} (m : List (Nat × α)) (src size dst : Nat) : List (Nat × α) :=
  let here (e : Nat × α) : Bool := decide (src ≤ e.1) && decide (e.1 < src + size)
  (m.filter here).foldl (fun (m : List (Nat × α)) e => insert (e.1 - src + dst) e.2 m)
    (m.filter fun e => !here e && !(decide (dst ≤ e.1) && decide (e.1 < dst + size)))

/-- Something of the context still holds a translation (R372 step 2): a request on its way, a buffered one, or a command. -/
def State.holdsOld (s : State) (ck : Nat) : Bool :=
  s.inFlight.any (fun r => r.ctx == ck) || s.cmds.any (fun c => c.ctx == ck)
    || s.nodes.any fun e => e.2.ctx == ck && e.2.pairs.any fun p => p.copies.any fun c => !c.buf.isEmpty

/-- The homes of a page's combined pages, which its move keeps where the page has access counters (18 R356, R370). -/
def State.keepHomes (s : State) (p : Pte) (size pa : Nat) : List (Nat × Nat) :=
  let old := moveKeys s.homes p.oa size pa
  if p.ac then (List.range (size / 8192)).foldl (fun m i => insert (pa + i * 8192) (s.homeAgent (p.oa + i * 8192)) m) old else old

/-- The keys of a moved page's sectors: its contents go with them; what comes from the host window, which is not encrypted, is written under the key of its
leaf (23 R420). -/
def State.keepKeys (s : State) (p : Pte) (size pa : Nat) : List (Nat × Nat) :=
  if encrypted p.oa then moveKeys s.keys (p.oa / 32) (size / 32) (pa / 32)
  else (List.range (size / 32)).foldl (fun m i => put 0 (pa / 32 + i) (if encrypted pa then s.keyTag p.okey else 0) m) s.keys

/-- `PAGE_MOVE` (R372): once nothing holds the old translation, the page's contents, with their keys, poison, home and counts, go to
another physical address, and the leaf follows; counters of tasks and completion words in the page, those of a saved node's queue among them, are found
at the new place. -/
def execPageMove (ctx ipa pa : Nat) (s : State) : Host.Outcome State Fault Refusal :=
  match s.leafEntry ipa 4 (s.ctx ctx).s2root 0 with
  | none => .next s
  | some (a, level) =>
    let e := s.rdEntry a
    let p := Pte.ofNat e
    let bits := if level = 3 then (if p.s64 then 16 else 13) else levelShift level
    let size := 2 ^ bits
    if s.holdsOld ctx || pa % size ≠ 0 || pa == p.oa || s.absentPa pa || !s.routed (pa / 2 ^ 40) then .next s
    else
      let mv (q : Nat) : Nat := moved p.oa size pa q
      let task (t : Task) : Task := { t with counter := mv t.counter, home := t.home.map mv }
      let warp (w : Warp) : Warp := match w.role with | .task c tag home => { w with role := .task (mv c) tag (home.map mv) } | _ => w
      let node (n : Node) : Node := { n with savedCmds := n.savedCmds.map fun c => { c with donePa := mv c.donePa }
                                             savedTasks := n.savedTasks.map fun e => (e.1, task e.2) }
      let s : State := { s with
        mem := moveKeys s.mem p.oa size pa
        keys := s.keepKeys p size pa
        poison := s.poison.map fun q => match q with | .word w => .word (mv w) | .line b w => .line b (mv w) | q => q
        homes := s.keepHomes p size pa
        access := moveKeys s.access (p.oa * 128) (size * 128) (pa * 128)
        hints := s.hints.map fun h => { h with page := mv h.page }
        deques := s.deques.map fun (e : Nat × List Task) => (e.1, e.2.map task)
        warps := s.warps.map fun (e : Nat × Warp) => (e.1, warp e.2)
        nodes := s.nodes.map fun (e : Nat × Node) => (e.1, node e.2) }
      .next (if p.s64 then s.wrGroup (a / 64 * 64) (entryAt e pa) else s.wrEntry a (entryAt e pa))

/-- The first retry that is due. -/
def State.faultEvent (s : State) : Option (Host.Outcome State Fault Refusal) :=
  firstDue ((s.warps.filter fun e => s.warpRuns e.2).flatMap fun e => (e.2.frags.filter fun g => g.retryDue e.2 (s.clock e.2.unit)).map fun g => (e.1, g.id))
    fun e => execParkRetry e.1 e.2 s

end Sys2Proof.Machine
end

