-- ==== Sys2Proof/Machine/Integer.lean ====
section
/-! DEFINITION. The integer class: arithmetic, logic, shifts, bit fields, comparisons, moves, masks and lane exchange
(07 R178–R194). -/

namespace Sys2Proof.Machine

open Issue

/-- `IADD` (R181): register form. -/
def execIadd8 (f : IntF) (s : State) : Host.Outcome State Fault Refusal :=
  s.issue (.iadd8 f) f.p fun x => x.eachLane f.u x.ex fun l => fit f.ov (IntF.width f) (arithVal f.ov (IntF.width f) (x.intVal f 1 l) + arithVal f.ov (IntF.width f) (x.intVal f 2 l))

/-- `IADD` (R181): immediate form. -/
def execIadd12 (f : IntF) (s : State) : Host.Outcome State Fault Refusal :=
  s.issue (.iadd12 f) f.p fun x => x.eachLane f.u x.ex fun l => fit f.ov (IntF.width f) (arithVal f.ov (IntF.width f) (x.intVal f 1 l) + arithVal f.ov (IntF.width f) (immVal f))

/-- `ISUB` (R181): register form. -/
def execIsub8 (f : IntF) (s : State) : Host.Outcome State Fault Refusal :=
  s.issue (.isub8 f) f.p fun x => x.eachLane f.u x.ex fun l => fit f.ov (IntF.width f) (arithVal f.ov (IntF.width f) (x.intVal f 1 l) - arithVal f.ov (IntF.width f) (x.intVal f 2 l))

/-- `ISUB` (R181): immediate form. -/
def execIsub12 (f : IntF) (s : State) : Host.Outcome State Fault Refusal :=
  s.issue (.isub12 f) f.p fun x => x.eachLane f.u x.ex fun l => fit f.ov (IntF.width f) (arithVal f.ov (IntF.width f) (x.intVal f 1 l) - arithVal f.ov (IntF.width f) (immVal f))

/-- `IMUL` (R181): register form. -/
def execImul8 (f : IntF) (s : State) : Host.Outcome State Fault Refusal :=
  s.issue (.imul8 f) f.p fun x => x.eachLane f.u x.ex fun l => fit f.ov (IntF.width f) (arithVal f.ov (IntF.width f) (x.intVal f 1 l) * arithVal f.ov (IntF.width f) (x.intVal f 2 l))

/-- `IMUL` (R181): immediate form. -/
def execImul12 (f : IntF) (s : State) : Host.Outcome State Fault Refusal :=
  s.issue (.imul12 f) f.p fun x => x.eachLane f.u x.ex fun l => fit f.ov (IntF.width f) (arithVal f.ov (IntF.width f) (x.intVal f 1 l) * arithVal f.ov (IntF.width f) (immVal f))

/-- `IMULH` (R182): register form. -/
def execImulh8 (f : IntF) (s : State) : Host.Outcome State Fault Refusal :=
  s.issue (.imulh8 f) f.p fun x => x.eachLane f.u x.ex fun l => (mulHigh f.uns (IntF.width f) (x.intVal f 1 l) (x.intVal f 2 l), 0)

/-- `IMULH` (R182): immediate form. -/
def execImulh12 (f : IntF) (s : State) : Host.Outcome State Fault Refusal :=
  s.issue (.imulh12 f) f.p fun x => x.eachLane f.u x.ex fun l => (mulHigh f.uns (IntF.width f) (x.intVal f 1 l) (immVal f), 0)

/-- `IMAD` (R181). -/
def execImad (f : IntF) (s : State) : Host.Outcome State Fault Refusal :=
  s.issue (.imad f) f.p fun x => x.eachLane f.u x.ex fun l =>
    fit f.ov (IntF.width f) (arithVal f.ov (IntF.width f) (x.intVal f 1 l) * arithVal f.ov (IntF.width f) (x.intVal f 2 l) + arithVal f.ov (IntF.width f) (x.intVal f 3 l))

/-- `IDIV` (R182): register form. -/
def execIdiv8 (f : IntF) (s : State) : Host.Outcome State Fault Refusal :=
  s.issue (.idiv8 f) f.p fun x => x.eachLane f.u x.ex fun l => divQuot f.uns (IntF.width f) (x.intVal f 1 l) (x.intVal f 2 l)

/-- `IDIV` (R182): immediate form. -/
def execIdiv12 (f : IntF) (s : State) : Host.Outcome State Fault Refusal :=
  s.issue (.idiv12 f) f.p fun x => x.eachLane f.u x.ex fun l => divQuot f.uns (IntF.width f) (x.intVal f 1 l) (immVal f)

/-- `IDIV.REM` (R182): register form. -/
def execIdivRem8 (f : IntF) (s : State) : Host.Outcome State Fault Refusal :=
  s.issue (.idivRem8 f) f.p fun x => x.eachLane f.u x.ex fun l => divRem f.uns (IntF.width f) (x.intVal f 1 l) (x.intVal f 2 l)

/-- `IDIV.REM` (R182): immediate form. -/
def execIdivRem12 (f : IntF) (s : State) : Host.Outcome State Fault Refusal :=
  s.issue (.idivRem12 f) f.p fun x => x.eachLane f.u x.ex fun l => divRem f.uns (IntF.width f) (x.intVal f 1 l) (immVal f)

/-- `IMIN` (R183): register form. -/
def execImin8 (f : IntF) (s : State) : Host.Outcome State Fault Refusal :=
  s.issue (.imin8 f) f.p fun x => x.eachLane f.u x.ex fun l => (minOf f.uns (IntF.width f) (x.intVal f 1 l) (x.intVal f 2 l), 0)

/-- `IMIN` (R183): immediate form. -/
def execImin12 (f : IntF) (s : State) : Host.Outcome State Fault Refusal :=
  s.issue (.imin12 f) f.p fun x => x.eachLane f.u x.ex fun l => (minOf f.uns (IntF.width f) (x.intVal f 1 l) (immVal f), 0)

/-- `IMAX` (R183): register form. -/
def execImax8 (f : IntF) (s : State) : Host.Outcome State Fault Refusal :=
  s.issue (.imax8 f) f.p fun x => x.eachLane f.u x.ex fun l => (maxOf f.uns (IntF.width f) (x.intVal f 1 l) (x.intVal f 2 l), 0)

/-- `IMAX` (R183): immediate form. -/
def execImax12 (f : IntF) (s : State) : Host.Outcome State Fault Refusal :=
  s.issue (.imax12 f) f.p fun x => x.eachLane f.u x.ex fun l => (maxOf f.uns (IntF.width f) (x.intVal f 1 l) (immVal f), 0)

/-- `IABS` (R183). -/
def execIabs (f : IntF) (s : State) : Host.Outcome State Fault Refusal :=
  s.issue (.iabs f) f.p fun x => x.eachLane f.u x.ex fun l => absOf (f.ov == .sat) (IntF.width f) (x.intVal f 1 l)

/-- `SHL` (R184): register form. -/
def execShl8 (f : IntF) (s : State) : Host.Outcome State Fault Refusal :=
  s.issue (.shl8 f) f.p fun x => x.eachLane f.u x.ex fun l => (shiftL (IntF.width f) (x.intVal f 1 l) (x.narrowVal l), 0)

/-- `SHL` (R184): immediate form. -/
def execShl12 (f : IntF) (s : State) : Host.Outcome State Fault Refusal :=
  s.issue (.shl12 f) f.p fun x => x.eachLane f.u x.ex fun l => (shiftL (IntF.width f) (x.intVal f 1 l) f.imm.toNat, 0)

/-- `SHR` (R184): register form. -/
def execShr8 (f : IntF) (s : State) : Host.Outcome State Fault Refusal :=
  s.issue (.shr8 f) f.p fun x => x.eachLane f.u x.ex fun l => (shiftR (IntF.width f) (x.intVal f 1 l) (x.narrowVal l), 0)

/-- `SHR` (R184): immediate form. -/
def execShr12 (f : IntF) (s : State) : Host.Outcome State Fault Refusal :=
  s.issue (.shr12 f) f.p fun x => x.eachLane f.u x.ex fun l => (shiftR (IntF.width f) (x.intVal f 1 l) f.imm.toNat, 0)

/-- `SHR.SX` (R184): register form. -/
def execShrSx8 (f : IntF) (s : State) : Host.Outcome State Fault Refusal :=
  s.issue (.shrSx8 f) f.p fun x => x.eachLane f.u x.ex fun l => (shiftRA (IntF.width f) (x.intVal f 1 l) (x.narrowVal l), 0)

/-- `SHR.SX` (R184): immediate form. -/
def execShrSx12 (f : IntF) (s : State) : Host.Outcome State Fault Refusal :=
  s.issue (.shrSx12 f) f.p fun x => x.eachLane f.u x.ex fun l => (shiftRA (IntF.width f) (x.intVal f 1 l) f.imm.toNat, 0)

/-- `ROT` (R184): register form. -/
def execRot8 (f : IntF) (s : State) : Host.Outcome State Fault Refusal :=
  s.issue (.rot8 f) f.p fun x => x.eachLane f.u x.ex fun l => (rotL (IntF.width f) (x.intVal f 1 l) (x.narrowVal l), 0)

/-- `ROT` (R184): immediate form. -/
def execRot12 (f : IntF) (s : State) : Host.Outcome State Fault Refusal :=
  s.issue (.rot12 f) f.p fun x => x.eachLane f.u x.ex fun l => (rotL (IntF.width f) (x.intVal f 1 l) f.imm.toNat, 0)

/-- `BOOL` (R185), C reading 0: register form. -/
def execBool8 (f : IntF) (s : State) : Host.Outcome State Fault Refusal :=
  s.issue (.bool8 f) f.p fun x => x.eachLane f.u x.ex fun l => (boolFn f.fn (IntF.width f) (x.intVal f 1 l) (x.intVal f 2 l) 0, 0)

/-- `BOOL` (R185), C reading 0: immediate form. -/
def execBool12 (f : IntF) (s : State) : Host.Outcome State Fault Refusal :=
  s.issue (.bool12 f) f.p fun x => x.eachLane f.u x.ex fun l => (boolFn f.fn (IntF.width f) (x.intVal f 1 l) (immVal f) 0, 0)

/-- `BOOL` with three inputs (R185). -/
def execBool16 (f : IntF) (s : State) : Host.Outcome State Fault Refusal :=
  s.issue (.bool16 f) f.p fun x => x.eachLane f.u x.ex fun l => (boolFn f.fn (IntF.width f) (x.intVal f 1 l) (x.intVal f 2 l) (x.intVal f 3 l), 0)

/-- `POPC` (R186). -/
def execPopc (f : IntF) (s : State) : Host.Outcome State Fault Refusal :=
  s.issue (.popc f) f.p fun x => x.eachLane f.u x.ex fun l => (popCount (IntF.width f) (x.intVal f 1 l), 0)

/-- `CLZ` (R186). -/
def execClz (f : IntF) (s : State) : Host.Outcome State Fault Refusal :=
  s.issue (.clz f) f.p fun x => x.eachLane f.u x.ex fun l => (leadZeros (IntF.width f) (x.intVal f 1 l), 0)

/-- `BREV` (R186). -/
def execBrev (f : IntF) (s : State) : Host.Outcome State Fault Refusal :=
  s.issue (.brev f) f.p fun x => x.eachLane f.u x.ex fun l => (revBits (IntF.width f) (x.intVal f 1 l), 0)

/-- `BFX` (R186): register form. -/
def execBfx8 (f : IntF) (s : State) : Host.Outcome State Fault Refusal :=
  s.issue (.bfx8 f) f.p fun x => x.eachLane f.u x.ex fun l => (bitExtract f.uns (IntF.width f) (x.intVal f 1 l) (x.narrowVal l), 0)

/-- `BFX` (R186): immediate form. -/
def execBfx12 (f : IntF) (s : State) : Host.Outcome State Fault Refusal :=
  s.issue (.bfx12 f) f.p fun x => x.eachLane f.u x.ex fun l => (bitExtract f.uns (IntF.width f) (x.intVal f 1 l) f.imm.toNat, 0)

/-- `BFI` (R186). -/
def execBfi (f : IntF) (s : State) : Host.Outcome State Fault Refusal :=
  s.issue (.bfi f) f.p fun x => x.eachLane f.u x.ex fun l => (bitInsert (IntF.width f) (x.intVal f 1 l) (x.narrowVal l) (x.intVal f 3 l), 0)

/-- `ICMP` (R187): register form. -/
def execIcmp8 (f : IntF) (s : State) : Host.Outcome State Fault Refusal :=
  s.issue (.icmp8 f) f.p fun x => x.compareOut f.u f.d fun l => intCompare f.fn (IntF.width f) (x.intVal f 1 l) (x.intVal f 2 l)

/-- `ICMP` (R187): immediate form. -/
def execIcmp12 (f : IntF) (s : State) : Host.Outcome State Fault Refusal :=
  s.issue (.icmp12 f) f.p fun x => x.compareOut f.u f.d fun l => intCompare f.fn (IntF.width f) (x.intVal f 1 l) (immVal f)

/-- `SEL` (R187): every lane of the active path takes A where its predicate holds, else B; with U = 1 the
predicate of some lane decides once. -/
def execSel (f : IntF) (s : State) : Host.Outcome State Fault Refusal :=
  s.issue (.sel f) f.p fun x => x.eachLane f.u x.act fun l =>
    (if (if f.u then !x.ex.isEmpty else x.ex.contains l) then (x.intVal f 1 l) else (x.intVal f 2 l), 0)

/-- `MOV` (R188). -/
def execMov (f : IntF) (s : State) : Host.Outcome State Fault Refusal :=
  s.issue (.mov f) f.p fun x => x.eachLane f.u x.ex fun l => ((x.intVal f 1 l), 0)

/-- `MOVI` (R188). -/
def execMovi (f : IntF) (s : State) : Host.Outcome State Fault Refusal :=
  s.issue (.movi f) f.p fun x => x.eachLane f.u x.ex fun _ => (immVal f, 0)

/-- `MOVS` (R188): the low bits of `s`A in each executing lane. -/
def execMovs (f : IntF) (s : State) : Host.Outcome State Fault Refusal :=
  s.issue (.movs f) f.p fun x => x.eachLane false x.ex fun l => ((x.intVal f 1 l), 0)

/-- `MOVS.FIRST` (R188): A of the lowest executing lane into `s`D. -/
def execMovsFirst (f : IntF) (s : State) : Host.Outcome State Fault Refusal :=
  s.issue (.movsFirst f) f.p fun x => x.eachLane true x.ex fun l => ((x.intVal f 1 l), 0)

/-- `MSK.AND` (R188), once for the warp. -/
def execMskAnd (f : IntF) (s : State) : Host.Outcome State Fault Refusal :=
  s.issue (.mskAnd f) f.p fun x => if x.once then { x with w := x.w.setM f.d (x.w.mreg f.a &&& x.w.mreg f.b) } else x

/-- `MSK.OR` (R188), once for the warp. -/
def execMskOr (f : IntF) (s : State) : Host.Outcome State Fault Refusal :=
  s.issue (.mskOr f) f.p fun x => if x.once then { x with w := x.w.setM f.d (x.w.mreg f.a ||| x.w.mreg f.b) } else x

/-- `MSK.XOR` (R188), once for the warp. -/
def execMskXor (f : IntF) (s : State) : Host.Outcome State Fault Refusal :=
  s.issue (.mskXor f) f.p fun x => if x.once then { x with w := x.w.setM f.d (x.w.mreg f.a ^^^ x.w.mreg f.b) } else x

/-- `MSK.ANDN` (R188), once for the warp. -/
def execMskAndn (f : IntF) (s : State) : Host.Outcome State Fault Refusal :=
  s.issue (.mskAndn f) f.p fun x => if x.once then { x with w := x.w.setM f.d (x.w.mreg f.a &&& (2 ^ 32 - 1 - x.w.mreg f.b)) } else x

/-- `MSK.NOT` (R188), once for the warp. -/
def execMskNot (f : IntF) (s : State) : Host.Outcome State Fault Refusal :=
  s.issue (.mskNot f) f.p fun x => if x.once then { x with w := x.w.setM f.d (2 ^ 32 - 1 - x.w.mreg f.a) } else x

/-- `MSK.FROMS` (R188), once for the warp. -/
def execMskFroms (f : IntF) (s : State) : Host.Outcome State Fault Refusal :=
  s.issue (.mskFroms f) f.p fun x => if x.once then { x with w := x.w.setM f.d (x.w.sreg f.a % 2 ^ 32) } else x

/-- `MSK.PATH` (R188), once for the warp. -/
def execMskPath (f : IntF) (s : State) : Host.Outcome State Fault Refusal :=
  s.issue (.mskPath f) f.p fun x => if x.once then { x with w := x.w.setM f.d (maskOf x.ex) } else x

/-- `MSK.TOS` (R188), once for the warp. -/
def execMskTos (f : IntF) (s : State) : Host.Outcome State Fault Refusal :=
  s.issue (.mskTos f) f.p fun x => if x.once then { x with w := x.w.setS f.d (x.w.mreg f.a) } else x

/-- `MPOP` (R189): the members of `m`A below the lane. -/
def execMpop (f : IntF) (s : State) : Host.Outcome State Fault Refusal :=
  s.issue (.mpop f) f.p fun x => x.eachLane false x.ex fun l => (popCount l (x.w.mreg f.a), 0)

/-- `MPOP.TOT` (R189): the members of `m`A. -/
def execMpopTot (f : IntF) (s : State) : Host.Outcome State Fault Refusal :=
  s.issue (.mpopTot f) f.p fun x => x.eachLane false x.ex fun _ => (popCount 32 (x.w.mreg f.a), 0)

/-- A lane whose registers a lane exchange reads as 0 (07 R190). -/
def laneGone (x : Issue) (l : Nat) : Bool := (x.w.lane l).st == .exited || (x.w.lane l).st == .never

/-- `SHFL` (07 R190, R191): each executing lane reads A of the lane that `src` names from its lane operand; with VM the
source's validity goes to the lane's bit of `m`(VM-1). -/
def shuffle (x : Issue) (f : IntF) (b : Nat → Nat) (src : Nat → Nat → Nat) : Issue :=
  let from_ (l : Nat) : Nat := src l (b l)
  let y := x.eachLane false x.ex fun l => (if laneGone x (from_ l) then 0 else x.intVal f 1 (from_ l), 0)
  if f.x = 0 then y else y.setMaskBits (f.x - 1) x.ex fun l => !laneGone x (from_ l)

/-- The source lanes (07 R191). -/
def srcIdx (_ b : Nat) : Nat := b % 32
def srcUp (l b : Nat) : Nat := if 32 ≤ b ∨ l < b then l else l - b
def srcDown (l b : Nat) : Nat := if 32 ≤ b ∨ 31 < l + b then l else l + b
def srcXor (l b : Nat) : Nat := l ^^^ (b % 32)

/-- `SHFL.IDX` (R191): register operand. -/
def execShflIdx8 (f : IntF) (s : State) : Host.Outcome State Fault Refusal :=
  s.issue (.shflIdx8 f) f.p fun x => shuffle x f (fun l => x.narrowVal l) srcIdx

/-- `SHFL.IDX` (R191): immediate operand. -/
def execShflIdx12 (f : IntF) (s : State) : Host.Outcome State Fault Refusal :=
  s.issue (.shflIdx12 f) f.p fun x => shuffle x f (fun _ => f.imm.toNat) srcIdx

/-- `SHFL.UP` (R191): register operand. -/
def execShflUp8 (f : IntF) (s : State) : Host.Outcome State Fault Refusal :=
  s.issue (.shflUp8 f) f.p fun x => shuffle x f (fun l => x.narrowVal l) srcUp

/-- `SHFL.UP` (R191): immediate operand. -/
def execShflUp12 (f : IntF) (s : State) : Host.Outcome State Fault Refusal :=
  s.issue (.shflUp12 f) f.p fun x => shuffle x f (fun _ => f.imm.toNat) srcUp

/-- `SHFL.DOWN` (R191): register operand. -/
def execShflDown8 (f : IntF) (s : State) : Host.Outcome State Fault Refusal :=
  s.issue (.shflDown8 f) f.p fun x => shuffle x f (fun l => x.narrowVal l) srcDown

/-- `SHFL.DOWN` (R191): immediate operand. -/
def execShflDown12 (f : IntF) (s : State) : Host.Outcome State Fault Refusal :=
  s.issue (.shflDown12 f) f.p fun x => shuffle x f (fun _ => f.imm.toNat) srcDown

/-- `SHFL.XOR` (R191): register operand. -/
def execShflXor8 (f : IntF) (s : State) : Host.Outcome State Fault Refusal :=
  s.issue (.shflXor8 f) f.p fun x => shuffle x f (fun l => x.narrowVal l) srcXor

/-- `SHFL.XOR` (R191): immediate operand. -/
def execShflXor12 (f : IntF) (s : State) : Host.Outcome State Fault Refusal :=
  s.issue (.shflXor12 f) f.p fun x => shuffle x f (fun _ => f.imm.toNat) srcXor

/-- The executing lanes with A non-zero. -/
def nonZero (x : Issue) (f : IntF) : List Nat := x.ex.filter fun l => x.intVal f 1 l != 0
/-- Every executing lane holds the same A. -/
def allSame (x : Issue) (f : IntF) : Bool := x.ex.all fun l => x.intVal f 1 l == x.intVal f 1 x.lowest

/-- `VOTE.ALL` (R192), once for the warp. -/
def execVoteAll (f : IntF) (s : State) : Host.Outcome State Fault Refusal :=
  s.issue (.voteAll f) f.p fun x => if x.once then { x with w := x.w.setS f.d (flagNat ((nonZero x f).length == x.ex.length)) } else x

/-- `VOTE.ANY` (R192), once for the warp. -/
def execVoteAny (f : IntF) (s : State) : Host.Outcome State Fault Refusal :=
  s.issue (.voteAny f) f.p fun x => if x.once then { x with w := x.w.setS f.d (flagNat (!(nonZero x f).isEmpty)) } else x

/-- `VOTE.EQ` (R192), once for the warp. -/
def execVoteEq (f : IntF) (s : State) : Host.Outcome State Fault Refusal :=
  s.issue (.voteEq f) f.p fun x => if x.once then { x with w := x.w.setS f.d (flagNat (allSame x f)) } else x

/-- `VOTE.BALLOT` (R192), once for the warp. -/
def execVoteBallot (f : IntF) (s : State) : Host.Outcome State Fault Refusal :=
  s.issue (.voteBallot f) f.p fun x => if x.once then { x with w := x.w.setS f.d (maskOf (nonZero x f)) } else x

/-- `MATCH.ANY` (R193). -/
def execMatchAny (f : IntF) (s : State) : Host.Outcome State Fault Refusal :=
  s.issue (.matchAny f) f.p fun x => x.eachLane false x.ex fun l => (maskOf (x.ex.filter fun k => x.intVal f 1 k == x.intVal f 1 l), 0)

/-- `MATCH.ALL` (R193). -/
def execMatchAll (f : IntF) (s : State) : Host.Outcome State Fault Refusal :=
  s.issue (.matchAll f) f.p fun x => x.eachLane false x.ex fun _ => (if allSame x f then maskOf x.ex else 0, 0)

/-- The reduction of A over the executing lanes (07 R194). -/
def reduceLanes (x : Issue) (f : IntF) : Nat :=
  match x.ex with
  | [] => 0
  | l :: t => t.foldl (fun a k => reduceOp f.fn (IntF.width f) a (x.intVal f 1 k)) (x.intVal f 1 l)

/-- `REDW` (R194). -/
def execRedw (f : IntF) (s : State) : Host.Outcome State Fault Refusal :=
  s.issue (.redw f) f.p fun x => x.eachLane false x.ex fun _ => (reduceLanes x f, 0)

end Sys2Proof.Machine
end

