-- ==== Sys2Proof/Machine/Region.lean ====
section
/-! DEFINITION. The bounds of a redundant region (12 R303, 20 R395). In a node not marked REDUNDANT they do nothing. -/

namespace Sys2Proof.Machine

open Issue

/-- `RBEG` (R303): the region opens, and the copy takes its checkpoint as the instruction leaves it. -/
def execRbeg (f : EngF) (s : State) : Host.Outcome State Fault Refusal :=
  s.issueThen (.rbeg f) f.p (fun x =>
    if !x.red || !x.once then x
    else if x.inRegion then x.trapAct 0x0C 2
    else x.setCopy fun c => { c.fresh with open_ := true }) fun y t =>
    if y.red && y.once && y.traps.isEmpty then t.takeCkpt y.nk y.wk else t

/-- `RCHK` and `REND` in a copy: without a region they trap; otherwise the copies meet and compare, and `done` follows. -/
def regionEnd (i : Instr) (p : Pred) (k : Meet) (s : State) (done : Issue → State) : Host.Outcome State Fault Refusal :=
  let plain := s.issueThen i p (fun x => if x.red && x.once then x.trapAct 0x0C 3 else x) fun _ t => t
  match s.start i p with
  | none => plain
  | some x => if x.inRegion && x.once && !x.held then .next (s.meetAt x k done) else plain

/-- `RCHK` (R303): on agreement a new checkpoint is taken (`passPair`). -/
def execRchk (f : EngF) (s : State) : Host.Outcome State Fault Refusal := regionEnd (.rchk f) f.p .rchk s Issue.finish

/-- `REND` (R303): as `RCHK`, then the region is closed. -/
def execRend (f : EngF) (s : State) : Host.Outcome State Fault Refusal :=
  regionEnd (.rend f) f.p .rend s fun x => (x.setCopy fun c => { c with open_ := false }).finish

end Sys2Proof.Machine
end

