-- ==== Sys2Proof/Machine/Smc.lean ====
section
/-! DEFINITION. The SMC (23): its services (R428–R432), the attach protocol of the host (21 R398), reset and bring-up (R425, R426), heat
and power (R433), and uncorrectable errors (19 R375). -/

namespace Sys2Proof.Machine

open Issue

/-! ### Contexts and tables -/

/-- The SW half of a descriptor (06 R138). -/
def Desc.ofNat (b : Nat) : Desc :=
  { kind := bitsAt b 0 3, valid := bitAt b 3, rowlg := bitsAt b 4 5, k16 := bitAt b 9, uniq := bitAt b 10, scope := bitsAt b 11 1,
    pl := bitAt b 12, lcap := bitsAt b 13 7, home := bitsAt b 20 6, cap := bitsAt b 64 48, shard := bitsAt b 128 64,
    idxb := bitsAt b 192 64, sink := bitsAt b 256 32, win := bitsAt b 288 32, pool := bitsAt b 320 14, bmap := bitsAt b 384 64,
    rsvd := bitsAt b 26 38 != 0 || bitsAt b 112 16 != 0 || bitsAt b 334 50 != 0 || bitsAt b 448 64 != 0 }

/-- Install a descriptor under a table number of a context (06 R138): the table begins empty, a sequence with the blocks that it has
from the start (10 R307); what stood there gives its blocks back. -/
def State.installTable (s : State) (ck t : Nat) (d : Desc) : State :=
  let s := if (find t (s.ctx ck).tables).isSome then s.dropSeq ck t else s
  let s := s.setCtx ck ((s.ctx ck).setTable t { desc := d })
  let s := { s with poison := s.poison.filter fun p => p != .index ck t }
  if d.kind = 4 then s.allocBlocks ck t d.fixedBlocks else s

/-- A windowed sequence of a system table, and the two dense ones (16 R439, 17 R329, 21 R402); table 5 is as long as R139 allows. -/
def sysSeq (rowlg win : Nat) : Desc := { kind := 4, valid := true, rowlg := rowlg, scope := 1, win := win }
def saveDesc : Desc := { kind := 0, valid := true, rowlg := 16, cap := 2 ^ 34 }
def linkDesc : Desc := { kind := 0, valid := true, rowlg := 4, cap := 98304 }

/-- The system tables of a new context. The windows of tables 3 and 4 and the size of table 5 are the model's (log entry 24). -/
def State.sysTables (s : State) (ck : Nat) : State :=
  let s := [(3, sysSeq 6 1024), (4, sysSeq 6 1024), (5, saveDesc), (6, linkDesc), (8, sysSeq 10 Config.trapWindow),
    (9, sysSeq 10 Config.trapWindow)].foldl (fun (s : State) e => s.installTable ck e.1 e.2) s
  s.setCtx ck ((s.ctx ck).setTable 7 s.events)

/-! ### Services (R428) -/

/-- Who calls: the context, the level, and the world that judges the call. -/
structure Caller where
  ck : Nat
  lvl : Nat
  sec : Bool
  deriving DecidableEq, Repr

/-- What a service leaves: the device, the result, and the nodes that are killed. -/
structure SmcOut where
  s : State
  res : Nat
  kills : List Nat := []

abbrev Service := Caller → Nat → State → SmcOut

/-- Services below their level answer DENIED. -/
def serviceAt (lvl : Nat) (f : Service) : Service := fun c a s => if c.lvl < lvl then { s := s, res := 1 } else f c a s

/-- VERSION. -/
def svcVersion : Service := serviceAt 1 fun _ _ s => { s := s, res := s.smc.svn * 2 ^ 8 }

/-- The lowest owner key slot that no context has and the SMC does not retire. -/
def State.freeSlot (s : State) : Option Nat :=
  ((List.range 255).map (· + 1)).find? fun k => !(s.ctxs.any fun e => e.2.owner == k && !e.2.dead) && (find k s.retiring).isNone

/-- A new key in a slot (R421). -/
def State.newKey (s : State) (slot : Nat) : State :=
  { s with smc := { s.smc with keySlots := insert slot s.smc.keyGen s.smc.keySlots, keyGen := s.smc.keyGen + 1 } }

/-- What a request writes under a key it writes under another. -/
def ReqKind.retag (k : ReqKind) (old new : Nat) : ReqKind :=
  let tag (t : Nat) : Nat := if t = old then new else t
  match k with
  | .store t bs => .store (tag t) bs
  | .atomic a => .atomic { a with tag := tag a.tag, task := a.task.map fun t => { t with tag := tag t.tag } }
  | k => k

/-- What is under way under the old key of a slot goes on under its new one: lines are tagged with the slot, and what is written back after the
regeneration is encrypted under the key that is there then (R420, R422). -/
def State.retag (s : State) (old new : Nat) : State :=
  let tag (t : Nat) : Nat := if t = old then new else t
  let req (r : Req) : Req := { r with kind := r.kind.retag old new }
  let task (t : Task) : Task := { t with tag := tag t.tag }
  let cmd (c : Cmd) : Cmd := { c with doneTag := tag c.doneTag }
  let warp (w : Warp) : Warp := match w.role with | .task c t h => { w with role := .task c (tag t) h } | _ => w
  let copy (c : CopySt) : CopySt := { c with buf := c.buf.map fun e => (e.1, req e.2) }
  let pair (p : Pair) : Pair := { p with copies := p.copies.map copy }
  let node (n : Node) : Node := { n with
    pre := n.pre.map fun p => { p with doneTag := tag p.doneTag }, savedCmds := n.savedCmds.map cmd
    savedTasks := n.savedTasks.map fun e => (e.1, task e.2), pairs := n.pairs.map pair }
  { s with
    held := s.held.map req, atomQ := s.atomQ.map req, cmds := s.cmds.map cmd
    deques := s.deques.map fun (e : Nat × List Task) => (e.1, e.2.map task)
    warps := s.warps.map fun (e : Nat × Warp) => (e.1, warp e.2), nodes := s.nodes.map fun (e : Nat × Node) => (e.1, node e.2) }

/-- The key of a slot is regenerated. -/
def State.regenerate (s : State) (slot : Nat) : State :=
  let old := s.keyTag slot
  let t := { (s.newKey slot) with retiring := erase slot s.retiring }
  t.retag old (t.keyTag slot)

/-- Requests that write under a key of memory. -/
def Req.under (r : Req) (tag : Nat) : Bool :=
  match r.kind with | .store t _ => t == tag | .atomic a => a.tag == tag | .table _ => true

/-- The slot is retired (R422): its lines are written back as `CWB.ALL` does, and its key is regenerated once what is under way under it has been
performed. -/
def State.retireSlot (s : State) (slot : Nat) : State :=
  let ids := ((s.inFlight ++ s.buffered).filter fun r => r.under (s.keyTag slot)).map (·.id)
  if ids.isEmpty then s.regenerate slot else { s with retiring := insert slot ids s.retiring }

/-- A slot whose write-backs are done. -/
def State.slotDue (s : State) (e : Nat × List Nat) : Bool := !(s.inFlight ++ s.buffered).any fun r => e.2.contains r.id

/-- Bytes as the SMC reads them by their physical address. -/
def State.smcRead (s : State) (pa n : Nat) : Nat := ofLe ((List.range n).map fun i => memGet s.mem (pa + i))

/-- The lowest context number above every one in use. -/
def State.nextCtx (s : State) : Nat := (s.ctxs.map (·.1)).foldl max 0 + 1

/-- CTXCREATE (18 R351). -/
def svcCtxcreate : Service := serviceAt 2 fun c pa s =>
  let b := s.smcRead pa 64
  let sec := bitAt b 128
  let s2 := bitsAt b 64 64
  let s1 := bitsAt b 0 64
  if bitsAt b 129 383 ≠ 0 then { s := s, res := 2 }
  else if (sec && !c.sec) || s.smc.stage ≠ 6 then { s := s, res := 1 }
  else if s2 % 8192 ≠ 0 || s1 % 131072 ≠ 0 || 2 ^ 50 ≤ s1 || 2 ^ 16 ≤ s.nextCtx then { s := s, res := 2 }
  else match s.freeSlot with
    | none => { s := s, res := 2 }
    | some slot =>
      let k := s.nextCtx
      let s := (s.newKey slot).setCtx k { s1root := s1, s2root := s2, sec := sec, owner := slot }
      { s := s.sysTables k, res := k * 2 ^ 8 + slot * 2 ^ 24 }

/-- CTXDESTROY: the context's nodes are killed, its key is retired, and its number names nothing any more. -/
def svcCtxdestroy : Service := serviceAt 2 fun _ k s =>
  match find k s.ctxs with
  | none => { s := s, res := 2 }
  | some c =>
    if c.dead then { s := s, res := 2 }
    else
      let kills := (s.nodes.filter fun e => e.2.ctx == k && !e.2.st.final).map (·.1)
      let s := ((c.tables.map (·.1)).filter fun t => t != 7).foldl (fun (s : State) t => s.dropSeq k t) s
      let s := (s.retireSlot c.owner).setCtx k { sec := c.sec, owner := c.owner, dead := true }
      { s := s, res := 0, kills := kills }

/-- KEYRETIRE (R421, R422). -/
def svcKeyretire : Service := serviceAt 2 fun _ k s => if k = 0 ∨ 255 < k then { s := s, res := 2 } else { s := s.retireSlot k, res := 0 }

/-- The block number is one of R431. -/
def blockOk (b : Nat) : Bool :=
  decide (b < 2 ^ 16) && decide (b % 4096 < ([768, 96, 64, 8, 128, 1, 24, 4] : List Nat).getD (b / 4096) 0)

/-- ECCCOUNT (19 R374): errors that were corrected since the last count show in it as a free number (log entry 74). -/
def svcEcccount : Service := serviceAt 1 fun _ b s =>
  if !blockOk b then { s := s, res := 2 }
  else
    let e := (find b s.ecc).getD (0, 0)
    let n := e.1 + Config.correctedErrors s.fresh
    { s := { s with ecc := insert b (n, e.2) s.ecc, fresh := s.fresh + 1 }, res := n % 2 ^ 32 * 2 ^ 8 + e.2 % 2 ^ 24 * 2 ^ 40 }

/-- The caller's access to memory of its context: its pieces, none where it fails. -/
def State.smcAccess (s : State) (c : Caller) (write : Bool) (va n : Nat) : Option (List Piece) :=
  match s.checkAccess c.ck none c.lvl { write := write, onlyN := true } va n with | .ok ps => some ps | _ => none

/-- A pair that comes before another in the output of LOOKUPS (R432): key, device, count. -/
def lookupBefore (a b : Nat × Nat × Nat) : Bool :=
  decide (b.2.2 < a.2.2) || (a.2.2 == b.2.2 && (decide (a.1 < b.1) || (a.1 == b.1 && decide (a.2.1 < b.2.1))))

def lookupInsert (e : Nat × Nat × Nat) : List (Nat × Nat × Nat) → List (Nat × Nat × Nat)
  | [] => [e]
  | f :: t => if lookupBefore e f then e :: f :: t else f :: lookupInsert e t

/-- The output of LOOKUPS (R432). -/
def lookupOut (es : List (Nat × Nat × Nat)) (cap : Nat) : List Byte :=
  let es := es.foldl (fun l e => lookupInsert e l) []
  leBytes 8 es.length ++ leBytes 4 (min es.length cap) ++ leBytes 4 0
    ++ (es.take cap).flatMap fun e => leBytes 16 e.1 ++ leBytes 2 e.2.1 ++ leBytes 2 0 ++ leBytes 4 (min e.2.2 (2 ^ 32 - 1)) ++ leBytes 8 0

/-- The counts of a shard that another device holds are free (log entry 68): as many, and of these keys and devices. -/
def State.farCounts (s : State) : State × List (Nat × Nat × Nat) :=
  let v (i : Nat) : Nat := Config.freeValue (s.fresh + i)
  let n := v 0 % 65537
  ({ s with fresh := s.fresh + 1 + 3 * n }, (List.range n).map fun i => (v (3 * i + 1) % 2 ^ 128, v (3 * i + 2) % 4096, v (3 * i + 3)))

/-- LOOKUPS (R432). -/
def svcLookups : Service := serviceAt 2 fun c a s =>
  let bad : SmcOut := { s := s, res := 2 }
  match s.smcAccess c false a 64 with
  | none => bad
  | some ps =>
    let b := ofLe (s.rdPieces ps)
    let cap := bitsAt b 224 32
    let outa := bitsAt b 128 64
    let t := bitsAt b 50 14
    match (s.ctx c.ck).table t with
    | none => bad
    | some tb =>
      match (if tb.desc.kind = 2 ∧ tb.desc.shard ≠ 0 then s.shardMap c.ck tb.desc.shard else none) with
      | none => bad
      | some m =>
        let shard := s.shardTable (m.ents.getD (bitsAt b 64 12) ⟨0, 0, 0, false⟩)
        if bitsAt b 257 255 != 0 || bitsAt b 192 32 != 0 || bitsAt b 76 52 != 0 || cap == 0 || decide (65536 < cap) || outa % 16 != 0
            || bitsAt b 0 50 != 0 || decide (m.ents.length ≤ bitsAt b 64 12) || !m.ok 2 then bad
        else
          let (s, es) := if s.away c.ck shard then s.farCounts else (s, (s.tableOf c.ck shard).lookups)
          let out := lookupOut es cap
          match s.smcAccess c true outa out.length with
          | none => bad
          | some qs =>
            let s := s.wrPieces qs out
            { s := if bitAt b 256 then s.updTable c.ck shard fun t => { t with lookups := [] } else s, res := 0 }

/-- A setting by its number (R427), and its limits. -/
def Settings.get (t : Settings) : Nat → Option Nat
  | 0 => some t.repstep | 1 => some t.starve | 2 => some t.acth | 3 => some t.rslack | 4 => some t.devid | _ => none

/-- SETGET. -/
def svcSetget : Service := serviceAt 1 fun _ k s =>
  match s.settings.get k with | some v => { s := s, res := v * 2 ^ 8 } | none => { s := s, res := 2 }

/-- Write a setting within its limits (R427). -/
def Settings.set (t : Settings) (k v : Nat) : Option Settings :=
  match k with
  | 0 => if 1 ≤ v ∧ v ≤ 255 then some { t with repstep := v } else none
  | 1 => if 1024 ≤ v ∧ v ≤ 2 ^ 24 then some { t with starve := v } else none
  | 2 => if 1 ≤ v ∧ v ≤ 65535 then some { t with acth := v } else none
  | 3 => if 64 ≤ v ∧ v ≤ 1024 then some { t with rslack := v } else none
  | _ => none

/-- SETPUT. -/
def svcSetput : Service := serviceAt 2 fun _ a s =>
  match s.settings.set (bitsAt a 48 16) (bitsAt a 0 48) with
  | some t => { s := { s with settings := t }, res := 0 }
  | none => { s := s, res := 2 }

/-- Exactly `n` bytes of a list, zeros where it ends. -/
def fixBytes (n : Nat) (bs : List Byte) : List Byte := (bs ++ List.replicate n 0).take n

/-- The report of ATTEST up to its signature (R429). -/
def State.report (s : State) (c : Caller) (nonce : List Byte) : List Byte :=
  nonce ++ leBytes 8 (s.settings.devid + c.ck % 2 ^ 16 * 2 ^ 16 + (s.ctx c.ck).owner * 2 ^ 32)
    ++ ((List.range 4).flatMap fun k => fixBytes 64 (s.smc.measurements.getD k []))
    ++ fixBytes 64 (Config.digest ((List.range 5).flatMap fun k => leBytes 8 ((s.settings.get k).getD 0)))

/-- ATTEST (R429). -/
def svcAttest : Service := serviceAt 1 fun c a s =>
  match s.smcAccess c false a 32, s.smcAccess c true ((a + 32) % 2 ^ 64) 3669 with
  | some ps, some qs =>
    let r := s.report c (s.rdPieces ps)
    { s := s.wrPieces qs (r ++ fixBytes 3309 (Config.signBytes r)), res := 0 }
  | _, _ => { s := s, res := 2 }

/-- ATTKEY (R429). -/
def svcAttkey : Service := serviceAt 1 fun c a s =>
  match (if a % 16 = 0 then s.smcAccess c true a 5376 else none) with
  | some qs =>
    let bs := fixBytes 1952 (Config.keyBytes 0) ++ fixBytes 8 (Config.keyBytes 1) ++ fixBytes 3309 (Config.keyBytes 2) ++ List.replicate 107 0
    { s := s.wrPieces qs bs, res := 0 }
  | none => { s := s, res := 2 }

/-- POWERCAP (R433): clocks follow it, which is timing only. -/
def svcPowercap : Service := serviceAt 2 fun _ w s =>
  if w < 400 ∨ Config.packageWatts < w then { s := s, res := 2 } else { s := { s with smc := { s.smc with powercap := w } }, res := 0 }

/-- THERMAL (R433). -/
def svcThermal : Service := serviceAt 1 fun _ _ s => { s := s, res := s.smc.temp % 256 * 2 ^ 8 + s.smc.throttle % 256 * 2 ^ 16 }

/-- The service of a number (R428). -/
def serviceOf : Nat → Service
  | 0x0001 => svcVersion
  | 0x0010 => svcCtxcreate
  | 0x0011 => svcCtxdestroy
  | 0x0012 => svcKeyretire
  | 0x0020 => svcEcccount
  | 0x0021 => svcLookups
  | 0x0030 => svcSetget
  | 0x0031 => svcSetput
  | 0x0040 => svcAttest
  | 0x0041 => svcAttkey
  | 0x0050 => svcPowercap
  | 0x0051 => svcThermal
  | _ => fun _ _ s => { s := s, res := 2 ^ 64 - 1 }

/-! ### `SMCALL` (16 R325) -/

/-- An issue of `SMCALL` for a service: the result goes to D of every executing lane, and the warp goes on once a slot that is retired has its new key. -/
def callService (x : Issue) (f : Service) : Issue :=
  whenAny x fun x =>
    let c : Caller := { ck := x.n.ctx, lvl := x.lvl, sec := x.ctx.sec }
    let o := f c (x.val 2 x.elected) ((x.s.setWarp x.wk x.w).setNode x.nk x.n)
    let x := onDevice x fun _ => o.s
    let w := x.w
    let x := { x with w := { w with drain := w.drain ++ x.s.retiring.flatMap fun (e : Nat × List Nat) => e.2 } }
    let x := { x with s := (o.kills.filter fun k => k != x.nk).foldl (fun (s : State) k => s.killNode k 0x10 0 0) x.s,
                      kill := if o.kills.contains x.nk then some (0x10, 0, 0) else x.kill }
    x.setAll 0 x.ex fun _ => o.res

/-- `SMCALL` (16 R325): the service number stands in bits 15:0 of the pair A. -/
def execSmcall (f : SysF) (s : State) : Host.Outcome State Fault Refusal :=
  s.issue (.smcall f) f.p fun x => callService x (serviceOf (x.val 1 x.elected % 2 ^ 16))

/-- VERSION (R428), as an `SMCALL` whose operand A names it. -/
def execVersion (f : SysF) (s : State) : Host.Outcome State Fault Refusal := s.issue (.smcall f) f.p fun x => callService x svcVersion
/-- CTXCREATE (R428). -/
def execCtxcreate (f : SysF) (s : State) : Host.Outcome State Fault Refusal := s.issue (.smcall f) f.p fun x => callService x svcCtxcreate
/-- CTXDESTROY (R428). -/
def execCtxdestroy (f : SysF) (s : State) : Host.Outcome State Fault Refusal := s.issue (.smcall f) f.p fun x => callService x svcCtxdestroy
/-- KEYRETIRE (R428). -/
def execKeyretire (f : SysF) (s : State) : Host.Outcome State Fault Refusal := s.issue (.smcall f) f.p fun x => callService x svcKeyretire
/-- ECCCOUNT (R428). -/
def execEcccount (f : SysF) (s : State) : Host.Outcome State Fault Refusal := s.issue (.smcall f) f.p fun x => callService x svcEcccount
/-- LOOKUPS (R428). -/
def execLookups (f : SysF) (s : State) : Host.Outcome State Fault Refusal := s.issue (.smcall f) f.p fun x => callService x svcLookups
/-- SETGET (R428). -/
def execSetget (f : SysF) (s : State) : Host.Outcome State Fault Refusal := s.issue (.smcall f) f.p fun x => callService x svcSetget
/-- SETPUT (R428). -/
def execSetput (f : SysF) (s : State) : Host.Outcome State Fault Refusal := s.issue (.smcall f) f.p fun x => callService x svcSetput
/-- ATTEST (R428). -/
def execAttest (f : SysF) (s : State) : Host.Outcome State Fault Refusal := s.issue (.smcall f) f.p fun x => callService x svcAttest
/-- ATTKEY (R428). -/
def execAttkey (f : SysF) (s : State) : Host.Outcome State Fault Refusal := s.issue (.smcall f) f.p fun x => callService x svcAttkey
/-- POWERCAP (R428). -/
def execPowercap (f : SysF) (s : State) : Host.Outcome State Fault Refusal := s.issue (.smcall f) f.p fun x => callService x svcPowercap
/-- THERMAL (R428). -/
def execThermal (f : SysF) (s : State) : Host.Outcome State Fault Refusal := s.issue (.smcall f) f.p fun x => callService x svcThermal

/-! ### Requests of the host (21 R398) -/

/-- The checks of a host access (21 R398; 16 R310): those of its context at level 2, but for the world, which is that of the host
attachment. -/
def State.hostCheck (s : State) (ck : Nat) (write : Bool) (va n : Nat) : Checked :=
  (s.setCtx ck { s.ctx ck with sec := s.smc.hostSec }).checkAccess ck none 2 { write := write } va n

/-- The host performs one request of a queue; its accesses are performed in the order of submission. -/
def State.hostPerform (s : State) (q : HostReq) : State :=
  let out := s.reply q.queue
  match q.op with
  | .read va n =>
    match s.hostCheck q.ctx false va n with
    | .ok ps => if s.badPieces ps then out 1 [] else out 0 (s.rdPieces ps)
    | e => out (checkedCode e) []
  | .write va bs =>
    if va / 2 ^ 50 = 2 then
      let t := va % 2 ^ 50 / 128
      if va % 128 = 0 ∧ bs.length = 64 ∧ 16 ≤ t ∧ t < 2 ^ 14 then (s.installTable q.ctx t (Desc.ofNat (ofLe bs))).reply q.queue 0 []
      else out (3 + 0x26 * 256) []
    else match s.hostCheck q.ctx true va bs.length with
      | .ok ps => (s.wrPieces ps bs).reply q.queue 0 []
      | e => out (checkedCode e) []
  | .reserve t n =>
    let d := (s.tableOf q.ctx t).desc
    if !((s.ctx q.ctx).table t).isSome || !(s.ctx q.ctx).descOk d || d.kind ≠ 4 || d.pl || t < 3 || t == 7 then out (8 + 3 * 256) []
    else if !countOk n then out (7 + 5 * 256) []
    else match s.reserveSeq q.ctx 0 t n with
      | (s, some p) => s.reply q.queue 0 (leBytes 8 p)
      | (s, none) => s.reply q.queue 4 []
  | .commit t p n =>
    let d := (s.tableOf q.ctx t).desc
    if !((s.ctx q.ctx).table t).isSome || d.kind ≠ 4 || t < 3 || t == 7 then out (8 + 3 * 256) []
    else if !countOk n then out (7 + 5 * 256) []
    else match s.opMark q.ctx .committed { lane := 0, tbl := t, a := p, b := n } with
      | (s, o) => match o.trap with
        | some (c, b) => s.reply q.queue (c + b * 256) []
        | none => (s.noteSubmit q.ctx t p n 2).reply q.queue 0 []
  | .smc svc a =>
    let o := serviceOf svc { ck := q.ctx, lvl := 2, sec := s.smc.hostSec } a s
    (o.kills.foldl (fun (s : State) k => s.killNode k 0x10 0 0) o.s).reply q.queue 0 (leBytes 8 o.res)

/-- `HOST_REQUEST` (21 R398): a request of 1 to 64 bytes, of one of 16 queues; it is taken once the device is ready. A request in a
context that does not exist fails in its reply; a service needs none. -/
def execHostRequest (q : HostReq) (s : State) : Host.Outcome State Fault Refusal :=
  let size : Nat := match q.op with | .read _ n => n | .write _ bs => bs.length | _ => 1
  let smc : Bool := match q.op with | .smc _ _ => true | _ => false
  if s.smc.stage ≠ 6 || s.smc.off || 16 ≤ q.queue || size == 0 || decide (64 < size) then .next s
  else if !smc && (find q.ctx s.ctxs).elim true (fun c => c.dead) then .next (s.reply q.queue (8 + 3 * 256) [])
  else .next (s.hostPerform q)

/-! ### Bring-up (R425, R426) -/

/-- Bytes `a … a+n-1` of an image. -/
def sliceOf (bs : List Byte) (a n : Nat) : List Byte := (bs.drop a).take n

/-- The body of an image. -/
def imageBody (bs : List Byte) : List Byte := sliceOf bs 5632 (ofLe (sliceOf bs 8 4))

/-- An image is accepted as one of a stage (R425). -/
def imageOk (stage : Nat) (bs : List Byte) : Bool :=
  let len := ofLe (sliceOf bs 8 4)
  let pk := sliceOf bs 128 1952
  ofLe (sliceOf bs 0 4) == 0x4D465853 && decide (1 ≤ len) && decide (len ≤ 2 ^ 24) && decide (5632 + len ≤ bs.length)
    && (sliceOf bs 12 52).all (fun b => b == 0) && (sliceOf bs 5389 243).all (fun b => b == 0)
    && Config.digest pk == Config.fusedHash && decide (Config.fusedSvn ≤ ofLe (sliceOf bs 6 2))
    && Config.digest (imageBody bs) == sliceOf bs 64 64 && Config.verifies pk (sliceOf bs 0 128) (sliceOf bs 2080 3309)
    && ofLe (sliceOf bs 4 2) == stage

/-- The measurement of an image (R426). -/
def measure (bs : List Byte) : List Byte := Config.digest (bs.take (5632 + ofLe (sliceOf bs 8 4)))

/-- The state from which a device starts (R426): what it is fed, and the model's own counters, go on. -/
def State.fromReset (s : State) : State := { State.reset with inputs := s.inputs, late := s.late, fresh := s.fresh }

/-- The event sequence of the SMC (R430). -/
def State.makeEvents (s : State) : State :=
  let d := sysSeq 6 4096
  d.fixedBlocks.foldl (fun (s : State) b =>
    let (s, id) := s.newBlock 7 b
    let t := s.events
    { s with events := { t with blocks := insert b id t.blocks } }) { s with events := { desc := d } }

/-- Stage 3 (R426): the stacks that fail are retired, the event sequence is placed by the new numbers (15 R307), and each retirement has its record. -/
def State.retireStacks (s : State) (bad : List Nat) : State :=
  let u := ({ s with smc := { s.smc with stacksOut := s.smc.stacksOut ++ bad } } : State).makeEvents
  bad.zipIdx.foldl (fun (s : State) e => s.smcEvent 2 (7 - e.2) (blockNo 3 e.1) 0) u

/-- `RESET` (R426): the stages in order; where one fails the device stops with the stage it had come to. Where ports come up in stage 5, by `LINK_UP`, the
stage ends once the table is settled. -/
def execReset (b : BootInput) (s : State) : Host.Outcome State Fault Refusal :=
  let s := s.fromReset
  if !imageOk 0 b.smcImage then .next s
  else
    let s := { s with smc := { s.smc with stage := 1, svn := ofLe (sliceOf b.smcImage 6 2), measurements := [measure b.smcImage] } }
    let pick (k : Nat) : Option (List Byte) := b.images.find? fun i => ofLe (sliceOf i 4 2) == k
    match pick 1, pick 2, pick 3 with
    | some i1, some i2, some i3 =>
      if !(imageOk 1 i1 && imageOk 2 i2 && imageOk 3 i3) then .next s
      else
        let s := { s with smc := { s.smc with stage := 2, measurements := [b.smcImage, i1, i2, i3].map measure } }
        let bad := (List.range 8).filter b.badStacks.contains
        if bad.length = 8 then .next s
        else
          let s := s.retireStacks bad
          let s := { s with smc := { s.smc with stage := 3 } }
          if !b.stage4 then .next s
          else .next { s with settings := { s.settings with devid := b.devid % 4096 }
                              world := b.worlds.foldl (fun (m : List (Nat × Bool)) e => put true e.1 e.2 m) []
                              smc := { s.smc with stage := if b.links then 5 else 6, hostSec := b.hostSec } }
    | _, _, _ => .next s

/-! ### Heat and power (R433) -/

/-- Power is removed and all state is lost (R433). -/
def State.powerOff (s : State) : State :=
  let t := s.fromReset
  { t with smc := { t.smc with off := true } }

/-- `THROTTLE_CHANGE` (R433): clocks change, which is timing only; a new throttle state has its record. At 115 °C power is removed. -/
def execThrottleChange (st temp : Nat) (s : State) : Host.Outcome State Fault Refusal :=
  if 115 ≤ temp then .next s.powerOff
  else
    let old := s.smc.throttle
    let s := { s with smc := { s.smc with throttle := st % 256, temp := temp % 256 } }
    .next (if old = st % 256 then s else s.smcEvent 5 (st % 256) 0 (temp % 256))

/-- `THERMAL_TRIP` (R433): at 115 °C power is removed and all state is lost. -/
def execThermalTrip (temp : Nat) (s : State) : Host.Outcome State Fault Refusal := if temp < 115 then .next s else .next s.powerOff

/-! ### Uncorrectable errors (19 R374, R375) -/

/-- The block of a place (R431), and its physical address where it has one; none where it is no storage of this device. -/
def State.poisonBlock (s : State) (p : PoisonLoc) : Option (Nat × Nat) :=
  match p with
  | .word pa => if s.ownPa pa 1 && encrypted pa then some (blockNo 3 (pa % 2 ^ 40 / 0x1800000000), pa / 32 * 32) else none
  | .scratch u _ => if u < Config.units then some (s.unitBlock u, 0) else none
  | .index ck t => ((s.ctx ck).table t).map fun tb => (blockNo 2 tb.desc.home, 0)
  | .reg w _ _ _ => (find w s.warps).map fun w => (s.unitBlock w.unit, 0)
  | .tile nk core _ _ => (find nk s.nodes).bind fun n => (n.units[core]?).map fun u => (s.unitBlock u, 0)
  | .line b pa => if blockOk b && (decide (b < 4096) || isSlice b) then some (b, pa / 16 * 16) else none
  | .queue b _ => if blockOk b then some (b, 0) else none
  | .array b _ => if blockOk b then some (b, 0) else none

/-- The place in the form in which consumers look it up. -/
def poisonNorm : PoisonLoc → PoisonLoc
  | .word pa => .word (pa / 32 * 32)
  | .scratch u o => .scratch u (o / 16 * 16)
  | .line b pa => .line b (pa / 16 * 16)
  | p => p

/-- `UNCORRECTABLE_ERROR` (19 R375): the granule or code word is poisoned, the block's count rises, and the SMC records it (R430). -/
def execUncorrectableError (loc : PoisonLoc) (s : State) : Host.Outcome State Fault Refusal :=
  match s.poisonBlock loc with
  | none => .next s
  | some (b, pa) =>
    let e := (find b s.ecc).getD (0, 0)
    let s := { s with poison := if s.poison.contains (poisonNorm loc) then s.poison else s.poison ++ [(poisonNorm loc)]
                      ecc := insert b (e.1, e.2 + 1) s.ecc }
    .next (s.smcEvent 1 0 b pa)

/-- The first of the SMC's own actions that is due: a run that has become idle changes owner (R423), one of a destroyed context has none any more (R428),
and a retired slot gets its new key (R422). -/
def State.smcDue (s : State) : Option (Host.Outcome State Fault Refusal) :=
  firstDue (s.reassign.filter fun e => s.runIdle (e.1 / 16) (e.1 % 16)) (fun e => execRunReassign (e.1 / 16) (e.1 % 16) e.2 s)
    <|> firstDue (s.retiring.filter s.slotDue) (fun e => .next (s.regenerate e.1))
    <|> firstDue (s.runOwner.filter fun e => (s.ctx e.2).dead && s.runIdle (e.1 / 16) (e.1 % 16)) fun e => execRunReassign (e.1 / 16) (e.1 % 16) none s

end Sys2Proof.Machine
end

