-- ==== Sys2Proof/Machine/Zones.lean ====
section
/-! DEFINITION. The record of a zone from which a rollback restores it (19 R376–R378, R391): what a zone holds, what a step of the device adds to its record,
and its restoring. A zone is a unit (0–895), or under 896 and above the shared logic of a cluster. Log entry 72. -/

namespace Sys2Proof.Machine

/-! ### What a zone holds -/

/-- The entries of a node's tile map that lie on its core of index `ci`. -/
def onCore {α : Type} (per ci : Nat) (m : List (Nat × α)) : List (Nat × α) := m.filter fun e => e.1 / per == ci

/-- Scratchpad bytes and full/empty bits of a unit. -/
def cellsOf (u : Nat) (m : List (Nat × Byte)) : List (Nat × Byte) := m.filter fun e => e.1 / 2 ^ 20 == u
def bitsOf (u : Nat) (m : List (Nat × Bool)) : List (Nat × Bool) := m.filter fun e => e.1 / 2 ^ 16 == u

/-- What a node has on a unit. -/
def Node.partOn (n : Node) (k u : Nat) : NodePart :=
  let ci := n.coreIdx u
  { node := k, tiles := onCore (2 ^ 18) ci n.tiles, tcfg := onCore 16 ci n.tcfg, decomp := find u n.decomp }

/-- A warp runs on a unit. -/
def State.warpOn (s : State) (u wk : Nat) : Bool := (find wk s.warps).elim false fun w => w.unit == u

/-- The copies of REDUNDANT nodes' warps on a unit (R391). -/
def State.copiesOn (s : State) (u : Nat) : List CopyAt :=
  s.nodes.flatMap fun e => e.2.pairs.flatMap fun p =>
    (p.copies.zipIdx.filter fun c => s.warpOn u c.1.warp).map fun c => { node := e.1, idx := p.idx, copy := c.2, st := c.1 }

/-- The state of a unit's zone, but for its command queue. -/
def State.zoneOf (s : State) (u : Nat) : Snap :=
  { at_ := 0, upTo := 0, warps := s.warps.filter fun e => e.2.unit == u, cells := cellsOf u s.scratch, bits := bitsOf u s.fe
    loads := s.fePend.filter fun p => p.unit == u, work := s.tileQ.filter fun t => t.unit == u
    casts := s.casts.filter fun c => c.unit == u, deque := getD [] s.deques u
    parts := (s.nodes.filter fun e => e.2.allUnits.contains u).map fun e => e.2.partOn e.1 u, copies := s.copiesOn u }

/-- The state of a zone now (R377), `logged` entries of its log having come in. -/
def State.snap (s : State) (z logged : Nat) : Snap :=
  if z < Config.units then
    { s.zoneOf z with at_ := s.clock z, upTo := s.nextId, logged := logged, cmds := s.cmds.filter fun c => c.unit == z && c.code.isNone }
  else
    let a := z - Config.units
    { at_ := s.agentClock a, upTo := s.nextId
      queue := s.atomQ.filter fun r => match r.kind with | .atomic q => s.ownerOf q == a | _ => false }

/-! ### What lies beyond a zone -/

/-- A node without what it has on a unit. -/
def Node.without (n : Node) (u : Nat) : Node :=
  let ci := n.coreIdx u
  { n with tiles := n.tiles.filter fun e => e.1 / 2 ^ 18 != ci, tcfg := n.tcfg.filter fun e => e.1 / 16 != ci, decomp := erase u n.decomp }

/-- A pair without its copies on a unit, and without what an issue of one of them, or the comparison of a chunk, changes of the rest. -/
def State.pairWithout (s : State) (u : Nat) (p : Pair) : Pair :=
  let own (c : CopySt) : Bool := s.warpOn u c.warp
  if !p.copies.any own then p
  else { p with copies := p.copies.map fun c => if own c then { warp := c.warp } else { c with buf := [] }
                log := [], once := [], writes := [], decided := 0 }

/-- A node without what belongs to a unit: its part of it, its copies there and the flips armed for them. -/
def State.nodeWithout (s : State) (u : Nat) (n : Node) : Node :=
  let own (f : Flip) : Bool := (n.pair f.warp).elim false fun p => (p.copies[f.copy]?).elim false fun c => s.warpOn u c.warp
  if !n.allUnits.contains u then n
  else { n.without u with pairs := n.pairs.map (s.pairWithout u), flips := n.flips.filter fun f => !own f }

/-- The request is one of a unit, or of a REDUNDANT node with a copy there. -/
def State.reqOf (s : State) (u : Nat) (r : Req) : Bool :=
  r.unit == u || (find r.node s.nodes).elim false fun n => n.desc.red && n.allUnits.contains u

/-- The device beyond a unit's zone: what an instruction of it that stays within the zone leaves as it is. The zone's held requests and commands count
as its own. -/
def State.beyond (s : State) (u : Nat) : State :=
  { s with
    warps := s.warps.filter fun e => e.2.unit != u
    scratch := s.scratch.filter fun e => e.1 / 2 ^ 20 != u
    fe := s.fe.filter fun e => e.1 / 2 ^ 16 != u
    fePend := s.fePend.filter fun p => p.unit != u
    tileQ := s.tileQ.filter fun t => t.unit != u
    casts := s.casts.filter fun c => c.unit != u
    deques := erase u s.deques
    probeDue := erase u s.probeDue
    nodes := s.nodes.map fun e => (e.1, s.nodeWithout u e.2)
    held := s.held.filter fun r => !s.reqOf u r
    cmds := s.cmds.filter fun c => c.unit != u
    ckpts := [], ptrs := [], acted := [], cur := none, nextId := 0, fresh := 0, issues := 0, meets := 0, late := [], lastOut := [] }

/-! ### The record of a zone -/

/-- Nothing of a zone has changed but scratchpad granules: what an engine wrote, which no instruction of the zone would write again. -/
def onlyWritten (a b : Snap) : Bool := { a with cells := b.cells, bits := b.bits, copies := b.copies } == b && a != b

/-- What such a write changes in an earlier state of the zone; a copy remembers what it found there (R388). -/
def Snap.written (a b p : Snap) : Snap :=
  let cells := (distinct ((a.cells ++ b.cells).map (·.1))).filter fun k => getD 0 a.cells k != getD 0 b.cells k
  let bits := (distinct ((a.bits ++ b.bits).map (·.1))).filter fun k => getD false a.bits k != getD false b.bits k
  let undoOf (l : List CopyAt) (c : CopyAt) : CopySt := (l.find? fun e => e.node == c.node && e.idx == c.idx && e.copy == c.copy).elim c.st (·.st)
  let more {α : Type} (d : α) (m : List (Nat × α)) (old new : List (Nat × α)) : List (Nat × α) :=
    (new.take (new.length - old.length)).map fun e => (e.1, getD d m e.1)
  { p with
    cells := cells.foldl (fun m k => put 0 k (getD 0 b.cells k) m) p.cells
    bits := bits.foldl (fun m k => put false k (getD false b.bits k) m) p.bits
    copies := p.copies.map fun c =>
      let (x, y) := (undoOf a.copies c, undoOf b.copies c)
      { c with st := { c.st with undo := more 0 p.cells x.undo y.undo ++ c.st.undo, undoFe := more false p.bits x.undoFe y.undoFe ++ c.st.undoFe } } }

/-- The command has written a byte (R379), or is under way in a unit outside its core's zone that acts on others. -/
def Cmd.acted (c : Cmd) : Bool :=
  c.wrote || ((isCtxs c.instr || isCtxl c.instr) && c.ready) || c.coll.elim false fun k => k.agreed

/-- The numbers of the requests that the once-logs of the copies on a unit name. -/
def State.onceOn (s : State) (u : Nat) : List Nat :=
  s.nodes.flatMap fun e => e.2.pairs.flatMap fun p => if p.copies.any fun c => s.warpOn u c.warp then p.once.map (·.req) else []

/-- The numbers of what a replay does not issue again (R378, R379, R391) and what the step from `s` to `t` makes so: requests of a unit that leave it,
commands that act, and of a REDUNDANT node what leaves the compare buffer or is performed once. -/
def State.passed (s t : State) (u : Nat) : List Nat :=
  ((s.held.filter fun r => r.unit == u && !t.held.any fun q => q.id == r.id).map (·.id))
    ++ ((t.cmds.filter fun c => c.unit == u && c.acted && !s.cmds.any fun q => q.id == c.id && q.acted).map (·.id))
    ++ (if s.issues = t.issues then (t.held.filter fun r => t.warpOn u r.who.warp && !s.held.any fun q => q.id == r.id).map (·.id) else [])
    ++ (t.onceOn u).filter fun id => !(s.onceOn u).contains id

/-- What the step from `s` to `t` brings into a zone that its log then holds (R378): atomic results, table replies that neither trap nor fault, and
the tasks that an increment pushes. -/
def State.arrivals (s t : State) (u : Nat) : List Arrival :=
  (s.atomQ.filter fun r => r.unit == u && !t.atomQ.any fun q => q.id == r.id).flatMap (fun r => match r.kind with
      | .atomic a => match (s.serveAtomic r a).2 with
        | some (v, fl) =>
          (match a.d with
            | some d => if s.portOf r.who.warp d then [] else [.atom r.who.warp r.who.lane r.id d a.size v fl]
            | none => [])
          ++ (a.task.map fun k => Arrival.task r.id k).toList
        | none => []
      | _ => [])
    ++ (s.tabRes.filter fun r => !t.tabRes.any (fun q => q.id == r.id) && r.outs.all fun o => o.trap.isNone && o.fault.isNone).flatMap
      fun r => ((r.warp :: s.otherCopies r.warp).filter (s.warpOn u)).map fun k => .tab k r

/-- The end of the replay comes to the first state after the issue of a request (R378); it never goes back. -/
def ZoneCk.leave (k : ZoneCk) (id : Nat) : ZoneCk :=
  { k with ends := max k.ends ((k.snaps.findIdx? fun p => decide (id < p.upTo)).getD (k.snaps.length - 1)) }

/-- Another state of the zone. -/
def ZoneCk.add (k : ZoneCk) (p : Snap) : ZoneCk := { k with snaps := k.snaps ++ [p] }

/-- A state of a zone without the requests that its warps wait to see performed, which are those still under way whenever it comes back. -/
def Snap.bare (p : Snap) : Snap := { p with warps := p.warps.map fun e => (e.1, { e.2 with drain := [] }) }

/-- What the step from `s` to `t` adds to the record of a unit's zone. An issue of requests or commands is one more state to come back to; what comes
from outside in the ways that R378 names joins the log; anything else that passes between the zone and the rest of the device brings the end of the replay
to the present. -/
def trackZone (s t : State) (u : Nat) (k : ZoneCk) : ZoneCk :=
  let (a, b) := ((s.zoneOf u).bare, (t.zoneOf u).bare)
  let came := s.arrivals t u
  let k := { k with log := k.log ++ came }
  let p := t.snap u k.log.length
  let k :=
    if a == b then k
    else if s.issues = t.issues && onlyWritten a b then { k with snaps := k.snaps.map (a.written b) }
    else if came.isEmpty && s.beyond u != t.beyond u then { k.add p with ends := k.snaps.length }
    else if s.nextId != t.nextId then k.add p
    else k
  (s.passed t u).foldl ZoneCk.leave k

/-- What a step from `s` to `t` does to the zones' records: those of the units that have taken a checkpoint. -/
def State.track (s t : State) : State :=
  { t with ckpts := t.ckpts.map fun e =>
      if e.1 < Config.units && !e.2.snaps.isEmpty && (find e.1 s.ckpts).any (fun k => k.gen == e.2.gen) then (e.1, trackZone s t e.1 e.2) else e }

/-- The outcome of a step from `s`, with the zones' records kept. -/
def State.tracked (s : State) : Host.Outcome State Fault Refusal → Host.Outcome State Fault Refusal
  | .next t => .next (s.track t)
  | o => o

/-- The states from the older checkpoint on, at its cycle (R377). -/
def fromOlder (older : Nat) : List Snap → List Snap
  | p :: q :: t => if p.at_ < older && q.at_ ≤ older then fromOlder older (q :: t) else p :: q :: t
  | l => l

/-- A checkpoint of a zone at a cycle (R377): the newest becomes the older, and the record goes back to it. -/
def ZoneCk.checkpoint (k : ZoneCk) (at_ : Nat) (p : Snap) : ZoneCk :=
  let l := fromOlder k.newer (k.snaps ++ [p])
  let gone := (l.head?).elim 0 (·.logged)
  { newer := at_, older := k.newer, snaps := l.map fun q => { q with logged := q.logged - gone }
    ends := k.ends - (k.snaps.length + 1 - l.length), log := k.log.drop gone, gen := k.gen + 1 }

/-! ### Restoring a zone -/

/-- Put a node's part of a zone back. -/
def Node.restore (n : Node) (u : Nat) (p : NodePart) : Node :=
  let m := n.without u
  { m with
    tiles := p.tiles.foldl (fun l e => put 0 e.1 e.2 l) m.tiles
    tcfg := p.tcfg.foldl (fun l e => put 0 e.1 e.2 l) m.tcfg
    decomp := match p.decomp with | some d => insert u d m.decomp | none => m.decomp }

/-- A log with the first entries of each lane alone, as many as given. -/
def keepFirst : List (Nat × Nat) → List LogEnt → List LogEnt
  | _, [] => []
  | m, e :: t => if 0 < getD 0 m e.lane then e :: keepFirst (put 0 e.lane (getD 0 m e.lane - 1) m) t else keepFirst m t

/-- A copy of a warp comes back (R391): entries that have matched since are in its buffer no more, and the load log ends with what the leading copy had
received. -/
def State.restoreCopy (s : State) (c : CopyAt) : State :=
  match s.pairAt c.node c.idx with
  | none => s
  | some p =>
    let back (now : CopySt) : CopySt := { c.st with buf := c.st.buf.filter (fun e => decide (p.decided ≤ e.1)), struck := now.struck }
    s.setPairAt c.node { p.onCopy c.copy back with log := if c.copy = 0 then keepFirst c.st.taken p.log else p.log }

/-- What came into the zone for a request issued before its restored state comes again, from the log (R378). -/
def State.relive (u upTo : Nat) (s : State) : Arrival → State
  | .atom wk l req d size v fl => if req < upTo then { s with warps := adjust wk (fun w => w.land req l d size v fl) s.warps } else s
  | .tab wk r => if r.id < upTo then s.landReply r wk else s
  | .task req k => if req < upTo then s.pushTask u k else s

/-- A unit's zone comes back to a state of it (R378): registers, tiles, scratchpad granules and queues; its requests issued since that have not left it
are discarded, and what came in for the earlier ones is taken from the log. -/
def State.restore (s : State) (u : Nat) (k : ZoneCk) (p : Snap) : State :=
  let held := s.held.filter fun r => !(r.unit == u && decide (p.upTo ≤ r.id))
  let under (id : Nat) : Bool := (held ++ s.atomQ ++ s.rakeQ ++ s.buffered).any fun r => r.id == id
  let warp (e : Nat × Warp) : Warp := { e.2 with drain := e.2.drain.filter under }
  let s := { s with
    warps := p.warps.foldl (fun l e => insert e.1 (warp e) l) (s.warps.filter fun e => e.2.unit != u)
    scratch := p.cells.foldl (fun l e => put 0 e.1 e.2 l) (s.scratch.filter fun e => e.1 / 2 ^ 20 != u)
    fe := p.bits.foldl (fun l e => put false e.1 e.2 l) (s.fe.filter fun e => e.1 / 2 ^ 16 != u)
    fePend := (s.fePend.filter fun q => q.unit != u) ++ p.loads
    tileQ := (s.tileQ.filter fun q => q.unit != u) ++ p.work
    casts := (s.casts.filter fun q => q.unit != u) ++ p.casts
    deques := put [] u p.deque s.deques
    nodes := s.nodes.map fun e => match p.parts.find? fun q => q.node == e.1 with
      | some q => (e.1, if e.2.allUnits.contains u then e.2.restore u q else e.2)
      | none => e
    held := held }
  (k.log.drop p.logged).foldl (State.relive u p.upTo) (p.copies.foldl State.restoreCopy s)

end Sys2Proof.Machine
end

