-- ==== Sys2Proof/Machine/Reliability.lean ====
section
/-! DEFINITION. Checkpoints and strikes (19 R376–R381, R388, R391). A zone is a unit (0–895), or under 896 and above the shared logic of
a cluster. -/

namespace Sys2Proof.Machine

/-- Cycles between two checkpoints, and within which a strike is reported (R376, R377). -/
def ckptCycles : Nat := 512

/-- The cycle count of a zone. -/
def State.zoneClock (s : State) (z : Nat) : Nat := if z < Config.units then s.clock z else s.agentClock (z - Config.units)

/-- A zone takes its next checkpoint; its first as work first comes to it. -/
def State.ckptDue (s : State) (z : Nat) : Bool := (find z s.ckpts).elim true fun k => decide (k.newer + ckptCycles ≤ s.zoneClock z)

/-- `CHECKPOINT` (R377): the zone's state joins its record, which reaches back to the older of the two newest checkpoints. -/
def execCheckpoint (zone : Nat) (s : State) : Host.Outcome State Fault Refusal :=
  if !s.ckptDue zone then .next s
  else
    let k := (find zone s.ckpts).getD { newer := s.zoneClock zone, older := s.zoneClock zone }
    .next { s with ckpts := insert zone (k.checkpoint (s.zoneClock zone) (s.snap zone k.log.length)) s.ckpts }

/-- Where a command begins again when it is withdrawn (R379). -/
def Cmd.again (c : Cmd) : Cmd :=
  let keep : Bool := match c.instr with | .gpool _ => true | _ => false
  { c with ready := false, data := if keep then c.data else [], vals := [], park := none }

/-- A strike meets a command that its engine works on (R379): one that has written a byte stops with code 4, any other starts again, from its place in the
restored queue. -/
def State.strikeCmd (s : State) (queue : List Cmd) (c : Cmd) : State :=
  if c.wrote then ((s.closePark c).putCmd { c with park := none, code := some 4 }).finishCmd c.id
  else (s.closePark c).putCmd ((queue.find? fun q => q.id == c.id).getD c).again

/-- The sequence of an `ATTN` has a block on a stack. -/
def State.onStack (s : State) (c : Cmd) (k : Nat) : Bool :=
  match c.instr with
  | .attn _ => (s.tableOf c.ctx (AttnBlock.ofNat c.block).seq).blocks.any fun b => (find b.2 s.blockRef).elim false fun e => e.2 == k
  | _ => false

/-- The engine of a command lies in a unit's zone: the copy or decompression engine of the core, and for a pan unit its own and the `ATTN` work on its
stack (R376, R379). A `GPOOL` works in rake units and an `ATTN` in pan units, whose zones are others than the core's. -/
def State.engineIn (s : State) (c : Cmd) (u : Nat) : Bool :=
  c.started && match c.instr with
    | .cpy _ => c.unit == u
    | .dec _ => c.unit == u
    | .attn _ => decide (Config.cores ≤ u) && s.onStack c ((u - Config.cores) / 16)
    | _ => false

/-- A strike meets the commands of a unit, which comes back to before the issue of the requests from `upTo` on (R379): those whose engine lies in the
zone, or that it issued at or after its older checkpoint at cycle `older`. One issued beyond the end of the replay that has not acted is withdrawn, to be
issued again; one under way in another unit that has written nothing goes on, as what the replay issues again is the same command. -/
def State.struckCmds (s : State) (u older upTo : Nat) (queue : List Cmd) : State :=
  let s := { s with cmds := s.cmds.filter fun c => !(c.unit == u && decide (upTo ≤ c.id) && !c.acted) }
  (s.cmds.filter fun c => c.code.isNone && (s.engineIn c u || (c.unit == u && decide (older ≤ c.issued)))).foldl
    (fun (s : State) c => if s.engineIn c u || c.wrote then s.strikeCmd queue c else s) s

/-- A held access of a context has left a unit that was issued at or after the cycle from which a strike may have come (R381). -/
def State.leaked (s : State) (ck u : Nat) : Bool :=
  match find (ck * 1024 + u) s.lastOut with | some t => decide (s.clock u ≤ t + ckptCycles) | none => false

/-- A strike that the zone cannot undo for a node (R381): it is killed. For the copies of a REDUNDANT node on the unit that have a checkpoint it counts
as a mismatch (R388). -/
def State.strikeNode (s : State) (nk u : Nat) : State :=
  match find nk s.nodes with
  | none => s
  | some n =>
    if n.st ≠ .running || !n.allUnits.contains u || (s.ctx n.ctx).hold || !s.leaked n.ctx u then s
    else if n.desc.red && (s.copiesOn u).all fun c => c.node != nk || c.st.ck.isSome then
      s.setNode nk { n with pairs := n.pairs.map fun p =>
        { p with copies := p.copies.map fun c => if s.warpOn u c.warp then { c with struck := true } else c } }
    else s.smcKill nk 0

/-- A strike in a unit (R378, R379, R381, R391): the zone comes back to the end of its replay from the older checkpoint, and its execution is live from
there. Log entry 72. -/
def State.strikeUnit (s : State) (u : Nat) : State :=
  let s := match (find u s.ckpts).bind fun k => (k.snaps[k.ends]?).map fun p => (k, p) with
    | some (k, p) =>
      ({ s.restore u k p with ckpts := insert u { k with snaps := k.snaps.take (k.ends + 1), gen := k.gen + 1 } s.ckpts } : State).struckCmds
        u k.older p.upTo p.cmds
    | none => s.struckCmds u ((find u s.ckpts).elim 0 (·.older)) s.nextId []
  ((s.nodes.filter fun e => e.2.st == .running).map (·.1)).foldl (fun (s : State) k => s.strikeNode k u) s

/-- A strike in a cluster's shared logic (R380, R381): nodes without the hold of which a result or write has left the service warp are killed; the
requests that it has served and not let out it serves again in the order of their arrival. -/
def State.strikeCluster (s : State) (a : Nat) : State :=
  let again (r : Req) : Req := match r.kind with
    | .atomic q => if q.served.any fun e => e.1 == a then { r with kind := .atomic { q with served := none } } else r
    | _ => r
  ((s.nodes.filter fun e => !e.2.st.final && !(s.ctx e.2.ctx).hold
      && (find (e.1 * 128 + a) s.lastServed).elim false fun t => decide (s.agentClock a ≤ t + ckptCycles)).map (·.1)).foldl
    (fun (s : State) k => s.smcKill k 0) { s with atomQ := s.atomQ.map again }

/-- `STRIKE_REPORT` (R378–R381). -/
def execStrikeReport (zone : Nat) (s : State) : Host.Outcome State Fault Refusal :=
  if zone < Config.units then .next (s.strikeUnit zone)
  else if zone < Config.units + 96 then .next (s.strikeCluster (zone - Config.units))
  else .next s

/-- The zones at work: units with a running node, and clusters whose service warp has requests. -/
def State.zonesAtWork (s : State) : List Nat :=
  distinct (((s.nodes.filter fun e => e.2.st == .running).flatMap fun e => e.2.allUnits)
    ++ ((s.atomQ.filterMap fun r => match r.kind with | .atomic q => some (s.ownerOf q) | _ => none).filter fun a => decide (a < 96)).map
        fun a => Config.units + a)

/-- Zones with work, whose checkpoint is due. -/
def State.reliabilityEvent (s : State) : Option (Host.Outcome State Fault Refusal) :=
  firstDue (s.zonesAtWork.filter s.ckptDue) fun z => execCheckpoint z s

end Sys2Proof.Machine
end

