-- ==== Sys2Proof/Machine/Dispatch.lean ====
section
/-! DEFINITION. The meaning of every instruction and event of the opcode table, by one direct call. -/

namespace Sys2Proof.Machine

def exec (i : Instr) (s : State) : Host.Outcome State Fault Refusal :=
  match i with
  | .pad => Sys2Proof.Machine.execPad s
  | .nop p => Sys2Proof.Machine.execNop p s
  | .bra p disp => Sys2Proof.Machine.execBra p disp s
  | .braNz p a disp => Sys2Proof.Machine.execBraNz p a disp s
  | .braZ p a disp => Sys2Proof.Machine.execBraZ p a disp s
  | .brx p a => Sys2Proof.Machine.execBrx p a s
  | .call p d disp => Sys2Proof.Machine.execCall p d disp s
  | .callx p d a => Sys2Proof.Machine.execCallx p d a s
  | .ret p a => Sys2Proof.Machine.execRet p a s
  | .exit p => Sys2Proof.Machine.execExit p s
  | .join p d => Sys2Proof.Machine.execJoin p d s
  | .leave p d => Sys2Proof.Machine.execLeave p d s
  | .waitm p a => Sys2Proof.Machine.execWaitm p a s
  | .bar p g => Sys2Proof.Machine.execBar p g s
  | .elect p d => Sys2Proof.Machine.execElect p d s
  | .yield p => Sys2Proof.Machine.execYield p s
  | .trap p n => Sys2Proof.Machine.execTrap p n s
  | .bkpt p n => Sys2Proof.Machine.execBkpt p n s
  | .uretRetry p => Sys2Proof.Machine.execUretRetry p s
  | .uretSkip p => Sys2Proof.Machine.execUretSkip p s
  | .trmp p slot disp => Sys2Proof.Machine.execTrmp p slot disp s
  | .iadd8 f => Sys2Proof.Machine.execIadd8 f s
  | .iadd12 f => Sys2Proof.Machine.execIadd12 f s
  | .isub8 f => Sys2Proof.Machine.execIsub8 f s
  | .isub12 f => Sys2Proof.Machine.execIsub12 f s
  | .imul8 f => Sys2Proof.Machine.execImul8 f s
  | .imul12 f => Sys2Proof.Machine.execImul12 f s
  | .imulh8 f => Sys2Proof.Machine.execImulh8 f s
  | .imulh12 f => Sys2Proof.Machine.execImulh12 f s
  | .imad f => Sys2Proof.Machine.execImad f s
  | .idiv8 f => Sys2Proof.Machine.execIdiv8 f s
  | .idiv12 f => Sys2Proof.Machine.execIdiv12 f s
  | .idivRem8 f => Sys2Proof.Machine.execIdivRem8 f s
  | .idivRem12 f => Sys2Proof.Machine.execIdivRem12 f s
  | .imin8 f => Sys2Proof.Machine.execImin8 f s
  | .imin12 f => Sys2Proof.Machine.execImin12 f s
  | .imax8 f => Sys2Proof.Machine.execImax8 f s
  | .imax12 f => Sys2Proof.Machine.execImax12 f s
  | .iabs f => Sys2Proof.Machine.execIabs f s
  | .shl8 f => Sys2Proof.Machine.execShl8 f s
  | .shl12 f => Sys2Proof.Machine.execShl12 f s
  | .shr8 f => Sys2Proof.Machine.execShr8 f s
  | .shr12 f => Sys2Proof.Machine.execShr12 f s
  | .shrSx8 f => Sys2Proof.Machine.execShrSx8 f s
  | .shrSx12 f => Sys2Proof.Machine.execShrSx12 f s
  | .rot8 f => Sys2Proof.Machine.execRot8 f s
  | .rot12 f => Sys2Proof.Machine.execRot12 f s
  | .bool8 f => Sys2Proof.Machine.execBool8 f s
  | .bool12 f => Sys2Proof.Machine.execBool12 f s
  | .bool16 f => Sys2Proof.Machine.execBool16 f s
  | .popc f => Sys2Proof.Machine.execPopc f s
  | .clz f => Sys2Proof.Machine.execClz f s
  | .brev f => Sys2Proof.Machine.execBrev f s
  | .bfx8 f => Sys2Proof.Machine.execBfx8 f s
  | .bfx12 f => Sys2Proof.Machine.execBfx12 f s
  | .bfi f => Sys2Proof.Machine.execBfi f s
  | .icmp8 f => Sys2Proof.Machine.execIcmp8 f s
  | .icmp12 f => Sys2Proof.Machine.execIcmp12 f s
  | .sel f => Sys2Proof.Machine.execSel f s
  | .mov f => Sys2Proof.Machine.execMov f s
  | .movi f => Sys2Proof.Machine.execMovi f s
  | .movs f => Sys2Proof.Machine.execMovs f s
  | .movsFirst f => Sys2Proof.Machine.execMovsFirst f s
  | .mskAnd f => Sys2Proof.Machine.execMskAnd f s
  | .mskOr f => Sys2Proof.Machine.execMskOr f s
  | .mskXor f => Sys2Proof.Machine.execMskXor f s
  | .mskAndn f => Sys2Proof.Machine.execMskAndn f s
  | .mskNot f => Sys2Proof.Machine.execMskNot f s
  | .mskFroms f => Sys2Proof.Machine.execMskFroms f s
  | .mskTos f => Sys2Proof.Machine.execMskTos f s
  | .mskPath f => Sys2Proof.Machine.execMskPath f s
  | .mpop f => Sys2Proof.Machine.execMpop f s
  | .mpopTot f => Sys2Proof.Machine.execMpopTot f s
  | .shflIdx8 f => Sys2Proof.Machine.execShflIdx8 f s
  | .shflIdx12 f => Sys2Proof.Machine.execShflIdx12 f s
  | .shflUp8 f => Sys2Proof.Machine.execShflUp8 f s
  | .shflUp12 f => Sys2Proof.Machine.execShflUp12 f s
  | .shflDown8 f => Sys2Proof.Machine.execShflDown8 f s
  | .shflDown12 f => Sys2Proof.Machine.execShflDown12 f s
  | .shflXor8 f => Sys2Proof.Machine.execShflXor8 f s
  | .shflXor12 f => Sys2Proof.Machine.execShflXor12 f s
  | .voteAll f => Sys2Proof.Machine.execVoteAll f s
  | .voteAny f => Sys2Proof.Machine.execVoteAny f s
  | .voteEq f => Sys2Proof.Machine.execVoteEq f s
  | .voteBallot f => Sys2Proof.Machine.execVoteBallot f s
  | .matchAny f => Sys2Proof.Machine.execMatchAny f s
  | .matchAll f => Sys2Proof.Machine.execMatchAll f s
  | .redw f => Sys2Proof.Machine.execRedw f s
  | .csrr f => Sys2Proof.Machine.execCsrr f s
  | .csrw f => Sys2Proof.Machine.execCsrw f s
  | .csrwSet f => Sys2Proof.Machine.execCsrwSet f s
  | .csrwClr f => Sys2Proof.Machine.execCsrwClr f s
  | .parkceilWrite f => Sys2Proof.Machine.execParkceilWrite f s
  | .fadd8 f => Sys2Proof.Machine.execFadd8 f s
  | .fadd12 f => Sys2Proof.Machine.execFadd12 f s
  | .fmul8 f => Sys2Proof.Machine.execFmul8 f s
  | .fmul12 f => Sys2Proof.Machine.execFmul12 f s
  | .ffma f => Sys2Proof.Machine.execFfma f s
  | .fmin8 f => Sys2Proof.Machine.execFmin8 f s
  | .fmin12 f => Sys2Proof.Machine.execFmin12 f s
  | .fmax8 f => Sys2Proof.Machine.execFmax8 f s
  | .fmax12 f => Sys2Proof.Machine.execFmax12 f s
  | .fcmp8 f => Sys2Proof.Machine.execFcmp8 f s
  | .fcmp12 f => Sys2Proof.Machine.execFcmp12 f s
  | .fclass f => Sys2Proof.Machine.execFclass f s
  | .fcvtScalar f => Sys2Proof.Machine.execFcvtScalar f s
  | .fcvtBlock f => Sys2Proof.Machine.execFcvtBlock f s
  | .frnd f => Sys2Proof.Machine.execFrnd f s
  | .frcp f => Sys2Proof.Machine.execFrcp f s
  | .fsqrt f => Sys2Proof.Machine.execFsqrt f s
  | .frsq f => Sys2Proof.Machine.execFrsq f s
  | .fex2 f => Sys2Proof.Machine.execFex2 f s
  | .flg2 f => Sys2Proof.Machine.execFlg2 f s
  | .fsin f => Sys2Proof.Machine.execFsin f s
  | .fcos f => Sys2Proof.Machine.execFcos f s
  | .ftanh f => Sys2Proof.Machine.execFtanh f s
  | .pfma f => Sys2Proof.Machine.execPfma f s
  | .amrg f => Sys2Proof.Machine.execAmrg f s
  | .ld8 f => Sys2Proof.Machine.execLd8 f s
  | .ld12 f => Sys2Proof.Machine.execLd12 f s
  | .st8 f => Sys2Proof.Machine.execSt8 f s
  | .st12 f => Sys2Proof.Machine.execSt12 f s
  | .lds8 f => Sys2Proof.Machine.execLds8 f s
  | .lds12 f => Sys2Proof.Machine.execLds12 f s
  | .sts8 f => Sys2Proof.Machine.execSts8 f s
  | .sts12 f => Sys2Proof.Machine.execSts12 f s
  | .femSet8 f => Sys2Proof.Machine.execFemSet8 f s
  | .femSet12 f => Sys2Proof.Machine.execFemSet12 f s
  | .femClr8 f => Sys2Proof.Machine.execFemClr8 f s
  | .femClr12 f => Sys2Proof.Machine.execFemClr12 f s
  | .femTest8 f => Sys2Proof.Machine.execFemTest8 f s
  | .femTest12 f => Sys2Proof.Machine.execFemTest12 f s
  | .ldg f => Sys2Proof.Machine.execLdg f s
  | .sct f => Sys2Proof.Machine.execSct f s
  | .pref8 f => Sys2Proof.Machine.execPref8 f s
  | .pref12 f => Sys2Proof.Machine.execPref12 f s
  | .fence f => Sys2Proof.Machine.execFence f s
  | .atom f => Sys2Proof.Machine.execAtom f s
  | .atomCas f => Sys2Proof.Machine.execAtomCas f s
  | .red8 f => Sys2Proof.Machine.execRed8 f s
  | .red12 f => Sys2Proof.Machine.execRed12 f s
  | .poll f => Sys2Proof.Machine.execPoll f s
  | .tinfo f => Sys2Proof.Machine.execTinfo f s
  | .kget f => Sys2Proof.Machine.execKget f s
  | .kins f => Sys2Proof.Machine.execKins f s
  | .kdel f => Sys2Proof.Machine.execKdel f s
  | .kseek f => Sys2Proof.Machine.execKseek f s
  | .knext f => Sys2Proof.Machine.execKnext f s
  | .kprev f => Sys2Proof.Machine.execKprev f s
  | .kclose f => Sys2Proof.Machine.execKclose f s
  | .kpfx f => Sys2Proof.Machine.execKpfx f s
  | .kpfxi f => Sys2Proof.Machine.execKpfxi f s
  | .krecl f => Sys2Proof.Machine.execKrecl f s
  | .sqres f => Sys2Proof.Machine.execSqres f s
  | .sqcmt f => Sys2Proof.Machine.execSqcmt f s
  | .sqabn f => Sys2Proof.Machine.execSqabn f s
  | .sqlen f => Sys2Proof.Machine.execSqlen f s
  | .sqwait f => Sys2Proof.Machine.execSqwait f s
  | .sqfork f => Sys2Proof.Machine.execSqfork f s
  | .sqdrop f => Sys2Proof.Machine.execSqdrop f s
  | .sqloc f => Sys2Proof.Machine.execSqloc f s
  | .tcfg8 f => Sys2Proof.Machine.execTcfg8 f s
  | .tcfg12 f => Sys2Proof.Machine.execTcfg12 f s
  | .trdc f => Sys2Proof.Machine.execTrdc f s
  | .tld f => Sys2Proof.Machine.execTld f s
  | .tst f => Sys2Proof.Machine.execTst f s
  | .tzero f => Sys2Proof.Machine.execTzero f s
  | .tmov f => Sys2Proof.Machine.execTmov f s
  | .mma f => Sys2Proof.Machine.execMma f s
  | .mmas f => Sys2Proof.Machine.execMmas f s
  | .tcomp f => Sys2Proof.Machine.execTcomp f s
  | .tqnt f => Sys2Proof.Machine.execTqnt f s
  | .tdq f => Sys2Proof.Machine.execTdq f s
  | .tred f => Sys2Proof.Machine.execTred f s
  | .tscl f => Sys2Proof.Machine.execTscl f s
  | .vtopk f => Sys2Proof.Machine.execVtopk f s
  | .vtopkLn f => Sys2Proof.Machine.execVtopkLn f s
  | .cpy f => Sys2Proof.Machine.execCpy f s
  | .cwait f => Sys2Proof.Machine.execCwait f s
  | .dec f => Sys2Proof.Machine.execDec f s
  | .dtld f => Sys2Proof.Machine.execDtld f s
  | .gpool f => Sys2Proof.Machine.execGpool f s
  | .attn f => Sys2Proof.Machine.execAttn f s
  | .collAllred f => Sys2Proof.Machine.execCollAllred f s
  | .collRedsc f => Sys2Proof.Machine.execCollRedsc f s
  | .collAllgath f => Sys2Proof.Machine.execCollAllgath f s
  | .collAtoa f => Sys2Proof.Machine.execCollAtoa f s
  | .efork f => Sys2Proof.Machine.execEfork f s
  | .erdv f => Sys2Proof.Machine.execErdv f s
  | .tfork f => Sys2Proof.Machine.execTfork f s
  | .tjoin f => Sys2Proof.Machine.execTjoin f s
  | .rbeg f => Sys2Proof.Machine.execRbeg f s
  | .rchk f => Sys2Proof.Machine.execRchk f s
  | .rend f => Sys2Proof.Machine.execRend f s
  | .eretRetry f => Sys2Proof.Machine.execEretRetry f s
  | .eretSkip f => Sys2Proof.Machine.execEretSkip f s
  | .eretKill f => Sys2Proof.Machine.execEretKill f s
  | .tlbiCtx f => Sys2Proof.Machine.execTlbiCtx f s
  | .tlbiTbl f => Sys2Proof.Machine.execTlbiTbl f s
  | .tlbiVa f => Sys2Proof.Machine.execTlbiVa f s
  | .tlbiS2 f => Sys2Proof.Machine.execTlbiS2 f s
  | .gcall f => Sys2Proof.Machine.execGcall f s
  | .cinvLine8 f => Sys2Proof.Machine.execCinvLine8 f s
  | .cinvLine12 f => Sys2Proof.Machine.execCinvLine12 f s
  | .cinvAll f => Sys2Proof.Machine.execCinvAll f s
  | .cwbLine8 f => Sys2Proof.Machine.execCwbLine8 f s
  | .cwbLine12 f => Sys2Proof.Machine.execCwbLine12 f s
  | .cwbAll f => Sys2Proof.Machine.execCwbAll f s
  | .ctxs f => Sys2Proof.Machine.execCtxs f s
  | .ctxl f => Sys2Proof.Machine.execCtxl f s
  | .kmig f => Sys2Proof.Machine.execKmig f s
  | .inj f => Sys2Proof.Machine.execInj f s
  | .smcall f => Sys2Proof.Machine.execSmcall f s
  | .version f => Sys2Proof.Machine.execVersion f s
  | .ctxcreate f => Sys2Proof.Machine.execCtxcreate f s
  | .ctxdestroy f => Sys2Proof.Machine.execCtxdestroy f s
  | .keyretire f => Sys2Proof.Machine.execKeyretire f s
  | .ecccount f => Sys2Proof.Machine.execEcccount f s
  | .lookups f => Sys2Proof.Machine.execLookups f s
  | .setget f => Sys2Proof.Machine.execSetget f s
  | .setput f => Sys2Proof.Machine.execSetput f s
  | .attest f => Sys2Proof.Machine.execAttest f s
  | .attkey f => Sys2Proof.Machine.execAttkey f s
  | .powercap f => Sys2Proof.Machine.execPowercap f s
  | .thermal f => Sys2Proof.Machine.execThermal f s
  | .launchAccept ctx => Sys2Proof.Machine.execLaunchAccept ctx s
  | .resourceReport die => Sys2Proof.Machine.execResourceReport die s
  | .nodeDispatch backfill => Sys2Proof.Machine.execNodeDispatch backfill s
  | .starvePromotion n => Sys2Proof.Machine.execStarvePromotion n s
  | .headBlocked => Sys2Proof.Machine.execHeadBlocked s
  | .nodeRetire n => Sys2Proof.Machine.execNodeRetire n s
  | .taskStart core => Sys2Proof.Machine.execTaskStart core s
  | .taskStealRetry core => Sys2Proof.Machine.execTaskStealRetry core s
  | .heldStoreRelease id => Sys2Proof.Machine.execHeldStoreRelease id s
  | .atomicService agent => Sys2Proof.Machine.execAtomicService agent s
  | .atomicResultReturn id => Sys2Proof.Machine.execAtomicResultReturn id s
  | .homeMove page agent => Sys2Proof.Machine.execHomeMove page agent s
  | .rakeOperation id => Sys2Proof.Machine.execRakeOperation id s
  | .tableReply id => Sys2Proof.Machine.execTableReply id s
  | .fullEmptyLoadServe unit granule => Sys2Proof.Machine.execFullEmptyLoadServe unit granule s
  | .pollReread r lane => Sys2Proof.Machine.execPollReread r lane s
  | .sqwaitRelease r lane => Sys2Proof.Machine.execSqwaitRelease r lane s
  | .cwaitRelease r lane => Sys2Proof.Machine.execCwaitRelease r lane s
  | .tjoinRelease r lane => Sys2Proof.Machine.execTjoinRelease r lane s
  | .ldgLateArrival r frag => Sys2Proof.Machine.execLdgLateArrival r frag s
  | .castDelivery id => Sys2Proof.Machine.execCastDelivery id s
  | .erdvRendezvous r => Sys2Proof.Machine.execErdvRendezvous r s
  | .cpyComplete id => Sys2Proof.Machine.execCpyComplete id s
  | .decComplete id => Sys2Proof.Machine.execDecComplete id s
  | .gpoolComplete id => Sys2Proof.Machine.execGpoolComplete id s
  | .attnComplete id => Sys2Proof.Machine.execAttnComplete id s
  | .collStart id peers => Sys2Proof.Machine.execCollStart id peers s
  | .atoaBlockDelivery id src block => Sys2Proof.Machine.execAtoaBlockDelivery id src block s
  | .collComplete id chunks peers => Sys2Proof.Machine.execCollComplete id chunks peers s
  | .treeRecompute id peers => Sys2Proof.Machine.execTreeRecompute id peers s
  | .parkRetry r frag => Sys2Proof.Machine.execParkRetry r frag s
  | .commandFaultRetry id => Sys2Proof.Machine.execCommandFaultRetry id s
  | .smcFaultService t act => Sys2Proof.Machine.execSmcFaultService t act s
  | .pageMove ctx ipa pa => Sys2Proof.Machine.execPageMove ctx ipa pa s
  | .preemptRequest n area => Sys2Proof.Machine.execPreemptRequest n area s
  | .forcedStop unit => Sys2Proof.Machine.execForcedStop unit s
  | .sumpSave n => Sys2Proof.Machine.execSumpSave n s
  | .saveCommit n => Sys2Proof.Machine.execSaveCommit n s
  | .nodeResume n => Sys2Proof.Machine.execNodeResume n s
  | .nodeMove node place mates => Sys2Proof.Machine.execNodeMove node place mates s
  | .watchdogExpiry unit ctx => Sys2Proof.Machine.execWatchdogExpiry unit ctx s
  | .extwaitExpiry unit ctx => Sys2Proof.Machine.execExtwaitExpiry unit ctx s
  | .checkpoint zone => Sys2Proof.Machine.execCheckpoint zone s
  | .strikeReport zone => Sys2Proof.Machine.execStrikeReport zone s
  | .uncorrectableError loc => Sys2Proof.Machine.execUncorrectableError loc s
  | .linkUp port dev peerPort => Sys2Proof.Machine.execLinkUp port dev peerPort s
  | .linkRetransmitFail port => Sys2Proof.Machine.execLinkRetransmitFail port s
  | .linkIdleTimeout port => Sys2Proof.Machine.execLinkIdleTimeout port s
  | .idleFlit port => Sys2Proof.Machine.execIdleFlit port s
  | .linkStateUpdate port e => Sys2Proof.Machine.execLinkStateUpdate port e s
  | .drainRound => Sys2Proof.Machine.execDrainRound s
  | .remoteRequest q => Sys2Proof.Machine.execRemoteRequest q s
  | .hostRequest q => Sys2Proof.Machine.execHostRequest q s
  | .interruptMessage ctx vector => Sys2Proof.Machine.execInterruptMessage ctx vector s
  | .runReassign unit run owner => Sys2Proof.Machine.execRunReassign unit run owner s
  | .reset b => Sys2Proof.Machine.execReset b s
  | .throttleChange st temp => Sys2Proof.Machine.execThrottleChange st temp s
  | .thermalTrip temp => Sys2Proof.Machine.execThermalTrip temp s
  | .tileInstructionComplete id => Sys2Proof.Machine.execTileInstructionComplete id s
  | .engineCommandStart unit => Sys2Proof.Machine.execEngineCommandStart unit s
  | .portTakenDown port => Sys2Proof.Machine.execPortTakenDown port s

end Sys2Proof.Machine
end

