-- ==== Sys2Proof/Machine/Fetch.lean ====
section
/-! DEFINITION. Instruction fetch and issue: what a warp does when its quadrant chooses it (02 R49–R62, 18 R360), the engine
subset of the sequencers (01 R39), the choice of the warp (17 R341), and the events that happen by themselves. -/

namespace Sys2Proof.Machine

open Issue

/-! ### The engine subset -/

/-- Majors that every sequencer accepts in their uniform form (01 R39, 07 R178). -/
def uniformInt (r : Raw) : Bool := decide (0x20 ≤ r.maj) && decide (r.maj ≤ 0x3C) && r.u

/-- The instruction lies in a sequencer's subset, predicated by PM 12 and PN 0 (01 R39, 02 R52, 07 R166); kinds: 0 matrix, 1 vector, 2 copy. Pad words, which
stand between the instructions of any program, are accepted (log entry 16). -/
def seqAccepts (kind : Nat) (i : Instr) : Bool :=
  match i.toRaw with
  | none => i == .pad
  | some r =>
    r.pm == 12 && !r.pn && (uniformInt r || r.maj == 0x01 || r.maj == 0x78 || r.maj == 0xC8 || r.maj == 0x02
      || (if kind = 0 then [0xA8, 0xAA, 0xAB, 0xAC, 0xAE, 0xAF].contains r.maj
          else if kind = 1 then [0xAD, 0xB0, 0xB1, 0xB2, 0xB3, 0xB4].contains r.maj || (match i with | .vtopk _ => true | _ => false)
          else [0xC0, 0xC2, 0xC3, 0xC1, 0x74].contains r.maj))

/-! ### One fetch -/

/-- What fetch finds at an issue PC. -/
inductive Fetched
  | ok (i : Instr)
  | illegal (c : Nat)
  | trap (cause sub : Nat)
  | fault (f : FaultInfo)
  deriving DecidableEq, Repr

/-- Fetch and decode the instruction at `pc` for a warp of node `n` (02 R50, R61, 18 R359): table 1 is read as Saltern took
it. Whatever an encoding of an engine program breaks, it lies outside the engine subset: ENGINE is what its fork reports (02 R61; log entry 34). -/
def State.fetch (s : State) (n : Node) (w : Warp) (pc : Nat) : Fetched :=
  let at_ (o : Nat) : Option Fetched :=
    match s.translate n.ctx (some n.launch) 2 (2 ^ 50 + pc + o) with
    | .fault f => some (.fault f)
    | .world => some (.trap 3 0x24)
    | .ok _ _ => none
  match at_ 0 with
  | some e => e
  | none =>
    let bits := ofLe (s.rdBytes 0 (codeBase n.launch + pc) 16)
    let len := lenOfWord bits
    let whole : Option Fetched := if 32 < pc % 32 + len then none else at_ (len - 1)
    match whole with
    | some e => e
    | none =>
      match w.role with
      | .seq kind _ =>
        match decodeSeq pc bits with
        | .illegal _ => .illegal Illegal.engine.code
        | .ok i =>
          if !seqAccepts kind i || i.opnds.any (fun o => o.cls == .t && decide (n.desc.t ≤ o.num)) then .illegal Illegal.engine.code else .ok i
      | _ =>
        match decode n.desc.pan pc bits with
        | .illegal c => .illegal c.code
        | .ok i => match declCheck n.desc.n n.desc.t n.desc.cast i with
          | some c => .illegal c.code
          | none => .ok i

/-- A decoding trap, or a fault of fetch, of the whole active path (02 R62, 18 R360); an engine program that leaves its
subset, or an encoding that a check of it refuses, aborts its fork (01 R39, 11 R266). -/
def State.fetchEnds (s : State) (f : Issue → Issue) : Host.Outcome State Fault Refusal :=
  match s.start .pad ⟨12, false⟩ with
  | none => .fault .noIssuer
  | some x => .next (f x).finish

/-- A chosen warp issues its next instruction, or its lanes trap or park. -/
def State.issueWarp (s : State) (wk : Nat) : Host.Outcome State Fault Refusal :=
  match find wk s.warps with
  | none => .next s
  | some w =>
    match find w.node s.nodes, w.issuePc with
    | some n, some pc =>
      if w.suspended.isSome then .next s
      else
        let s := { s with cur := some wk }
        match s.fetch n w pc with
        | .ok i => exec i s
        | .illegal c => s.fetchEnds fun x => x.trapAct 1 c
        | .trap c b => s.fetchEnds fun x => x.trapAct c b
        | .fault f => s.fetchEnds fun x => x.parkAct f
    | _, _ => .next s

/-! ### The choice of the warp (17 R341) -/

/-- The issue slot of a warp: a quadrant of its unit, or the unit's sequencer of a kind. -/
def Warp.slotKey (w : Warp) : Nat :=
  match w.role with
  | .seq kind _ => w.unit * 8 + 4 + kind
  | _ => w.unit * 8 + w.slot / 16

/-- The warp is lowered: a lane waits at a `POLL.YH`. -/
def Warp.isLowered (w : Warp) : Bool :=
  w.lanes.any fun y => y.st == .waiting && (match y.wait with | .poll _ _ _ _ _ _ yh _ _ => yh | _ => false)

/-- The warp has an eligible path in a running node, and has not stopped. -/
def State.mayIssue (s : State) (w : Warp) : Bool :=
  w.stop == .running && !w.eligible.isEmpty && w.suspended.isNone
    && (match find w.node s.nodes with | some n => n.st == .running | none => false)
    && !(w.isSeq && w.atErdv)

/-- Insert by rank, after the entries of the same rank. -/
def rankInsert (e : Nat × Nat) : List (Nat × Nat) → List (Nat × Nat)
  | [] => [e]
  | f :: t => if e.1 < f.1 then e :: f :: t else f :: rankInsert e t

/-- The issue slot, or one that comes after it, has issued in this cycle (00 R5; 17 R341): a unit's quadrants issue in ascending order, then its matrix,
vector and copy sequencers (11 R265; log entry 82). -/
def State.hasActed (s : State) (slot : Nat) : Bool := s.acted.any fun e => decide (slot ≤ e.1)

/-- The warps that may issue in this cycle, in the order in which they are tried: those of the issue slots that follow the last one that has issued in it,
the slots ascending, and within a slot the physical slots after its pointer, lowered warps that have not waited 256 cycles last. -/
def State.order (s : State) : List Nat :=
  let rank (w : Warp) : Nat :=
    let late := if w.isLowered && decide (w.lowered < 256) then 1 else 0
    (w.slotKey * 2 + late) * 64 + (w.slot + 63 - getD 0 s.ptrs w.slotKey % 64) % 64
  ((s.warps.filter fun e => s.mayIssue e.2 && !s.hasActed e.2.slotKey).foldl (fun l e => rankInsert (rank e.2, e.1) l) []).map (·.2)

/-- The next instruction of a warp is not held back: it would issue now (17 R341). -/
def State.candidate (s : State) (wk : Nat) : Bool :=
  match s.issueWarp wk with | .next t => t.issues != s.issues | _ => false

/-- A warp has issued from `s`, and `t` is the device then: its slot has acted and its pointer moves to it; the lowered warps of its slot that were
candidates too count on. -/
def State.issued (s t : State) (wk : Nat) (w : Warp) : State :=
  let ck := (find w.node s.nodes).elim 0 fun n => n.ctx
  let count (e : Nat × Warp) : Nat × Warp :=
    if e.1 = wk then (e.1, { e.2 with lowered := 0 })
    else if e.2.slotKey == w.slotKey && e.2.isLowered && s.mayIssue e.2 && s.candidate e.1 then (e.1, { e.2 with lowered := e.2.lowered + 1 })
    else e
  { t with ptrs := put 0 w.slotKey w.slot t.ptrs, acted := t.acted ++ [(w.slotKey, ck)], warps := t.warps.map count }

/-- Try warps in order: the first whose instruction issues, with the device after it; none where no warp can issue. A copy of a REDUNDANT warp that comes
to a comparison has not issued yet, and its slot has not acted. -/
def State.tryWarps : List Nat → State → Host.Outcome (Option State) Fault Refusal
  | [], _ => .next none
  | wk :: t, s =>
    match s.issueWarp wk with
    | .next s' =>
      if s'.issues = s.issues then (if s'.meets = s.meets then State.tryWarps t s' else .next (some s'))
      else match find wk s.warps with
        | some w => .next (some (s.issued s' wk w))
        | none => .next (some s')
    | .fault f => .fault f
    | .refused r => .refused r

/-! ### What happens by itself -/

/-- The comparison of a pair of a REDUNDANT node that can go on (19 R385, R387–R389). -/
def State.redEvent (s : State) : Option (Host.Outcome State Fault Refusal) :=
  (s.redPairs.findSome? fun e => s.compare e.1 e.2).map .next

/-- The first event that is due: things that have happened come before the next issue. -/
def State.dueEvent (s : State) : Option (Host.Outcome State Fault Refusal) :=
  s.memEvent <|> s.redEvent <|> s.tabEvent <|> s.tileEvent <|> s.engEvent <|> s.collEvent <|> s.fabricEvent <|> s.faultEvent <|> s.salternEvent
    <|> s.smcDue <|> s.reliabilityEvent

/-! ### The end of a cycle -/

/-- A lane of a context waits on a unit for a location in a page marked EXT (17 R348, 09 R234). -/
def State.extWaits (s : State) (ck u : Nat) : Bool :=
  let at_ (y : Lane) : Option Nat := match y.st, y.wait with
    | .waiting, .poll va _ _ _ _ _ _ _ _ => some va
    | .waiting, .cwait va _ => some va
    | .waiting, .tjoin va => some va
    | _, _ => none
  s.warps.any fun e => e.2.unit == u && (find e.2.node s.nodes).elim false fun n => n.ctx == ck
    && e.2.lanes.any fun y => match at_ y with
      | some va => (match s.translate n.ctx (some n.launch) 0 va with | .ok _ a => a.ext | _ => false)
      | none => false

/-- Units and contexts of the running nodes. -/
def State.activePairs (s : State) : List (Nat × Nat) :=
  ((s.nodes.filter fun e => e.2.st == .running).flatMap fun e => e.2.allUnits.map fun u => (u, e.2.ctx)).eraseDups

/-- A warp of a context has issued on a unit in this cycle. -/
def State.actedOn (s : State) (u ck : Nat) : Bool := s.acted.any fun e => e.1 / 8 == u && e.2 == ck

/-- What a cycle does to the counts of a unit for a context (17 R348, R349). -/
def State.countIdle (s : State) (a : List (Nat × Nat) × List (Nat × Nat)) (e : Nat × Nat) : List (Nat × Nat) × List (Nat × Nat) :=
  let k := idleKey e.2 e.1
  if s.actedOn e.1 e.2 || s.cmds.any (fun c => c.unit == e.1 && c.ctx == e.2) then a
  else if s.extWaits e.2 e.1 then (a.1, put 0 k (getD 0 s.ext k + 1) a.2)
  else (put 0 k (getD 0 s.idle k + 1) a.1, put 0 k (getD 0 s.ext k) a.2)

/-- The limits of the counts of a unit for a context: a count that begins takes the context's (16 R311). -/
def State.startLimits (s : State) (counts : List (Nat × Nat)) (old lims : List (Nat × Nat)) (limit : Ctx → Nat) : List (Nat × Nat) :=
  counts.foldl (fun m e => insert e.1 (limitOf lims old e.1 (limit (s.ctx (e.1 / 1024)))) m) []

/-- A cycle ends (00 R5): every issue slot of the device has had it, whether or not it could issue. The clocks, the counts of pre-emption (17 R342), and
the watchdogs' counts. DESIGN CHOICE (log entry 2): the clocks of cores, hub and pan units, between which no ratio is architectural, run together. -/
def State.tick (s : State) : State :=
  let (idle, ext) := s.activePairs.foldl s.countIdle ([], [])
  let dec (e : Nat × Warp) : Nat × Warp := if e.2.preq then (e.1, { e.2 with pdleft := e.2.pdleft - 1 }) else e
  { s with now := s.now + 1, hub := s.hub + 1, pan := s.pan + 1, acted := [], idle := idle, ext := ext,
           idleLim := s.startLimits idle s.idle s.idleLim (·.wdlim), extLim := s.startLimits ext s.ext s.extLim (·.extlim)
           warps := s.warps.map dec }

/-- The next issue of this cycle: the first warp that can issue does; where none can, the cycle ends. The zones' records follow (19 R377). -/
def State.cycle (s : State) : Host.Outcome State Fault Refusal :=
  match State.tryWarps s.order s with
  | .fault f => .fault f
  | .refused r => .refused r
  | .next none => .next s.tick
  | .next (some t) => .next (s.track t)

/-- An input takes place: what the outside does to the device. An entry that is no event is dropped. -/
def State.input (s : State) (i : Instr) : Host.Outcome State Fault Refusal :=
  match exec i { s with cur := none } with
  | .fault _ => .next s
  | o => o

/-- What the device does next: an input, an event that is due, or the next issue of the cycle or its end. -/
def State.advance (s : State) : Host.Outcome State Fault Refusal :=
  match s.inputs with
  | i :: t => s.tracked (({ s with inputs := t } : State).input i)
  | [] => match s.dueEvent with
    | some o => s.tracked o
    | none => s.cycle

end Sys2Proof.Machine
end

