-- ==== Sys2Proof/Machine/Step.lean ====
section
/-! DEFINITION. One step of the device, and the placing of an instruction where the next step fetches. -/

namespace Sys2Proof.Machine

/-- One step: what the device does next (`State.advance`). -/
def step (s : State) : Host.Outcome State Fault Refusal := s.advance

/-- The 16 bytes of an instruction of `nbits` bits: its words in order, each with its low byte first (02 R46). -/
def fetchBytes (nbits w : Nat) : List Byte := leBytes 16 (w % 2 ^ nbits)

/-- The node, launch, context and warp under which `withFetchWord` runs its instruction: one CORE node at level 2 on core 0 with
every register, tile and bank a core has, and one warp of 32 Running lanes at address 0 (17 R332; 01 R16). -/
def probeDesc : NodeDesc := { l := 32, n := 224, t := 16, scr := 16, lvl := 2 }
def probeNode : Node := { ctx := 1, launch := 1, idx := 0, desc := probeDesc, st := .running, units := [0], banks := [], slots := [(0, 0)] }
def probeLaunch : Launch := { ctx := 1, id := 1, codesz := 32, codePages := [some 0], nodes := [1] }
def probeWarp : Warp := { node := 1, idx := 0, unit := 0, lanes := allLanes.map fun _ => {} }

/-- The second stage of the probe's context: at physical address 0 a table whose first entry leads to 8192, and there a leaf of 1 GiB
from address 0 with W and X (18 R353, R355). -/
def probeTables : List (Nat × Nat) := [(0, 1 + 8192), (8192, 3 + 2 ^ 8 + 2 ^ 9)]

/-- Memory with the probe's tables and the instruction's bytes at address 0 of the code of launch 1. -/
def probeMem (m : Memory) (nbits w : Nat) : Memory :=
  let put8 (m : Memory) (e : Nat × Nat) : Memory := (leBytes 8 e.2).zipIdx.foldl (fun m b => memSet m (e.1 + b.2) b.1) m
  (fetchBytes nbits w).zipIdx.foldl (fun m b => memSet m (codeBase 1 + b.2) b.1) (probeTables.foldl put8 m)

/-- `s` with an instruction stored where `step` fetches next. A program comes to run through a launch (log entry 25); this stands
for one that has been accepted and dispatched, on a device with nothing else to do. -/
def State.withFetchWord (s : State) (nbits w : Nat) : State :=
  let t : State := { s with
    mem := probeMem s.mem nbits w
    ctxs := [(1, {})], launches := [(1, probeLaunch)], nodes := [(1, probeNode)], warps := [(1, probeWarp)]
    held := [], atomQ := [], atomRes := [], rakeQ := [], tabRes := [], fePend := [], tileQ := [], cmds := [], deques := []
    probeDue := [], casts := [], ptrs := [], idle := [], ext := [], idleLim := [], extLim := [], views := [], poison := [], runOwner := []
    world := [(0, false)], settings := { repstep := 255 }, smc := { s.smc with stacksOut := [] }, ports := [], drainRound := 4
    reassign := [], retiring := [], ckpts := [(0, { newer := s.now, older := s.now })], inputs := [], acted := [], nextId := max 2 s.nextId }
  { t with views := [(0, (t.dieCounts 0).map (·.1))] }

end Sys2Proof.Machine
end

