-- ==== Sys2Proof/Safety.lean ====
section
/-! DEFINITION. The vocabulary of the claims: what a safe run is, when an instruction meets no obstacle, and what the end of an
issue leaves alone. -/

namespace Sys2Proof.Machine

/-- The machine can go on from `s`: its step answers a next state. -/
def Safe (s : State) : Prop := ∃ t, step s = .next t

/-- What holds of memory in every state of a run: its list has the canonical form. -/
def Inv (s : State) : Prop := Memory.wf s.mem

/-- Where the issuing warp is a sequencer, another warp opened its fork, and the fork has not been aborted: the sequencers of an aborted fork
are gone (01 R38, R39, 11 R266). -/
def Issue.forkAlive (x : Issue) : Bool :=
  match x.w.role with
  | .seq _ parent => parent != x.wk && (((find parent x.s.warps).bind (·.fork)).bind (·.fail)).isNone
  | _ => true

/-- No lane of the active path stands in a parked fragment, from which a passing access would release it (18 R361). -/
def Issue.unparked (x : Issue) : Prop := ∀ l ∈ x.act, ((x.w.frag (x.w.lane l).frag).bind (·.park)).isNone = true

/-- The current warp issues `i` in `s` and nothing stands in its way: no stall (17 R341, 02 R48), no port without a channel (01 R42), no
poisoned operand (19 R375); its node is not REDUNDANT. `x` is what the issue begins with. -/
structure Issues (s : State) (i : Instr) (p : Pred) (x : Issue) : Prop where
  starts : s.start i p = some x
  free : x.held = false
  bound : (x.once && x.unbound) = false
  clean : x.readsPoison p = false
  single : x.red = false
  alive : x.forkAlive = true

/-- Two records of a warp that agree on registers, flags, program counters and all else but lane states, waits and fragments. -/
structure Warp.SameRegs (w y : Warp) : Prop where
  rest : w = { y with lanes := w.lanes, frags := w.frags }
  count : w.lanes.length = y.lanes.length
  lanes : ∀ l, w.lane l = { y.lane l with st := (w.lane l).st, wait := (w.lane l).wait, frag := (w.lane l).frag }

/-- What a register that operand class `c` names as `r` holds of a value written to it: its low bits, and nothing in `s0` (01 R17,
02 R55). In a sequencer the V and VP fields name scalar registers (11 R266). -/
def kept (seq : Bool) (c : Cls) (r v : Nat) : Nat :=
  match c with
  | .v => if seq && r == 0 then 0 else v % 2 ^ 32
  | .vx => if seq && r == 0 then 0 else v % 2 ^ 32
  | .vp => if seq && r == 0 then 0 else v % 2 ^ 64
  | .vq => if seq then (if r = 0 then 0 else v % 2 ^ 32) else v % 2 ^ 128
  | .s => if r == 0 then 0 else v % 2 ^ 64
  | .m => v % 2 ^ 32
  | _ => 0

/-- A class with one register in each lane. -/
def perLane (c : Cls) : Bool := c == .v || c == .vx || c == .vp || c == .vq

/-- Operand `k` is one of `v240`–`v255`, which have no storage: a queue port or a cast name (01 R17, R42, R43). -/
def Issue.isPort (x : Issue) (k : Nat) : Bool := !x.w.isSeq && (x.opnd k).cls == .v && decide (240 ≤ (x.opnd k).num)

/-- The byte lies in the sector that holds STATE of a fault record that some fragment of the warp keeps open: an access that passes on a retry
writes there, and the sector is kept under its page's key (18 R363, 23 R420). -/
def Issue.inOpenRec (x : Issue) (a : Nat) : Prop :=
  ∃ g ∈ x.w.frags, ∃ r, g.park.bind (·.open_) = some r ∧ ∃ p, x.s.recPlace x.n.ctx r = some p ∧ a / 32 = (p.1 + 40) / 32

/-- What an instruction that only writes registers leaves alone. `regs` are the registers it may write, by class (0 V, 1 S, 2 M) and number, and
`ls` the lanes in which it writes V registers and flags; `ms` are the lanes whose program counter it sets, where others keep the successor. All
other registers, the lanes' trap registers and ages, memory and the device stay; results for `v240`–`v255` may leave, a retried access may close its fault record (18 R363), and a written register loses its poison. -/
structure FrameOf (x : Issue) (regs : List (Nat × Nat)) (ls ms : List Nat) (t : State) (w : Warp) : Prop where
  lanes : ∀ l, w.lane l = { x.w.lane l with
    pc := (w.lane l).pc, fflags := (w.lane l).fflags, st := (w.lane l).st, wait := (w.lane l).wait, frag := (w.lane l).frag }
  pcs : ∀ l, l ∉ ms → (w.lane l).pc = (x.w.lane l).pc
  flags : ∀ l, l ∉ ls → (w.lane l).fflags = (x.w.lane l).fflags
  vregs : ∀ r l, l < 32 → (0, r) ∉ regs ∨ l ∉ ls → w.vreg r l = x.w.vreg r l
  sregs : ∀ r, (1, r) ∉ regs → w.sreg r = x.w.sreg r
  mregs : ∀ r, (2, r) ∉ regs → w.mreg r = x.w.mreg r
  warp : w = { x.w with v := w.v, s := w.s, m := w.m, lanes := w.lanes, frags := w.frags, castFull := w.castFull }
  device : t = { x.s with mem := t.mem, keys := t.keys, ctxs := t.ctxs, launches := t.launches, casts := t.casts, nextId := t.nextId,
                          poison := t.poison, warps := insert x.wk w x.s.warps, nodes := insert x.nk x.n x.s.nodes, issues := x.s.issues + 1 }
  mem : ∀ a, ¬x.inOpenRec a → memGet t.mem a = memGet x.s.mem a
  quiet : x.unparked → t.mem = x.s.mem ∧ t.keys = x.s.keys ∧ t.ctxs = x.s.ctxs
  noPorts : x.ports = [] → t.launches = x.s.launches ∧ t.casts = x.s.casts ∧ t.nextId = x.s.nextId
  poison : ∀ p ∈ t.poison, p ∈ x.s.poison

/-- The lanes that an instruction writes: with U = 1 the lowest executing one stands for the single execution (02 R53). -/
def writers (u : Bool) (x : Issue) : List Nat := if u then x.ex.take 1 else x.ex

/-- The outcome of an instruction that only writes operand 0, in the lanes `ls` with the values and flags of `op`. -/
structure Wrote (x : Issue) (ls : List Nat) (op : Nat → Nat × Nat) (t : State) (w : Warp) : Prop
    extends FrameOf x (Issue.regsOf x.w.isSeq (x.opnd 0)) ls [] t w where
  value : x.isPort 0 = false → ∀ l ∈ ls, (x.w.isSeq = false ∧ perLane (x.opnd 0).cls = true) ∨ ls.getLast? = some l →
    w.rdReg (x.opnd 0).cls (x.opnd 0).num l = kept x.w.isSeq (x.opnd 0).cls (x.opnd 0).num (op l).1
  raised : ∀ l ∈ ls, (w.lane l).fflags = (x.w.lane l).fflags ||| (op l).2

/-- The outcome of an instruction that writes one mask register, once for the warp. -/
structure WroteMask (x : Issue) (d : Nat) (v : Nat) (t : State) (w : Warp) : Prop extends FrameOf x [(2, d)] [] [] t w where
  value : w.mreg d = v

/-- The outcome of an instruction that writes bits of one mask register: bit `l` becomes `b l`. -/
structure WroteBits (x : Issue) (d : Nat) (b : Nat → Bool) (t : State) (w : Warp) : Prop extends FrameOf x [(2, d)] [] [] t w where
  value : ∀ l, l < 32 → bitAt (w.mreg d) l = b l

/-- The outcome of an instruction that writes one scalar register, once for the warp. -/
structure WroteScalar (x : Issue) (d : Nat) (v : Nat) (t : State) (w : Warp) : Prop extends FrameOf x [(1, d)] [] [] t w where
  value : w.sreg d = if d = 0 then 0 else v

/-- The fragments of a warp are as R32 leaves them: identifiers from 1 to 32, each once, and each lane in the root or in one of them; and
each of them holds a lane. -/
structure FragsOk (w : Warp) : Prop where
  ids : ∀ g ∈ w.frags, 1 ≤ g.id ∧ g.id ≤ 32
  once : (w.frags.map (·.id)).Nodup
  homes : ∀ l, (w.lane l).frag = 0 ∨ ∃ g ∈ w.frags, g.id = (w.lane l).frag
  held : ∀ g ∈ w.frags, w.fragLanes g.id ≠ []
  size : w.lanes.length = 32

/-- What an instruction whose lanes trap or park leaves alone: registers and masks, the lanes outside `ls`, and the device but for records of the
trap sequences, in memory under the keys of their pages, and their interrupt messages. -/
structure TrapFrame (x : Issue) (ls : List Nat) (t : State) (w : Warp) : Prop where
  lanes : ∀ l, l ∉ ls → w.lane l = { x.w.lane l with st := (w.lane l).st, wait := (w.lane l).wait, frag := (w.lane l).frag }
  warp : w = { x.w with lanes := w.lanes, frags := w.frags, castFull := w.castFull }
  device : t = { x.s with mem := t.mem, keys := t.keys, ctxs := t.ctxs, launches := t.launches, poison := t.poison, interrupts := t.interrupts,
                          warps := insert x.wk w x.s.warps, nodes := insert x.nk x.n x.s.nodes, issues := x.s.issues + 1 }
  noPorts : x.ports = [] → t.launches = x.s.launches

/-- The same of an instruction that appends no record: memory is as it was. -/
structure HandlerFrame (x : Issue) (ls : List Nat) (t : State) (w : Warp) : Prop extends TrapFrame x ls t w where
  mem : ∀ a, ¬x.inOpenRec a → memGet t.mem a = memGet x.s.mem a
  quiet : x.unparked → t.mem = x.s.mem ∧ t.keys = x.s.keys ∧ t.ctxs = x.s.ctxs ∧ t.interrupts = x.s.interrupts

/-- `exec` of `i` ends in a next state, in which the issuing warp is `w`. -/
def Ends (s : State) (i : Instr) (x : Issue) (post : State → Warp → Prop) : Prop :=
  ∃ t w, exec i s = .next t ∧ find x.wk t.warps = some w ∧ post t w

end Sys2Proof.Machine
end

