-- ==== Sys2Proof/Certificates/Slice0/Obligations.lean ====
section
/-! DEFINITION. The statements for the provers. Groups of instructions of one shape stand in lists: each entry names an instruction and
what it computes in a lane. -/

namespace Sys2Proof

/-- The rational number that a finite value is. -/
def Num.rat : Num → ℚ
  | .fin s m e => (if s then -1 else 1) * (m * 2 ^ e)
  | _ => 0

/-- The largest finite value of a format. -/
def Layout.maxRat (F : Layout) : ℚ := (F.value F.maxBits).rat

end Sys2Proof

namespace Sys2Proof.Machine

/-! ### The integer class -/

/-- Every instruction of a list ends with its value in operand 0 and its flags raised, and nothing else changed. -/
def WritesAll (s : State) (p : Pred) (u : Bool) (rows : List (Instr × (Issue → Nat → Nat × Nat))) : Prop :=
  ∀ x i op, (i, op) ∈ rows → Issues s i p x → Ends s i x (Wrote x (writers u x) (op x.takePorts))

/-- Every instruction of a list ends with mask `d` as computed if some lane executes, and nothing else changed. -/
def MasksAll (s : State) (p : Pred) (d : Nat) (rows : List (Instr × (Issue → Nat))) : Prop :=
  ∀ x i v, (i, v) ∈ rows → Issues s i p x →
    Ends s i x (WroteMask x d (if x.once then v x.takePorts % 2 ^ 32 else x.w.mreg d))

/-- Every instruction of a list ends with scalar register `d` as computed if some lane executes, and nothing else changed. -/
def ScalarsAll (s : State) (p : Pred) (d : Nat) (rows : List (Instr × (Issue → Nat))) : Prop :=
  ∀ x i v, (i, v) ∈ rows → Issues s i p x →
    Ends s i x (WroteScalar x d (if x.once then v x.takePorts % 2 ^ 64 else x.w.sreg d))

/-- Every comparison of a list ends with its outcome in the mask bits of the executing lanes, or with U = 1 as 1 or 0 in a scalar
register. -/
def ComparesAll (s : State) (p : Pred) (u : Bool) (d : Nat) (rows : List (Instr × (Issue → Nat → Bool))) : Prop :=
  ∀ x i q, (i, q) ∈ rows → Issues s i p x →
    Ends s i x (if u then WroteScalar x d (match x.ex with | [] => x.w.sreg d | l :: _ => flagNat (q x.takePorts l))
      else WroteBits x d fun l => if l ∈ x.ex then q x.takePorts l else bitAt (x.w.mreg d) l)

/-- The lane exchanges end with A of each executing lane's source lane, and with VM its validity in a mask. -/
def ShufflesAll (s : State) (f : IntF) (rows : List (Instr × (Issue → Nat → Nat))) : Prop :=
  ∀ x i src, (i, src) ∈ rows → Issues s i f.p x → Ends s i x fun t w =>
    FrameOf x (Issue.regsOf x.w.isSeq (x.opnd 0) ++ if f.x = 0 then [] else [(2, f.x - 1)]) x.ex [] t w
    ∧ (x.isPort 0 = false → x.w.isSeq = false → ∀ l ∈ x.ex, w.rdReg (x.opnd 0).cls (x.opnd 0).num l =
        if laneGone x (src x.takePorts l) then 0 else x.takePorts.intVal f 1 (src x.takePorts l))
    ∧ (f.x ≠ 0 → ∀ l, l < 32 → bitAt (w.mreg (f.x - 1)) l = if l ∈ x.ex then !laneGone x (src x.takePorts l) else bitAt (x.w.mreg (f.x - 1)) l)

/-- What a CSR with one value for the warp or the context holds after a write of CSR `csr` with these values: that of the lowest executing lane. -/
def CsrOnce {α : Type} (x : Issue) (csr : Nat) (new : Nat → Nat) (n : Nat) (was : α) (g : Nat → α) : α :=
  match x.ex.head? with
  | some l => if csr = n then g (new l) else was
  | none => was

/-! ### Memory -/

/-- The issue with requests of its lanes sent: each is held in the core under a new number (05 R137). -/
def Issue.sent (x : Issue) (rs : List (Nat × Bool × ReqKind)) : Issue :=
  { x with s := { x.s with
      held := x.s.held ++ rs.zipIdx.map fun e =>
        { id := x.s.nextId + e.2, who := ⟨x.wk, e.1.1⟩, ctx := x.n.ctx, node := x.nk, unit := x.w.unit, issued := x.s.clock x.w.unit,
          hold := if x.ctx.hold then Config.holdCycles else 0, dev := e.1.2.1, kind := e.1.2.2 }
      nextId := x.s.nextId + rs.length } }

/-- What lane `l` reads at checked pieces, and that nothing of it is poisoned. -/
def Issue.reads (x : Issue) (l : Nat) (ps : List Piece) : Nat :=
  ofLe (ps.flatMap fun p => (List.range p.n).map fun i => x.laneByte l p.tag (p.pa + i))
def Issue.sound (x : Issue) (ps : List Piece) : Prop := x.s.badRead x.w.unit ps = false

/-- Each of these lanes forms the address `va` and its access passes every check (09 R235), with the pieces `ps`. -/
def Issue.Reaches (x : Issue) (ls : List Nat) (k : AccessKind) (n : Nat) (adr : Nat → Option Nat) (va : Nat → Nat)
    (ps : Nat → List Piece) : Prop :=
  ∀ l ∈ ls, adr l = some (va l) ∧ x.s.checkAccess x.n.ctx (some x.n.launch) x.lvl k (va l) n = .ok (ps l)

/-- The requests of lanes that store. -/
def storesOf (ls : List Nat) (n : Nat) (ps : Nat → List Piece) (v : Nat → Nat) : List (Nat × Bool × ReqKind) :=
  ls.flatMap fun l => (Issue.pieceCells (ps l) (leBytes n (v l))).map fun c => (l, (ps l).any fun p => decide (2 ≤ p.mt), .store c.1 c.2)

/-- The registers of operand 0 wait for requests that follow one another, one for each lane. -/
def Issue.awaits (x : Issue) (ls : List Nat) (first : Nat) : Warp :=
  { x.w with pend := x.w.pend ++ ls.zipIdx.flatMap fun e =>
      (Issue.regsOf x.w.isSeq (x.opnd 0)).map fun r => { cls := r.1, num := r.2, lanes := [e.1], req := first + e.2 } }

/-- The memory forms with a displacement: their lanes and addresses. -/
def Issue.memAdr (x : Issue) (d : Nat → Int) (l : Nat) : Option Nat := formAddr (x.val 1 l) (d l)

/-! ### Tables -/

/-- The issue with one table request of its lanes sent: the registers that the instruction writes wait for it, and fetch too if `susp`. -/
def Issue.asks (x : Issue) (susp : Bool) (ls : List TabLane) : Issue :=
  { x.sent [((ls.map (·.lane)).headD 0, false, .table { instr := x.i, at_ := x.at_, lanes := ls })] with
    w := { x.w with
      suspended := if susp then some x.s.nextId else x.w.suspended
      pend := x.w.pend ++ ((x.i.opnds.filter fun o => o.wr).flatMap (Issue.regsOf x.w.isSeq)).map fun p =>
        { cls := p.1, num := p.2, lanes := ls.map (·.lane), req := x.s.nextId } } }

/-- The steps of 10 R241 that precede those of each instruction. -/
def Issue.admits (x : Issue) (t : Nat) (fits : Desc → Bool) (rest : Table → Except (Nat × Nat) TabLane) : Except (Nat × Nat) TabLane :=
  match tabCheck x t fits with
  | some c => .error c
  | none => rest (tabAt x t)

/-- A key width that must be the table's (10 R241 step 4). -/
def keyWidth (ok : Bool) (e : TabLane) : Except (Nat × Nat) TabLane := if ok then .ok e else .error (8, 4)

/-- An operand in the scratchpad partition, of which the first `skip` bytes are not read (10 R241 step 7, R244). -/
def Issue.operand (x : Issue) (off skip n align : Nat) (go : List Byte → TabLane) : Except (Nat × Nat) TabLane :=
  if off % align ≠ 0 then .error (2, 4) else if x.n.partSize < off + n then .error (3, 0x21)
  else .ok (go (x.s.spBytes x.w.unit (x.n.partBase x.w.unit + off + skip) (n - skip)))

/-- The entries of an ordered index as 06 R146 keeps them: in order, and each separator above the entries of the leaves before it and not above those of
the leaves after it. -/
structure TreeOk (uniq : Bool) (t : Tree) : Prop where
  sorted : t.entries.Pairwise fun a b => a.lt uniq b = true
  ordered : t.seps.Pairwise fun a b => a.le uniq b = true
  count : t.leaves = [] ∧ t.seps = [] ∨ t.seps.length + 1 = t.leaves.length
  below : ∀ i a b, t.seps[i]? = some b → a ∈ (t.leaves.take (i + 1)).flatten → a.lt uniq b = true
  above : ∀ i a b, t.seps[i]? = some b → a ∈ (t.leaves.drop (i + 1)).flatten → b.le uniq a = true

/-! ### Traps and faults -/

/-- A record lies in `t` in the slot of position `p` of a sequence, where `s` maps that slot and it lies in one page (06 R161, 18 R352). -/
def LiesAt (s t : State) (c : Ctx) (tb : Table) (p : Nat) (bs : List Byte) : Prop :=
  ∀ pa tag, s.slotPlace c tb (tb.posOff p) = some (pa, tag) → tb.posOff p % 8192 + bs.length ≤ 8192 → pa + bs.length ≤ linkBase →
    t.rdBytes tag pa bs.length = bs

/-- What an instruction whose lanes `ls` all take a user trap with these codes ends in, where the warp has a handler and none of them is in it (07
R174): a new fragment for each source fragment, its lanes Running at UTVEC in the handler, with UCAUSE and UEPC written. -/
def TrapsTo (s : State) (i : Instr) (x : Issue) (ls : List Nat) (code : Nat × Nat) : Prop :=
  x.w.isSeq = false → FragsOk x.w → x.w.utvec ≠ 0 → (∀ l ∈ ls, (x.w.lane l).inHandler = false) →
    Ends s i x fun t w =>
      HandlerFrame x ls t w
      ∧ (∀ l ∈ ls, w.lane l = { x.w.lane l with
          st := .running, inHandler := true, pc := x.w.utvec.toNat, ucause := code.1 + code.2 * 256, uepc := BitVec.ofNat 32 x.at_, frag := (w.lane l).frag })
      ∧ (∀ l ∈ ls, ∃ g, w.frag (w.lane l).frag = some g ∧ g.trap = true)
      ∧ ∀ l ∈ ls, ∀ k, k < 32 → (x.w.lane k).st ≠ .exited → (x.w.lane k).st ≠ .never → x.unparked →
          ((w.lane k).frag = (w.lane l).frag ↔ k ∈ ls ∧ (x.w.lane k).frag = (x.w.lane l).frag)

/-- What an instruction whose lanes `ls`, all of one fragment, take a trap with these codes ends in where the trap escalates at a user or guest supervisor node (07
R174, 16 R314–R316): the lanes are held, Parked at the instruction, in a fragment that carries the escalation, and its record is appended to the trap
sequence of the level above, or waits while that is full. `dbl` for a double trap. -/
def EscalatesTo (s : State) (i : Instr) (x : Issue) (ls : List Nat) (code : Nat × Nat) (dbl : Bool) : Prop :=
  x.w.isSeq = false → FragsOk x.w → x.unparked → x.lvl < 2 → ls ≠ [] → (∀ l ∈ ls, (x.w.lane l).frag = (x.w.lane (ls.headD 0)).frag) →
    (∀ l ∈ ls, (x.w.lane l).inHandler = dbl) → (dbl = false → x.w.utvec = 0) →
    Ends s i x fun t w =>
      let arg := fun l => if dbl then (x.w.lane l).uepc.toNat else x.at_ % 2 ^ 32
      TrapFrame x ls t w
      ∧ (∀ l ∈ ls, w.lane l = { x.w.lane l with
          st := .parked, pc := x.at_, frag := (w.lane l).frag
          ucause := if dbl then (x.w.lane l).ucause else code.1 + code.2 * 256
          uepc := if dbl then (x.w.lane l).uepc else BitVec.ofNat 32 x.at_ })
      ∧ ∃ (g : Frag) (e : Escalation), (∀ l ∈ ls, (w.lane l).frag = g.id) ∧ w.frag g.id = some g ∧ g.esc = some e
        ∧ e.cause = code.1 ∧ e.sub = code.2 ∧ e.epc = x.at_ ∧ e.dbl = dbl ∧ e.gcallD = none ∧ (∀ l ∈ ls, find l e.args = some (arg l))
        ∧ match x.s.appendTrap x.n.ctx (if x.lvl = 0 then 8 else 9) (x.trapRec g.id ls code.1 code.2 x.at_ dbl (ls.map fun l => (l, arg l))) with
          | some (u, r) => e.ref = some r ∧ t.mem = u.mem ∧ t.keys = u.keys ∧ t.ctxs = u.ctxs ∧ t.interrupts = u.interrupts
          | none => e.ref = none ∧ t.mem = x.s.mem ∧ t.keys = x.s.keys ∧ t.ctxs = x.s.ctxs ∧ t.interrupts = x.s.interrupts

/-- What an instruction whose lanes `ls`, all of one fragment, fault ends in (18 R359–R361, R363): they are Parked at the instruction in a new fragment that
retries after 64 cycles; a first-stage fault appends a record to the trap sequence of the level's handler, or none while that is full. -/
def ParksTo (s : State) (i : Instr) (x : Issue) (ls : List Nat) (f : Nat → FaultInfo) : Prop :=
  x.w.isSeq = false → FragsOk x.w → x.unparked → ls ≠ [] → (∀ l ∈ ls, (x.w.lane l).frag = (x.w.lane (ls.headD 0)).frag) →
    Ends s i x fun t w =>
      let f0 := f (ls.headD 0)
      TrapFrame x ls t w
      ∧ (∀ l ∈ ls, w.lane l = { x.w.lane l with st := .parked, pc := x.at_, frag := (w.lane l).frag })
      ∧ ∃ (g : Frag) (p : Park), (∀ l ∈ ls, (w.lane l).frag = g.id) ∧ w.frag g.id = some g ∧ g.park = some p
        ∧ p.d = 64 ∧ p.due = s.clock x.w.unit + 64 ∧ p.fault = f0 ∧ (∀ l ∈ ls, find l p.vas = some (f l).va)
        ∧ match (if 0x18 ≤ f0.code then none else x.s.appendTrap x.n.ctx (if x.lvl = 2 then 9 else 8)
              (x.trapRec g.id ls f0.code (f0.level + f0.kind * 4) x.at_ false (ls.map fun l => (l, (f l).va)))) with
          | some (u, r) => p.open_ = some r ∧ t.mem = u.mem ∧ t.keys = u.keys ∧ t.ctxs = u.ctxs ∧ t.interrupts = u.interrupts
          | none => p.open_ = none ∧ t.mem = x.s.mem ∧ t.keys = x.s.keys ∧ t.ctxs = x.s.ctxs ∧ t.interrupts = x.s.interrupts

/-! ### Tiles -/

/-- A tile instruction of a node (11 R264): without an executing lane it has no effect; otherwise it is handed to its engine as the work that its checks give, or
traps the active path with the first check that fails. -/
def TilesAll (s : State) (p : Pred) (rows : List (Instr × (Issue → Except (Nat × Nat) TileWork))) : Prop :=
  (∀ u o n, s.spPoisoned u o n = false) → ∀ x i op, (i, op) ∈ rows → Issues s i p x →
    (x.ex = [] → Ends s i x (FrameOf x [] [] []))
    ∧ (x.ex ≠ [] → match op x.takePorts with
      | .ok w => Ends s i x (FrameOf { x with s := { x.s with
          tileQ := x.s.tileQ ++ [{ id := s.nextId, unit := x.w.unit, node := x.nk, warp := x.wk, lane := x.elected, work := w }]
          nextId := s.nextId + 1 } } [] [] [])
      | .error c => TrapsTo s i x x.act c)

/-- The vote over the format words of the active path, and their reserved values (04 R101, 11 R264). -/
def Issue.votes (x : Issue) (k : Nat) (go : FmtWord → Except (Nat × Nat) TileWork) : Except (Nat × Nat) TileWork :=
  if x.act.any fun l => x.val k l % 2 ^ 32 != x.elect32 k then .error (5, 1)
  else if (FmtWord.ofNat (x.elect32 k)).sound then go (FmtWord.ofNat (x.elect32 k)) else .error (5, 2)

/-- The record of a format word that its instruction uses, and the groups of its scales and zero points (11 R281, steps 3 and 4). -/
def Issue.recorded (x : Issue) (pri : Nat) (t : Fmt) (plain : Bool) (sh : Shape) (o : Nat)
    (go : ParamRec → GroupVals → Except (Nat × Nat) TileWork) : Except (Nat × Nat) TileWork :=
  match x.record pri with
  | none => .error (5, 4)
  | some r =>
    let g := groupSize r.gs
    let groups := ceilDiv sh.cols g
    let entries := (List.range sh.rows).all fun i => (List.range groups).all fun k => x.entryIn t r ((o + i) * r.ng + k)
    let good := r.sound t t.isAsym && entries && (!plain || r.bound == 0 && r.rm == 0)
    if pri ≠ 0 ∧ good = false then .error (5, 4)
    else if (r.sc || r.zp) = true ∧ sh.cols % g ≠ 0 then .error (5, 3)
    else go r (if r.sc || r.zp then x.groupVals t r.sc r.zp r.soff r.zoff g r.ng groups o sh.rows else {})

/-- An array of the partition whose offset a register gives: a multiple of `al`, and within the partition (11 R275, R281). -/
def Issue.arrayAt (x : Issue) (off n al : Nat) (go : Except (Nat × Nat) TileWork) : Except (Nat × Nat) TileWork :=
  if off % al ≠ 0 then .error (2, 4) else if x.n.partSize < off + n then .error (3, 0x21) else go

/-- A legal shape (11 R260). -/
structure Shape.Legal (h : Shape) : Prop where
  w : h.w = 4 ∨ h.w = 8 ∨ h.w = 16 ∨ h.w = 32
  rows : 1 ≤ h.rows ∧ h.rows ≤ 64
  cols : 1 ≤ h.cols
  size : h.rows * h.pitch ≤ 16384

/-! ### Engine commands -/

/-- The checks of an engine command: alignment, reach within the partition, fields (12 R288). -/
def Issue.reach (x : Issue) (off n : Nat) (go : Except (Nat × Nat) (Cmd → Cmd)) : Except (Nat × Nat) (Cmd → Cmd) :=
  if x.n.partSize < off + n then .error (3, 0x21) else go
def orTrap (bad : Bool) (c : Nat × Nat) (go : Except (Nat × Nat) (Cmd → Cmd)) : Except (Nat × Nat) (Cmd → Cmd) := if bad then .error c else go
def orElse (e : Option (Nat × Nat)) (go : Except (Nat × Nat) (Cmd → Cmd)) : Except (Nat × Nat) (Cmd → Cmd) :=
  match e with | some c => .error c | none => go

/-- A command enters the queue of its unit behind its acceptance store of 0 to its completion word at `pa` (12 R286). -/
def Issue.commands (x : Issue) (acq : Bool) (q : Piece) (mk : Cmd → Cmd) : Issue :=
  let done := x.takePorts.val 3 x.elected
  let y := x.sent [(x.elected, false, .store q.tag ((List.range 8).map fun i => (q.pa + i, 0)))]
  let c : Cmd := { instr := x.i, unit := x.w.unit, node := x.nk, ctx := x.n.ctx, launch := x.n.launch, lvl := x.lvl, warp := x.wk, widx := x.w.idx
                   lane := x.elected, lanes := x.act, at_ := x.at_, acq := acq, doneVa := done, donePa := q.pa, doneTag := q.tag }
  { y with s := { y.s with cmds := y.s.cmds ++ [{ mk c with id := y.s.nextId, issued := x.s.clock x.w.unit }], nextId := y.s.nextId + 1 } }

/-- The end of an issue whose checks gave `op`: it traps the active path; or its completion word traps or faults; or the command is issued. -/
def IssuesCommand (s : State) (i : Instr) (x : Issue) (acq : Bool) (op : Except (Nat × Nat) (Cmd → Cmd)) : Prop :=
  match op with
  | .error c => TrapsTo s i x x.act c
  | .ok mk =>
    let got := x.takePorts.s.checkAccess x.n.ctx (some x.n.launch) x.lvl { write := true, onlyN := true } (x.takePorts.val 3 x.elected) 8
    (∀ c b, got = .trap c b → TrapsTo s i x x.act (c, b))
    ∧ (∀ g, got = .fault g [] → ParksTo s i x x.act fun _ => g)
    ∧ ∀ q, got = .ok [q] → Ends s i x (FrameOf (x.commands acq q mk) [] [] [])

/-- Every command of a list is issued so, if some lane executes; otherwise it has no effect. -/
def CommandsAll (s : State) (p : Pred) (acq : Bool) (rows : List (Instr × (Issue → Except (Nat × Nat) (Cmd → Cmd)))) : Prop :=
  (∀ u o n, s.spPoisoned u o n = false) → ∀ x i op, (i, op) ∈ rows → Issues s i p x →
    (x.ex = [] → Ends s i x (FrameOf x [] [] []))
    ∧ (x.ex ≠ [] → IssuesCommand s i x acq (orTrap (x.takePorts.val 3 x.elected % 8 != 0) (2, 1) (op x.takePorts)))

/-- A started command that can be worked on, the only one of its number, whose acceptance store has left its core. -/
structure Working (s : State) (c : Cmd) : Prop where
  mem : c ∈ s.cmds
  only : ∀ q ∈ s.cmds, q.id = c.id → q = c
  started : c.started = true
  ready : c.ready = true
  free : c.park = none ∧ c.code = none ∧ c.aborted = false
  accepted : ∀ r ∈ s.held, r.id + 1 ≠ c.id
  word : c.donePa + 8 ≤ linkBase

/-- The command is gone, and its completion word holds the code `k` (12 R287). -/
structure Completes (s : State) (c : Cmd) (k : Nat) (t : State) : Prop where
  gone : t.cmds = s.cmds.filter fun q => q.id != c.id
  word : t.rdBytes c.doneTag c.donePa 8 = leBytes 8 (if k = 0 then 1 else 2 ^ 31 + k)

/-- Its node is one that is not REDUNDANT, with a partition of its own on the command's unit. -/
structure OnNode (s : State) (c : Cmd) (n : Node) : Prop where
  node : find c.node s.nodes = some n
  single : n.desc.red = false
  fits : n.partBase c.unit + n.partSize ≤ 2 ^ 20


/-! ### Collectives -/

/-- An access of a command that passes its checks with these pieces; none is made of no bytes. -/
def State.passes (s : State) (c : Cmd) (wr : Bool) (va n : Nat) (ps : List Piece) : Prop :=
  if n = 0 then ps = [] else s.cmdCheck c wr va n = .ok ps

/-- Pieces under one key, of distinct bytes of memory that miss a command's completion word. -/
structure Clear (c : Cmd) (ps : List Piece) : Prop where
  once : (piecesAddrs ps).Nodup
  tag : ∀ a ∈ piecesAddrs ps, a.2 = c.doneTag
  memory : ∀ a ∈ piecesAddrs ps, a.1 < linkBase ∧ (a.1 < c.donePa ∨ c.donePa + 8 ≤ a.1)

/-- The bytes at pieces. -/
def State.bytesAt (s : State) (ps : List Piece) : List Byte := (piecesAddrs ps).map fun a => s.rdByte a.2 a.1

/-- A collective that goes on: its command is there, not at its end, with these particulars. -/
def Going (t : State) (c : Cmd) (q : Coll → Prop) : Prop :=
  ∃ c' k', c' ∈ t.cmds ∧ c'.id = c.id ∧ c'.coll = some k' ∧ c'.code = none ∧ c'.park = none ∧ q k'

/-- Of every chunk below `n` some other member's contribution has bytes: no chunk can be worked on before anything arrives. -/
def Coll.awaiting (k : Coll) (n : Nat) : Prop := ∀ i, i < n → ∃ r ∈ k.others, k.share i r ≠ 0

/-- A member shows every mark to be 1 under the EPOCH in use (21 R413). -/
def Coll.showsAll (k : Coll) (q : PeerMarks) (r : Nat) : Prop := q.rank = r ∧ q.epoch = k.epoch ∧ ∀ i, i < k.chunks → i ∈ q.marks

/-- Nothing is asked of a collective by the link table: it has acted on every settling, and no tree set stands to be adopted. -/
def State.calm (s : State) (k : Coll) : Prop := k.adopt = none ∧ k.agreedSet = none ∧ (s.drainRound ≠ 4 ∨ s.settlings ≤ k.seen)

/-! ### Launches and nodes -/

/-- A record of 64 bytes is appended to the completion sequence of a context, and signalled (17 R334, 21 R400). -/
def Recorded (s t : State) (ck : Nat) (bs : List Byte) : Prop :=
  (ck, 0) ∈ t.interrupts ∧ ∀ tb, find 4 (s.ctx ck).tables = some tb →
    (∃ tb', find 4 (t.ctx ck).tables = some tb' ∧ tb'.r = tb.r + 1) ∧ LiesAt s t (s.ctx ck) tb tb.r bs

/-- A pre-emption request has reached a node (17 R342): its warps see it, with the limit of its launch. -/
def Asked (s t : State) (k : Nat) (n : Node) (p : Preempt) : Prop :=
  find k t.nodes = some { n with pre := some p }
  ∧ t.warps = s.warps.map fun e => if e.2.node = k then (e.1, { e.2 with preq := true, pdleft := (find n.launch s.launches).elim 65536 (·.pdl) }) else e


/-- A command of Saltern that it can serve: the only one of its number, whose acceptance store has left its core. -/
structure Served (s : State) (c : Cmd) : Prop where
  mem : c ∈ s.cmds
  only : ∀ q ∈ s.cmds, q.id = c.id → q = c
  accepted : ∀ r ∈ s.held, r.id + 1 ≠ c.id
  word : c.donePa + 8 ≤ linkBase

/-- `n` bytes of a list from a place on, as a number. -/
def numAt (bs : List Byte) (a n : Nat) : Nat := ofLe ((bs.drop a).take n)


/-- The SMC has committed a record to its event sequence (23 R430). -/
def Noted (s t : State) (kind info block data : Nat) : Prop :=
  (0, 3) ∈ t.interrupts ∧ t.events.r = s.events.r + 1 ∧ ∀ pa, s.events.blockPa (s.events.posOff s.events.r) = some pa →
    ∀ j, j < 64 → memGet t.mem (pa + j) = (leBytes 64 (kind + info * 2 ^ 8 + block * 2 ^ 48 + s.events.r * 2 ^ 192 + data * 2 ^ 256)).getD j 0

/-- A node has been killed, the first of its launch, with what the launch's record will tell (01 R45, 17 R334). -/
def Killed (s t : State) (k reason cause : Nat) : Prop :=
  (∀ e ∈ t.warps, e.2.node ≠ k) ∧ (∃ m, find k t.nodes = some m ∧ m.st = .failed)
  ∧ ∀ n l, find k s.nodes = some n → find n.launch s.launches = some l → l.firstFail = none →
      ∃ l', find n.launch t.launches = some l' ∧ l'.firstFail = some n.idx ∧ l'.reason = reason ∧ l'.cause = cause

/-- The 8-byte entry at `a` points to a table (18 R353). -/
def State.pointsTo (s : State) (a table : Nat) : Prop :=
  Pte.ofNat (s.rdEntry a) = { Pte.ofNat 0 with v := true, oa := table }


/-- `u` is the device `s` once the read-duplicate page of an IPA, mapped by the leaf at `a`, has one copy (18 R373): in 64 KiB leaves, of which the one of the
page maps the owner's copy, where one is given, with RD = 0. -/
def State.Collapsed (s : State) (ipa a level : Nat) (owner : Option Nat) (tables : Nat) (u : State) : Prop :=
  let old := Pte.ofNat (s.rdEntry a)
  let sole := fun (e : Pte) => { e with oa := owner.getD e.oa, rd := false }
  let split := fun (table oa first : Nat) => ∀ g j, g < 32 → j < 8 →
    let e : Pte := { old with s64 := true, oa := oa + g * 2 ^ 16 }
    Pte.ofNat (u.rdEntry (table + 64 * g + 8 * j)) = if first + g * 2 ^ 16 = ipa / 2 ^ 16 * 2 ^ 16 then sole e else e
  u = { s with mem := u.mem }
  ∧ (level = 3 → old.s64 = false → Pte.ofNat (u.rdEntry a) = sole old)
  ∧ (level = 3 → old.s64 = true → ∀ j, j < 8 → Pte.ofNat (u.rdEntry (a / 64 * 64 + 8 * j)) = sole old)
  ∧ (level = 2 → tables % 8192 = 0 → tables + 8192 ≤ 2 ^ 52 → old.oa % 2 ^ 21 = 0 → a + 8 ≤ tables ∨ tables + 8192 ≤ a →
      u.pointsTo a tables ∧ split tables old.oa (ipa / 2 ^ 21 * 2 ^ 21))
  ∧ (level = 1 → tables % 8192 = 0 → tables + 513 * 8192 ≤ 2 ^ 52 → old.oa % 2 ^ 30 = 0 → a + 8 ≤ tables ∨ tables + 513 * 8192 ≤ a →
      u.pointsTo a tables ∧ ∀ i, i < 512 → u.pointsTo (tables + 8 * i) (tables + 8192 * (i + 1))
        ∧ split (tables + 8192 * (i + 1)) (old.oa + i * 2 ^ 21) (ipa / 2 ^ 30 * 2 ^ 30 + i * 2 ^ 21))

/-- The link of a port of this device, as an entry of the link table: the lower end first (21 R402). -/
def State.linkEntry (s : State) (p peer peerPort ver : Nat) (up : Bool) : LinkEntry :=
  if s.settings.devid < peer ∨ s.settings.devid = peer ∧ p < peerPort then ⟨ver, up, s.settings.devid, p, peer, peerPort⟩
  else ⟨ver, up, peer, peerPort, s.settings.devid, p⟩

/-- An update has been applied: the row of its entry holds it, a drain round has started, and a link that it marks down is dead for the collectives under
way (21 R402, R403, 22 R419). -/
def Applied (s t : State) (e : LinkEntry) : Prop :=
  let row := e.deva * 24 + e.porta
  getD 0 t.links row = 1 + e.deva * 2 + e.porta * 2 ^ 13 + e.devb * 2 ^ 18 + e.portb * 2 ^ 30 + (if e.up then 2 ^ 35 else 0) + e.ver % 2 ^ 32 * 2 ^ 96
  ∧ (∀ r, r ≠ row → getD 0 t.links r = getD 0 s.links r) ∧ t.drainRound = 0 ∧ t.drainDue = s.hub + 16384
  ∧ t.cmds = if e.up then s.cmds else s.cmds.map fun c => { c with coll := c.coll.map fun k =>
      { k with deadEdges := k.deadEdges ++ [(e.deva, e.porta, e.devb, e.portb)] } }

/-- The version stored of an entry's link. -/
def State.stored (s : State) (e : LinkEntry) : Nat := bitsAt (getD 0 s.links (e.deva * 24 + e.porta)) 96 32


/-- A state from which a device starts again (23 R426): as after reset, but for what stands outside it and the model's own counters. -/
def State.anew (s : State) (smc : Smc) : State := { State.reset with inputs := s.inputs, late := s.late, fresh := s.fresh, smc := smc }

/-- A field of an image (23 R425). -/
def field (bs : List Byte) (a n : Nat) : Nat := ofLe ((bs.drop a).take n)

/-- The host's request is answered, and the state is otherwise `u` (21 R398). -/
def Answered (s : State) (q : HostReq) (u : State) (code : Nat) (data : List Byte) : Prop :=
  exec (.hostRequest q) s = .next { u with replies := insert q.queue { code := code, data := data } u.replies }


/-- A device on which nothing is due and no input waits, with a warp that is the first to be tried, its node and the address that it issues at (01 R25, 17 R341). -/
structure Chosen (s : State) (wk : Nat) (rest : List Nat) (w : Warp) (n : Node) (pc : Nat) : Prop where
  inputs : s.inputs = []
  quiet : s.dueEvent = none
  first : s.order = wk :: rest
  warp : find wk s.warps = some w
  node : find w.node s.nodes = some n
  pc : w.issuePc = some pc
  awake : w.suspended = none

/-- Its instruction's bytes lie in the code of its launch, and can be fetched (02 R50, 18 R359). -/
def State.fetchable (s : State) (n : Node) (pc len : Nat) : Prop :=
  ∀ o, o = 0 ∨ o = len - 1 → ∃ pa a, s.translate n.ctx (some n.launch) 2 (2 ^ 50 + pc + o) = .ok pa a

end Sys2Proof.Machine

open Sys2Proof Sys2Proof.Machine

/-- 07 R181: the sum, difference, product, or product and sum, of operands read as signed values (unsigned under USAT), fitted to the
result under OV; and what fitting is.
07 R182: the high half of the product, the quotient and the remainder, with the case of a divisor of 0. -/
def Obligations.IntegerArithmetic : Prop :=
  ((∀ (s : State) (f : IntF),
    let a := fun (x : Issue) l => arithVal f.ov (IntF.width f) (x.intVal f 1 l)
    let b := fun (x : Issue) l => arithVal f.ov (IntF.width f) (x.intVal f 2 l)
    let c := fun (x : Issue) l => arithVal f.ov (IntF.width f) (x.intVal f 3 l)
    let i := arithVal f.ov (IntF.width f) (Issue.immVal f)
    WritesAll s f.p f.u
      [(.iadd8 f, fun x l => fit f.ov (IntF.width f) (a x l + b x l)), (.iadd12 f, fun x l => fit f.ov (IntF.width f) (a x l + i)),
       (.isub8 f, fun x l => fit f.ov (IntF.width f) (a x l - b x l)), (.isub12 f, fun x l => fit f.ov (IntF.width f) (a x l - i)),
       (.imul8 f, fun x l => fit f.ov (IntF.width f) (a x l * b x l)), (.imul12 f, fun x l => fit f.ov (IntF.width f) (a x l * i)),
       (.imad f, fun x l => fit f.ov (IntF.width f) (a x l * b x l + c x l))])
  ∧ ∀ (ov : Ov) (w : Nat) (t : Int), 0 < w →
      let lo : Int := if ov = .usat then 0 else -2 ^ (w - 1)
      let hi : Int := if ov = .usat then 2 ^ w - 1 else 2 ^ (w - 1) - 1
      fit ov w t = if ov = .wrap then ((t % 2 ^ w).toNat, 0)
        else if t < lo then ((lo % 2 ^ w).toNat, fSAT) else if hi < t then ((hi % 2 ^ w).toNat, fSAT) else ((t % 2 ^ w).toNat, 0))
  ∧ ((∀ (s : State) (f : IntF),
    let w := IntF.width f
    let a := fun (x : Issue) l => x.intVal f 1 l
    let b := fun (x : Issue) l => x.intVal f 2 l
    let i := Issue.immVal f
    WritesAll s f.p f.u
      [(.imulh8 f, fun x l => (mulHigh f.uns w (a x l) (b x l), 0)), (.imulh12 f, fun x l => (mulHigh f.uns w (a x l) i, 0)),
       (.idiv8 f, fun x l => divQuot f.uns w (a x l) (b x l)), (.idiv12 f, fun x l => divQuot f.uns w (a x l) i),
       (.idivRem8 f, fun x l => divRem f.uns w (a x l) (b x l)), (.idivRem12 f, fun x l => divRem f.uns w (a x l) i)])
  ∧ ∀ (uns : Bool) (w a b : Nat), 0 < w → a < 2 ^ w → b < 2 ^ w →
      (mulHigh uns w a b : Int) = (unsVal uns w a * unsVal uns w b) / 2 ^ w % 2 ^ w
      ∧ divQuot uns w a 0 = (2 ^ w - 1, fDZ) ∧ divRem uns w a 0 = (a, fDZ)
      ∧ (b ≠ 0 → divQuot uns w a b = (((unsVal uns w a).tdiv (unsVal uns w b) % 2 ^ w).toNat, 0)
          ∧ divRem uns w a b = (((unsVal uns w a).tmod (unsVal uns w b) % 2 ^ w).toNat, 0))
      ∧ (uns = false → 1 < w → divQuot uns w (2 ^ (w - 1)) (2 ^ w - 1) = (2 ^ (w - 1), 0) ∧ divRem uns w (2 ^ (w - 1)) (2 ^ w - 1) = (0, 0)))

/-- 07 R183: the lesser, the greater, and the absolute value.
07 R184: shifts and rotation, with the count modulo 256. -/
def Obligations.IntegerExtremesAndShifts : Prop :=
  ((∀ (s : State) (f : IntF),
    let w := IntF.width f
    let a := fun (x : Issue) l => x.intVal f 1 l
    let b := fun (x : Issue) l => x.intVal f 2 l
    let i := Issue.immVal f
    WritesAll s f.p f.u
      [(.imin8 f, fun x l => (minOf f.uns w (a x l) (b x l), 0)), (.imin12 f, fun x l => (minOf f.uns w (a x l) i, 0)),
       (.imax8 f, fun x l => (maxOf f.uns w (a x l) (b x l), 0)), (.imax12 f, fun x l => (maxOf f.uns w (a x l) i, 0)),
       (.iabs f, fun x l => absOf (f.ov == .sat) w (a x l))])
  ∧ ∀ (uns sat : Bool) (w a b : Nat), 0 < w → a < 2 ^ w → b < 2 ^ w →
      unsVal uns w (minOf uns w a b) = min (unsVal uns w a) (unsVal uns w b)
      ∧ unsVal uns w (maxOf uns w a b) = max (unsVal uns w a) (unsVal uns w b)
      ∧ absOf sat w a = if a = 2 ^ (w - 1) then (if sat then (2 ^ (w - 1) - 1, fSAT) else (2 ^ (w - 1), 0))
          else ((sxInt w a).natAbs % 2 ^ w, 0))
  ∧ ((∀ (s : State) (f : IntF),
    let w := IntF.width f
    let a := fun (x : Issue) l => x.intVal f 1 l
    let n := fun (x : Issue) l => x.narrowVal l
    let i := f.imm.toNat
    WritesAll s f.p f.u
      [(.shl8 f, fun x l => (shiftL w (a x l) (n x l), 0)), (.shl12 f, fun x l => (shiftL w (a x l) i, 0)),
       (.shr8 f, fun x l => (shiftR w (a x l) (n x l), 0)), (.shr12 f, fun x l => (shiftR w (a x l) i, 0)),
       (.shrSx8 f, fun x l => (shiftRA w (a x l) (n x l), 0)), (.shrSx12 f, fun x l => (shiftRA w (a x l) i, 0)),
       (.rot8 f, fun x l => (rotL w (a x l) (n x l), 0)), (.rot12 f, fun x l => (rotL w (a x l) i, 0))])
  ∧ ∀ (w a b : Nat), (w = 32 ∨ w = 64) → a < 2 ^ w →
      let n := b % 256
      shiftL w a b = (if w ≤ n then 0 else a * 2 ^ n % 2 ^ w)
      ∧ shiftR w a b = a / 2 ^ n
      ∧ (shiftRA w a b : Int) = sxInt w a / 2 ^ n % 2 ^ w
      ∧ ∀ k, k < w → bitAt (rotL w a b) ((k + n) % w) = bitAt a k)

/-- 07 R185, R186: the bitwise functions, the counts, and the bit fields.
07 R187, R188, R189: selection, moves, and the ranks within a mask. `SEL` is executed by every lane of the active path. -/
def Obligations.IntegerBitsAndMoves : Prop :=
  ((∀ (s : State) (f : IntF),
    let w := IntF.width f
    let a := fun (x : Issue) l => x.intVal f 1 l
    let b := fun (x : Issue) l => x.intVal f 2 l
    let c := fun (x : Issue) l => x.intVal f 3 l
    let n := fun (x : Issue) l => x.narrowVal l
    WritesAll s f.p f.u
      [(.bool8 f, fun x l => (boolFn f.fn w (a x l) (b x l) 0, 0)), (.bool12 f, fun x l => (boolFn f.fn w (a x l) (Issue.immVal f) 0, 0)),
       (.bool16 f, fun x l => (boolFn f.fn w (a x l) (b x l) (c x l), 0)), (.popc f, fun x l => (popCount w (a x l), 0)),
       (.clz f, fun x l => (leadZeros w (a x l), 0)), (.brev f, fun x l => (revBits w (a x l), 0)),
       (.bfx8 f, fun x l => (bitExtract f.uns w (a x l) (n x l), 0)), (.bfx12 f, fun x l => (bitExtract f.uns w (a x l) f.imm.toNat, 0)),
       (.bfi f, fun x l => (bitInsert w (a x l) (n x l) (c x l), 0))])
  ∧ ∀ (fn w a b c i : Nat), i < w → a < 2 ^ w → c < 2 ^ w →
      let p := b % 256
      let n := min (b / 256 % 256) (w - p)
      bitAt (boolFn fn w a b c) i = bitAt fn (flagNat (bitAt a i) + 2 * flagNat (bitAt b i) + 4 * flagNat (bitAt c i))
      ∧ popCount w a = ((List.range w).filter fun k => bitAt a k).length
      ∧ (a = 0 → leadZeros w a = w)
      ∧ (a ≠ 0 → bitAt a (w - 1 - leadZeros w a) = true ∧ leadZeros w a < w ∧ a < 2 ^ (w - leadZeros w a))
      ∧ bitAt (revBits w a) i = bitAt a (w - 1 - i)
      ∧ bitExtract true w a b = (if n = 0 then 0 else a / 2 ^ p % 2 ^ n)
      ∧ bitExtract false w a b = (if n = 0 then 0 else (sxInt n (a / 2 ^ p % 2 ^ n) % 2 ^ w).toNat)
      ∧ bitAt (bitInsert w a b c) i = if p ≤ i ∧ i < p + n then bitAt a (i - p) else bitAt c i)
  ∧ (∀ (s : State) (f : IntF),
    WritesAll s f.p f.u [(.mov f, fun x l => (x.intVal f 1 l, 0)), (.movi f, fun _ _ => (Issue.immVal f, 0))]
    ∧ WritesAll s f.p false
        [(.movs f, fun x l => (x.intVal f 1 l, 0)), (.mpop f, fun x l => (popCount l (x.w.mreg f.a), 0)),
         (.mpopTot f, fun x _ => (popCount 32 (x.w.mreg f.a), 0))]
    ∧ WritesAll s f.p true [(.movsFirst f, fun x l => (x.intVal f 1 l, 0))]
    ∧ ∀ x, Issues s (.sel f) f.p x → Ends s (.sel f) x
        (Wrote x (if f.u then x.act.take 1 else x.act) fun l =>
          (if (if f.u then !x.ex.isEmpty else x.ex.contains l) then x.takePorts.intVal f 1 l else x.takePorts.intVal f 2 l, 0)))

/-- 07 R187: `ICMP` under its FN. -/
def Obligations.IntegerComparisons : Prop :=
  (∀ (s : State) (f : IntF), ComparesAll s f.p f.u f.d
      [(.icmp8 f, fun x l => intCompare f.fn (IntF.width f) (x.intVal f 1 l) (x.intVal f 2 l)),
       (.icmp12 f, fun x l => intCompare f.fn (IntF.width f) (x.intVal f 1 l) (Issue.immVal f))])
  ∧ ∀ (w a b : Nat), 0 < w → a < 2 ^ w → b < 2 ^ w →
      intCompare 0 w a b = decide (a = b) ∧ intCompare 1 w a b = decide (a ≠ b)
      ∧ intCompare 2 w a b = decide (sxInt w a < sxInt w b) ∧ intCompare 3 w a b = decide (sxInt w a ≤ sxInt w b)
      ∧ intCompare 4 w a b = decide (sxInt w a > sxInt w b) ∧ intCompare 5 w a b = decide (sxInt w a ≥ sxInt w b)
      ∧ intCompare 6 w a b = decide (a < b) ∧ intCompare 7 w a b = decide (a ≤ b)
      ∧ intCompare 8 w a b = decide (a > b) ∧ intCompare 9 w a b = decide (a ≥ b)

/-- 07 R188, R192: the operations on whole masks, and the votes: once for the warp, if some lane executes. -/
def Obligations.MaskOperationsAndVotes : Prop :=
  ∀ (s : State) (f : IntF),
    let nz := fun (x : Issue) => x.ex.filter fun l => x.intVal f 1 l != 0
    MasksAll s f.p f.d
      [(.mskAnd f, fun x => x.w.mreg f.a &&& x.w.mreg f.b), (.mskOr f, fun x => x.w.mreg f.a ||| x.w.mreg f.b),
       (.mskXor f, fun x => x.w.mreg f.a ^^^ x.w.mreg f.b), (.mskAndn f, fun x => x.w.mreg f.a &&& (2 ^ 32 - 1 - x.w.mreg f.b)),
       (.mskNot f, fun x => 2 ^ 32 - 1 - x.w.mreg f.a), (.mskFroms f, fun x => x.w.sreg f.a % 2 ^ 32), (.mskPath f, fun x => maskOf x.ex)]
    ∧ ScalarsAll s f.p f.d
      [(.mskTos f, fun x => x.w.mreg f.a), (.voteAll f, fun x => flagNat ((nz x).length == x.ex.length)),
       (.voteAny f, fun x => flagNat (!(nz x).isEmpty)),
       (.voteEq f, fun x => flagNat (x.ex.all fun l => x.intVal f 1 l == x.intVal f 1 x.lowest)), (.voteBallot f, fun x => maskOf (nz x))]

/-- 07 R190, R191, R193, R194: the lane exchanges, matches and reductions; and what the eight operators of `REDW` are. -/
def Obligations.LaneExchanges : Prop :=
  (∀ (s : State) (f : IntF),
    ShufflesAll s f
      [(.shflIdx8 f, fun x l => x.narrowVal l % 32), (.shflIdx12 f, fun _ _ => f.imm.toNat % 32),
       (.shflUp8 f, fun x l => if 32 ≤ x.narrowVal l ∨ l < x.narrowVal l then l else l - x.narrowVal l),
       (.shflUp12 f, fun _ l => if 32 ≤ f.imm.toNat ∨ l < f.imm.toNat then l else l - f.imm.toNat),
       (.shflDown8 f, fun x l => if 32 ≤ x.narrowVal l ∨ 31 < l + x.narrowVal l then l else l + x.narrowVal l),
       (.shflDown12 f, fun _ l => if 32 ≤ f.imm.toNat ∨ 31 < l + f.imm.toNat then l else l + f.imm.toNat),
       (.shflXor8 f, fun x l => l ^^^ (x.narrowVal l % 32)), (.shflXor12 f, fun _ l => l ^^^ (f.imm.toNat % 32))]
    ∧ WritesAll s f.p false
      [(.matchAny f, fun x l => (maskOf (x.ex.filter fun k => x.intVal f 1 k == x.intVal f 1 l), 0)),
       (.matchAll f, fun x _ => (if x.ex.all fun l => x.intVal f 1 l == x.intVal f 1 x.lowest then maskOf x.ex else 0, 0)),
       (.redw f, fun x _ => (reduceLanes x f, 0))])
  ∧ (∀ (x : Issue) (f : IntF) (l : Nat) (ls : List Nat), x.ex = l :: ls →
      reduceLanes x f = ls.foldl (fun a k => reduceOp f.fn (IntF.width f) a (x.intVal f 1 k)) (x.intVal f 1 l))
  ∧ ∀ (w a b : Nat), 0 < w → a < 2 ^ w → b < 2 ^ w →
      let r := fun fn => reduceOp fn w a b
      r 0 = (a + b) % 2 ^ w
      ∧ sxInt w (r 1) = min (sxInt w a) (sxInt w b) ∧ sxInt w (r 2) = max (sxInt w a) (sxInt w b) ∧ r 3 = min a b ∧ r 4 = max a b
      ∧ (∀ fn, fn < 8 → r fn < 2 ^ w)
      ∧ ∀ k, k < w → bitAt (r 5) k = (bitAt a k && bitAt b k) ∧ bitAt (r 6) k = (bitAt a k || bitAt b k) ∧ bitAt (r 7) k = (bitAt a k != bitAt b k)

/-! ### The control class -/

/-- 01 R25, R27, 02 R52: what an issue begins with. The issue PC is the least PC of the eligible lanes, unless some age has reached AGELIM: then that
of an oldest one, the least PC among these; the active path are the eligible lanes there; those whose predicate holds execute; the lanes of the path take the
successor and age 0, other eligible lanes grow older by 1, and lanes that are not eligible keep PC and age. (Bit flips that an `INJ` has armed
strike the registers at this point: statement `Flips`.) -/
def Obligations.IssueBegins : Prop :=
  ∀ (s : State) (i : Instr) (p : Pred) (x : Issue) (wk : Nat) (w : Warp), s.cur = some wk → find wk s.warps = some w →
    s.start i p = some x →
    let run := fun l => l < 32 ∧ (w.lane l).st = .running
    x.wk = wk ∧ x.i = i ∧ x.s = s
    ∧ (∃ l, run l ∧ (w.lane l).pc = x.at_)
    ∧ ((∀ l, run l → (w.lane l).age < w.agelim) → ∀ l, run l → x.at_ ≤ (w.lane l).pc)
    ∧ ((∃ l, run l ∧ w.agelim ≤ (w.lane l).age) →
        ∃ o, run o ∧ (w.lane o).pc = x.at_ ∧ (∀ l, run l → (w.lane l).age ≤ (w.lane o).age)
          ∧ ∀ l, run l → (w.lane l).age = (w.lane o).age → x.at_ ≤ (w.lane l).pc)
    ∧ (∀ l, l ∈ x.act ↔ run l ∧ (w.lane l).pc = x.at_)
    ∧ (∀ l, l ∈ x.ex ↔ l ∈ x.act ∧ (p.pm = 12 ∨ bitAt (x.w.mreg p.pm) l = true) ≠ (p.pn = true))
    ∧ ∀ l, l < 32 → l < w.lanes.length → x.w.lane l = if l ∈ x.act then { w.lane l with pc := x.at_ + i.len, age := 0 }
        else if (w.lane l).st = .running then { w.lane l with age := (w.lane l).age + 1 } else w.lane l

/-- 02 R47, 07 R177: `PAD` and `NOP` advance the active path by 4 and by 8 and do nothing else.
07 R166: the branches. -/
def Obligations.NoOperationsAndBranches : Prop :=
  (∀ (s : State) (p : Pred) (x : Issue),
    (Issues s .pad ⟨12, false⟩ x → Ends s .pad x fun t w => FrameOf x [] [] [] t w ∧ ∀ l ∈ x.act, (w.lane l).pc = x.at_ + 4)
    ∧ (Issues s (.nop p) p x → Ends s (.nop p) x fun t w => FrameOf x [] [] [] t w ∧ ∀ l ∈ x.act, (w.lane l).pc = x.at_ + 8))
  ∧ (∀ (s : State) (p : Pred) (a : Nat) (disp : W32) (x : Issue),
    let target := ((x.at_ : Int) + disp.toInt).toNat
    (Issues s (.bra p disp) p x → Ends s (.bra p disp) x fun t w =>
      FrameOf x [] [] x.ex t w ∧ ∀ l ∈ x.act, (w.lane l).pc = if l ∈ x.ex then target else x.at_ + 12)
    ∧ (Issues s (.braNz p a disp) p x → Ends s (.braNz p a disp) x fun t w =>
      FrameOf x [] [] x.act t w ∧ ∀ l ∈ x.act, (w.lane l).pc = if x.ex ≠ [] ∧ x.w.sreg a ≠ 0 then target else x.at_ + 12)
    ∧ (Issues s (.braZ p a disp) p x → Ends s (.braZ p a disp) x fun t w =>
      FrameOf x [] [] x.act t w ∧ ∀ l ∈ x.act, (w.lane l).pc = if x.ex ≠ [] ∧ x.w.sreg a = 0 then target else x.at_ + 12))

/-- 07 R167, R176: the jumps, calls and returns with targets that are multiples of 4, and `TRMP`. A call writes the return address to D after
its target is read. -/
def Obligations.JumpsAndCalls : Prop :=
  ∀ (s : State) (p : Pred) (d a slot : Nat) (disp : W32) (x : Issue),
    let near := ((x.at_ : Int) + disp.toInt).toNat
    let goes := fun (v : Warp) (target : Nat → Nat) (len : Nat) => ∀ l ∈ x.act, (v.lane l).pc = if l ∈ x.ex then target l else x.at_ + len
    let links := fun (v : Warp) (len : Nat) => x.isPort 0 = false → x.w.isSeq = false → ∀ l ∈ x.ex, v.vreg d l = (x.at_ + len) % 2 ^ 32
    (∀ i, i = .brx p a ∨ i = .ret p a → Issues s i p x → (∀ l ∈ x.ex, x.takePorts.val 0 l % 4 = 0) → Ends s i x fun t w =>
      FrameOf x [] [] x.ex t w ∧ goes w (fun l => x.takePorts.val 0 l % 2 ^ 32) 8)
    ∧ (Issues s (.call p d disp) p x → near % 4 = 0 → Ends s (.call p d disp) x fun t w =>
      FrameOf x (Issue.regsOf x.w.isSeq (x.opnd 0)) x.ex x.ex t w ∧ goes w (fun _ => near) 12 ∧ links w 12)
    ∧ (Issues s (.callx p d a) p x → (∀ l ∈ x.ex, x.takePorts.val 1 l % 4 = 0) → Ends s (.callx p d a) x fun t w =>
      FrameOf x (Issue.regsOf x.w.isSeq (x.opnd 0)) x.ex x.ex t w ∧ goes w (fun l => x.takePorts.val 1 l % 2 ^ 32) 8 ∧ links w 8)
    ∧ (Issues s (.trmp p slot disp) p x → Ends s (.trmp p slot disp) x fun t w =>
      FrameOf x [(0, 239)] x.ex x.ex t w ∧ goes w (fun _ => near) 12 ∧ ∀ l ∈ x.ex, w.vreg 239 l = (x.at_ + 12) % 2 ^ 32)

/-- 01 R29, 07 R170, R172: `JOIN` sets the bits of the executing lanes, `LEAVE` clears them, `ELECT` leaves only that of the lowest, and
none where no lane executes (under the predicate that never holds too: log entry 85).
01 R30: a lane that executes `WAITM` waits if its bit is set, and proceeds if it is clear; when every lane whose bit is set waits on the mask, all
of them run on at the instruction after it. -/
def Obligations.MaskMembershipAndWaits : Prop :=
  (∀ (s : State) (p : Pred) (d : Nat) (x : Issue),
    (Issues s (.join p d) p x → Ends s (.join p d) x (WroteBits x d fun l => decide (l ∈ x.ex) || bitAt (x.w.mreg d) l))
    ∧ (Issues s (.leave p d) p x → Ends s (.leave p d) x (WroteBits x d fun l => !decide (l ∈ x.ex) && bitAt (x.w.mreg d) l))
    ∧ (Issues s (.elect p d) p x → Ends s (.elect p d) x (WroteBits x d fun l =>
        decide (x.ex.head? = some l))))
  ∧ (∀ (s : State) (p : Pred) (a : Nat) (x : Issue), Issues s (.waitm p a) p x → a < 12 → x.w.lanes.length = 32 → Ends s (.waitm p a) x fun t w =>
    let comes := fun l => l ∈ x.ex ∧ bitAt (x.w.mreg a) l = true
    let waits := fun l => comes l ∨ (x.w.lane l).st = .waiting ∧ (x.w.lane l).wait = .mask a
    let full := ∀ l, l < 32 → bitAt (x.w.mreg a) l = true → waits l
    FrameOf x [] [] [] t w
    ∧ (∀ l, comes l → ¬full → (w.lane l).st = .waiting ∧ (w.lane l).wait = .mask a)
    ∧ (∀ l, l < 32 → waits l → full → (w.lane l).st = .running ∧ (w.lane l).wait = .none)
    ∧ ∀ l ∈ x.act, ¬comes l → (w.lane l).st = .running)

/-- 01 R23, 07 R171: at a `BAR` of a group with the BAR flag that the warp is a member of, each executing lane waits, until every member warp has
arrived or retired: then all waiting lanes of all member warps run on.
07 R173, 09 R223: with PREQ.REQ set a `YIELD` stops the warp, where some lane executes it, and a lane with full/empty loads that its granule has not
served stands at the oldest of them again; otherwise it is a `NOP`. (Which of several loads that is: log entry 84.) -/
def Obligations.BarrierAndYield : Prop :=
  (∀ (s : State) (p : Pred) (g : Nat) (x : Issue), Issues s (.bar p g) p x → usableGroup x g = true → x.w.isSeq = false →
    Ends s (.bar p g) x fun t _w =>
      ∃ u v, State.tryBarrier u x.n.launch g = t ∧ find x.wk u.warps = some v ∧ FrameOf x [] [] [] u v
      ∧ (∀ l ∈ x.ex, (v.lane l).st = .waiting ∧ (v.lane l).wait = .bar g) ∧ (∀ l ∈ x.act, l ∉ x.ex → (v.lane l).st = .running)
      ∧ (∀ gr, ((find x.n.launch u.launches).bind fun l => l.groups[g]?) = some gr →
          t.warps = if gr.bar = true ∧ ∀ m ∈ gr.members, u.memberDone x.n.launch g m = true then
              u.warps.map fun e => if (gr.members.flatMap fun m => (u.memberWarps x.n.launch m).map (·.1)).contains e.1 then
                (e.1, { e.2 with lanes := e.2.lanes.map fun y => if y.wait = .bar g then { y with st := .running, wait := .none } else y })
                else e
            else u.warps))
  ∧ (∀ (s : State) (p : Pred) (x : Issue), Issues s (.yield p) p x →
    let stops := x.ex ≠ [] ∧ x.w.preq = true
    Ends s (.yield p) x fun t w =>
      (¬stops → FrameOf x [] [] [] t w)
      ∧ (stops → FrameOf { x with w := { x.w.cancelFe (x.s.feOf x.wk) with stop := .yield }, s := x.s.dropFe x.wk } [] [] [] t w)
      ∧ (∀ l ∈ x.act, ¬stops ∨ (∀ q ∈ x.s.feOf x.wk, q.who.lane ≠ l) → (w.lane l).pc = x.at_ + 8)
      ∧ ∀ l q, l < x.w.lanes.length → stops → (x.s.feOf x.wk).find? (fun q => q.who.lane == l) = some q → (x.w.lane l).st ≠ .exited →
          (x.w.lane l).st ≠ .never → (w.lane l).pc = q.at_)

/-- 07 R175: `URET` returns each executing lane, in its handler and with an aligned UEPC, to UEPC (`RETRY`) or past the instruction there (`SKIP`), out
of the handler, and out of the fragment that its trap formed. -/
def Obligations.ReturnFromHandler : Prop :=
  ∀ (s : State) (p : Pred) (x : Issue) (skip : Bool), let i := if skip then Instr.uretSkip p else .uretRetry p
    Issues s i p x → (∀ l ∈ x.ex, (x.w.lane l).inHandler = true ∧ (x.w.lane l).uepc.toNat % 4 = 0) → x.w.lanes.length = 32 →
    Ends s i x fun t w =>
      let home := fun l => match x.w.frag (x.w.lane l).frag with | some g => if g.trap then g.parent else (x.w.lane l).frag | none => (x.w.lane l).frag
      let rests := x.unparked ∧ ∀ l ∈ x.ex, ((x.w.frag (home l)).bind (·.park)).isNone = true
      TrapFrame x x.ex t w
      ∧ (∀ a, ¬x.inOpenRec a → memGet t.mem a = memGet x.s.mem a) ∧ (rests → t.mem = x.s.mem ∧ t.keys = x.s.keys ∧ t.ctxs = x.s.ctxs)
      ∧ ∀ l ∈ x.ex, let y := x.w.lane l
          w.lane l = { y with
            inHandler := false
            frag := (w.lane l).frag
            pc := if skip then y.uepc.toNat + codeLen s x.n.launch x.launch y.uepc.toNat else y.uepc.toNat }
          ∧ (rests → (w.lane l).frag = home l)

/-- 07 R174, R167, R175, R195, 01 R23: the user traps of the control class and of the CSR accesses: `TRAP` with cause USER, `BKPT` with BKPT, a jump to a target that
is no multiple of 4 with MISALIGN, a `URET` outside a handler with PRIV and NOHND, a CSR of a higher level with PRIV and LEVEL, a `BAR` of a group that the warp
cannot use with ILLEGAL and GROUP. -/
def Obligations.ControlTraps : Prop :=
  ∀ (s : State) (p : Pred) (n a d g : Nat) (disp : W32) (f : CsrF) (x : Issue),
    (Issues s (.trap p n) p x → TrapsTo s (.trap p n) x x.ex (9, n))
    ∧ (Issues s (.bkpt p n) p x → TrapsTo s (.bkpt p n) x x.ex (10, n))
    ∧ (∀ i, i = .brx p a ∨ i = .ret p a → Issues s i p x → (∀ l ∈ x.ex, x.takePorts.val 0 l % 4 ≠ 0) → TrapsTo s i x x.ex (2, 3))
    ∧ (Issues s (.call p d disp) p x → ((x.at_ : Int) + disp.toInt).toNat % 4 ≠ 0 → TrapsTo s (.call p d disp) x x.ex (2, 3))
    ∧ (Issues s (.callx p d a) p x → (∀ l ∈ x.ex, x.takePorts.val 1 l % 4 ≠ 0) → TrapsTo s (.callx p d a) x x.ex (2, 3))
    ∧ (∀ i, i = .uretRetry p ∨ i = .uretSkip p → Issues s i p x → TrapsTo s i x x.ex (11, 1))
    ∧ (Issues s (.bar p g) p x → usableGroup x g = false → TrapsTo s (.bar p g) x x.ex (1, 14))
    ∧ ∀ i, i = .csrr f ∨ i = .csrw f ∨ i = .csrwSet f ∨ i = .csrwClr f ∨ i = .parkceilWrite f →
        Issues s i f.p x → x.lvl < csrLevel f.csrn → TrapsTo s i x x.ex (11, 2)

/-- 07 R195, R196, 16 R312, 01 R12, R34: `CSRR` at the level that the CSR asks for writes it into D, and what each CSR reads. (What `CLUSTER` reads on a pan
unit is the model's choice: log entry 92.)
07 R195, R197, 16 R312: the writes of CSRs, at the level that the CSR asks for. UEPC and FFLAGS are written in each executing lane, UTVEC and the context's CSRs once,
from the lowest; read-only CSRs keep their values, and everything else is as it was. -/
def Obligations.CsrAccesses : Prop :=
  ((∀ (s : State) (f : CsrF) (x : Issue), Issues s (.csrr f) f.p x → csrLevel f.csrn ≤ x.lvl →
    Ends s (.csrr f) x (Wrote x (writers f.u x) fun l => (csrRead x.takePorts l f.csrn % 2 ^ (if f.u || f.w then 64 else 32), 0)))
  ∧ ∀ (x : Issue) (l : Nat), let y := x.w.lane l
      csrRead x l 0x000 = l ∧ csrRead x l 0x001 = x.w.idx ∧ csrRead x l 0x005 = x.n.idx ∧ csrRead x l 0x006 = x.launch.id
      ∧ csrRead x l 0x007 = x.w.grps.toNat ∧ csrRead x l 0x008 = (if x.n.desc.cast then 1 else 0) ∧ csrRead x l 0x009 = x.w.agelim
      ∧ (∀ die cluster core, die < 8 → cluster < 12 → core < 8 → x.w.unit = die * 96 + cluster * 8 + core →
          csrRead x l 0x002 = core ∧ csrRead x l 0x003 = cluster ∧ csrRead x l 0x004 = die)
      ∧ (∀ stack unit, unit < 16 → x.w.unit = 768 + stack * 16 + unit →
          csrRead x l 0x002 = unit ∧ csrRead x l 0x003 = 0 ∧ csrRead x l 0x004 = 8 + stack)
      ∧ csrRead x l 0x010 = (if x.w.preq then 1 else 0) ∧ csrRead x l 0x011 = (if x.w.preq then x.w.pdleft else 0)
      ∧ csrRead x l 0x018 = x.w.utvec.toNat ∧ csrRead x l 0x019 = y.ucause ∧ csrRead x l 0x01A = y.uepc.toNat
      ∧ csrRead x l 0x020 = y.frag + x.w.parentOf y.frag * 2 ^ 8 + maskOf (x.w.fragLanes y.frag) * 2 ^ 32
      ∧ csrRead x l 0x021 < 2 ^ 32
      ∧ (x.w.lanes.length = 32 → ∀ k, k < 32 → (bitAt (csrRead x l 0x021) k = true ↔
          (x.w.lane k).st ≠ .exited ∧ (x.w.lane k).st ≠ .never ∧ (x.w.lane k).frag ≠ y.frag ∧ ∃ g ∈ x.w.frags, g.id = (x.w.lane k).frag))
      ∧ csrRead x l 0x028 = y.fflags ∧ csrRead x l 0x029 = (if x.n.desc.spill then x.n.desc.spilla + x.w.idx * 65536 else 0)
      ∧ csrRead x l 0x100 = x.n.desc.lvl + (if x.ctx.sec then 256 else 0) ∧ csrRead x l 0x101 = 8 * 2 ^ 50
      ∧ csrRead x l 0x102 = x.ctx.grecs ∧ csrRead x l 0x103 = x.ctx.parkceil ∧ csrRead x l 0x200 = 9 * 2 ^ 50 ∧ csrRead x l 0x201 = x.ctx.owner
      ∧ csrRead x l 0x202 = (if x.ctx.hold then 1 else 0) ∧ csrRead x l 0x203 = x.ctx.wdlim ∧ csrRead x l 0x204 = x.ctx.extlim)
  ∧ (∀ (s : State) (f : CsrF) (x : Issue) (i : Instr) (fn : Nat),
    (i, fn) ∈ [(Instr.csrw f, 0), (.csrwSet f, 1), (.csrwClr f, 2), (.parkceilWrite f, f.fn)] → Issues s i f.p x → csrLevel f.csrn ≤ x.lvl → x.unparked →
    Ends s i x fun t w =>
      let v := fun l => if f.u then x.w.sreg f.r else x.takePorts.val 0 l
      let old := fun l => csrRead x l f.csrn
      let new := fun l => if fn = 0 then v l else if fn = 1 then old l ||| v l else old l &&& (2 ^ 64 - 1 - v l)
      w = { x.w with lanes := w.lanes, frags := w.frags, castFull := w.castFull,
                     utvec := CsrOnce x f.csrn new 0x018 x.w.utvec fun n => BitVec.ofNat 32 (n / 4 * 4) }
      ∧ (∀ l, w.lane l = { x.w.lane l with
          uepc := if f.csrn = 0x01A ∧ l ∈ x.ex then BitVec.ofNat 32 (new l) else (x.w.lane l).uepc
          fflags := if f.csrn = 0x028 ∧ l ∈ x.ex then new l % 64 else (x.w.lane l).fflags
          st := (w.lane l).st, wait := (w.lane l).wait, frag := (w.lane l).frag })
      ∧ (t.ctx x.n.ctx = { x.ctx with
          parkceil := CsrOnce x f.csrn new 0x103 x.ctx.parkceil fun n => if n < 64 then 64 else if 16777216 < n then 16777216 else n
          hold := CsrOnce x f.csrn new 0x202 x.ctx.hold fun n => bitAt n 0
          wdlim := CsrOnce x f.csrn new 0x203 x.ctx.wdlim id, extlim := CsrOnce x f.csrn new 0x204 x.ctx.extlim id })
      ∧ (∀ c, c ≠ x.n.ctx → t.ctx c = x.s.ctx c)
      ∧ t = { x.s with ctxs := t.ctxs, launches := t.launches, poison := t.poison, warps := insert x.wk w x.s.warps, nodes := insert x.nk x.n x.s.nodes, issues := x.s.issues + 1 })

/-- 07 R169, 01 R29, R44: `EXIT` makes the executing lanes Exited and clears their bits in all twelve masks; with its last lane the warp is gone. -/
def Obligations.ExitLanes : Prop :=
  ∀ (s : State) (p : Pred) (x : Issue), Issues s (.exit p) p x → x.w.lanes.length = 32 → ∃ t, exec (.exit p) s = .next t ∧
    ((∃ l, l < 32 ∧ l ∉ x.ex ∧ (x.w.lane l).st ≠ .exited ∧ (x.w.lane l).st ≠ .never) →
      ∃ w, find x.wk t.warps = some w
        ∧ (∀ l ∈ x.ex, (w.lane l).st = .exited) ∧ (∀ l ∈ x.act, l ∉ x.ex → (w.lane l).pc = x.at_ + 8 ∧ (w.lane l).st = .running)
        ∧ (∀ m l, m < 12 → l < 32 → bitAt (w.mreg m) l = (!decide (l ∈ x.ex) && bitAt (x.w.mreg m) l))
        ∧ w.v = x.w.v ∧ w.s = x.w.s)
    ∧ ((∀ l, l < 32 → l ∈ x.ex ∨ (x.w.lane l).st = .exited ∨ (x.w.lane l).st = .never) → find x.wk t.warps = none)
    ∧ ∀ a, ¬x.inOpenRec a → memGet t.mem a = memGet x.s.mem a

/-! ### Escalated traps -/

/-- 07 R174, 16 R314: `TRAP` and `BKPT` escalate where UTVEC is 0, and where their lanes are in the handler already; at a hypervisor node they kill the node.
16 R314, R315, 21 R400: what appending a trap record does: its 1,024 bytes lie in the slot of the next position, with the serial number of the
sequence; the length grows by one, a record more is unresolved, and the interrupt of the sequence is raised. It waits, and nothing happens, with a full
window, and where the slot that it would take still holds an unresolved record. (So it does where that slot is not mapped: log entry 87.) -/
def Obligations.TrapsEscalate : Prop :=
  (∀ (s : State) (p : Pred) (n : Nat) (x : Issue) (i : Instr) (c : Nat), (i, c) ∈ [(Instr.trap p n, 9), (.bkpt p n, 10)] → Issues s i p x →
    EscalatesTo s i x x.ex (c, n) false ∧ EscalatesTo s i x x.ex (c, n) true
    ∧ (x.w.isSeq = false → x.lvl = 2 → x.ex ≠ [] → x.w.utvec = 0 → find x.nk s.nodes = some x.n → x.n.st.final = false → x.unparked →
        (∀ l ∈ x.ex, (x.w.lane l).inHandler = false) →
        ∃ t n', exec i s = .next t ∧ find x.nk t.nodes = some n' ∧ n'.st = .failed))
  ∧ (∀ (s : State) (ck tbl : Nat) (r : TrapRec) (tb : Table), (tbl = 8 ∨ tbl = 9) → find tbl (s.ctx ck).tables = some tb →
    let unresolved := if tbl = 8 then (s.ctx ck).grecs else (s.ctx ck).hrecs
    (Config.trapWindow ≤ unresolved → s.appendTrap ck tbl r = none)
    ∧ (∀ pa tag, Config.trapWindow ≤ tb.r → s.slotPlace (s.ctx ck) tb (tb.posOff tb.r) = some (pa, tag) → (s.rdByte tag (pa + 40)).toNat % 4 = 0 →
        s.appendTrap ck tbl r = none)
    ∧ (∀ rs, unresolved < Config.trapWindow → s.slotRuns (s.ctx ck) tb (tb.posOff tb.r) 1024 = some rs →
        (Config.trapWindow ≤ tb.r → ∀ pa tag, s.slotPlace (s.ctx ck) tb (tb.posOff tb.r) = some (pa, tag) → (s.rdByte tag (pa + 40)).toNat % 4 ≠ 0) →
        ∃ t, s.appendTrap ck tbl r = some (t, ⟨tbl, tb.r⟩)
          ∧ (t.ctx ck).grecs = (s.ctx ck).grecs + (if tbl = 8 then 1 else 0) ∧ (t.ctx ck).hrecs = (s.ctx ck).hrecs + (if tbl = 8 then 0 else 1)
          ∧ (t.ctx ck).serialG = (s.ctx ck).serialG + (if tbl = 8 then 1 else 0) ∧ (t.ctx ck).serialH = (s.ctx ck).serialH + (if tbl = 8 then 0 else 1)
          ∧ (ck, if tbl = 8 then 1 else 2) ∈ t.interrupts
          ∧ (∃ tb', find tbl (t.ctx ck).tables = some tb' ∧ tb'.r = tb.r + 1)
          ∧ LiesAt s t (s.ctx ck) tb tb.r ({ r with serial := if tbl = 8 then (s.ctx ck).serialG else (s.ctx ck).serialH } : TrapRec).bytes
          ∧ (∀ a, (∀ e ∈ rs, a / 32 < e.1 / 32 ∨ (e.1 + e.2.2 - 1) / 32 < a / 32) → memGet t.mem a = memGet s.mem a)
          ∧ t = { s with mem := t.mem, keys := t.keys, ctxs := t.ctxs, interrupts := t.interrupts, poison := t.poison }))

/-! ### The floating-point class -/

/-- 08 R202, R203, R207, R208, R209, R212, R213, R214: every instruction of the floating-point class that computes from its operands alone completes, in every
state and with every operand, and writes what its function gives in each executing lane: addition, multiplication and the fused forms, packed or not, rounding
to an integral value, the reciprocal, the square root and the special functions, the scalar conversion, and the merge of attention triples. (What the functions
give is the matter of RoundsOnce, SpecialFunctions, ScalarConversions and AttentionMerge.) -/
def Obligations.FloatArithmetic : Prop :=
  ∀ (s : State) (f : FpF),
    let a := fun (x : Issue) l => num32 (flipSign 32 f.na (x.val 1 l % 2 ^ 32))
    let b := fun (x : Issue) l => num32 (flipSign 32 f.nb (x.val 2 l % 2 ^ 32))
    let c := fun (x : Issue) l => num32 (flipSign 32 f.nc (x.val 3 l % 2 ^ 32))
    let i := num32 (flipSign 32 f.nb f.imm.toNat)
    let v := fun (x : Issue) l => x.val 1 l % 2 ^ 32
    WritesAll s f.p f.u
      [(.fadd8 f, fun x l => fpAdd lay32 f.rm (a x l) (b x l)), (.fadd12 f, fun x l => fpAdd lay32 f.rm (a x l) i),
       (.fmul8 f, fun x l => fpMul lay32 f.rm (a x l) (b x l)), (.fmul12 f, fun x l => fpMul lay32 f.rm (a x l) i),
       (.ffma f, fun x l => fpFma lay32 f.rm (a x l) (b x l) (c x l)), (.frnd f, fun x l => fpRnd f.rm (v x l)),
       (.frcp f, fun x l => fpRcp f.rm (v x l)), (.fsqrt f, fun x l => fpSqrt f.rm (v x l)),
       (.frsq f, fun x l => fpSpecial .rsq (v x l)), (.fex2 f, fun x l => fpSpecial .ex2 (v x l)), (.flg2 f, fun x l => fpSpecial .lg2 (v x l)),
       (.fsin f, fun x l => fpSpecial .sin (v x l)), (.fcos f, fun x l => fpSpecial .cos (v x l)), (.ftanh f, fun x l => fpSpecial .tanh (v x l)),
       (.fcvtScalar f, fun x l => convert f.src f.fmt f.rm (v x l))]
    ∧ WritesAll s f.p false
      [(.amrg f, fun x l => mergeTriples f.fin (x.val 1 l) (x.val 2 l)), (.pfma f, fun x l =>
        let half := fun h => pfmaHalf (f.fmt.layout.getD lay32) f h (x.val 1 l) (x.val 2 l) (x.val 3 l)
        ((half 0).1 + (half 1).1 * 2 ^ 16, (half 0).2 ||| (half 1).2))]

/-- 04 R93, R94: a rounding from the exact value: without overflow the result is the representable value on the mode's side, none of
which lies nearer, a tie going to the even encoding; it raises NX if it differs, and UF with it if it is tiny; an overflow gives infinity or the largest
finite value. -/
def Obligations.RoundsOnce : Prop :=
  ∀ (F : Layout) (rm : Rm) (s : Bool) (n d : Nat) (e : Int), F ∈ [lay32, ⟨5, 10, 15, true⟩, ⟨8, 7, 127, true⟩] → rm ≠ .ef → 0 < n → 0 < d →
    let x : ℚ := (if s then -1 else 1) * ((n : ℚ) / d * 2 ^ e)
    let r := F.roundMag rm s n d e
    let val := fun (w : Nat) => (F.value w).rat
    if bitAt r.2 2 then
      F.maxRat < |x| ∧ r.2 = fOF + fNX
        ∧ r.1 = F.signBits s + (if rm = .rz ∨ rm = .rup ∧ s = true ∨ rm = .rdn ∧ s = false then F.maxBits else F.infBits)
    else
      (F.value r.1).isFinite = true ∧ (F.value r.1).signOf = s
      ∧ (rm = .rz → |val r.1| ≤ |x|) ∧ (rm = .rup → x ≤ val r.1) ∧ (rm = .rdn → val r.1 ≤ x)
      ∧ (∀ w, (F.value w).isFinite = true →
          (rm = .rne ∨ rm = .rz ∧ |val w| ≤ |x| ∨ rm = .rup ∧ x ≤ val w ∨ rm = .rdn ∧ val w ≤ x) →
          |val r.1 - x| ≤ |val w - x| ∧ (rm = .rne → |val r.1 - x| = |val w - x| → val w ≠ val r.1 → r.1 % 2 = 0))
      ∧ (bitAt r.2 4 = true ↔ val r.1 ≠ x)
      ∧ (bitAt r.2 3 = true → bitAt r.2 4 = true ∧ |val r.1| ≤ 2 ^ F.emin)
      ∧ (|val r.1| < 2 ^ F.emin → val r.1 ≠ x → bitAt r.2 3 = true)

/-- 08 R204, R205, R206: the lesser and the greater, the comparisons, and the class of a value. -/
def Obligations.FloatSelections : Prop :=
  (∀ (s : State) (f : FpF),
    let a := fun (x : Issue) l => flipSign 32 f.na (x.val 1 l % 2 ^ 32)
    let b := fun (x : Issue) l => flipSign 32 f.nb (x.val 2 l % 2 ^ 32)
    let i := flipSign 32 f.nb f.imm.toNat
    WritesAll s f.p f.u
      [(.fmin8 f, fun x l => (fpMinMax false (a x l) (b x l), 0)), (.fmin12 f, fun x l => (fpMinMax false (a x l) i, 0)),
       (.fmax8 f, fun x l => (fpMinMax true (a x l) (b x l), 0)), (.fmax12 f, fun x l => (fpMinMax true (a x l) i, 0)),
       (.fclass f, fun x l => (2 ^ fpClass (x.val 1 l % 2 ^ 32), 0))]
    ∧ ComparesAll s f.p f.u f.d
      [(.fcmp8 f, fun x l => fpCompare f.fn (a x l) (b x l)), (.fcmp12 f, fun x l => fpCompare f.fn (a x l) i)])
  ∧ ∀ (mx : Bool) (a b fn : Nat), a < 2 ^ 32 → b < 2 ^ 32 →
      let x := num32 a
      let y := num32 b
      let le := fun (u v : Sys2Proof.Num) => u.lt v = true ∨ v.lt u = false ∧ (u.signOf = true ∨ v.signOf = false ∨ u.isZero = false)
      (x.isNan = true → y.isNan = true → fpMinMax mx a b = 0x7FC00000)
      ∧ (x.isNan = true → y.isNan = false → fpMinMax mx a b = b) ∧ (x.isNan = false → y.isNan = true → fpMinMax mx a b = a)
      ∧ (x.isNan = false → y.isNan = false → (fpMinMax mx a b = a ∨ fpMinMax mx a b = b)
          ∧ ∀ z, z = x ∨ z = y → if mx then le z (num32 (fpMinMax mx a b)) else le (num32 (fpMinMax mx a b)) z)
      ∧ (x.isFinite = true → y.isFinite = true → (x.lt y = true ↔ x.rat < y.rat) ∧ (x.eqv y = true ↔ x.rat = y.rat))
      ∧ fpCompare 0 a b = x.eqv y ∧ fpCompare 2 a b = x.lt y ∧ fpCompare 4 a b = y.lt x ∧ fpCompare 6 a b = (!x.isNan && !y.isNan)
      ∧ fpCompare 1 a b = (fpCompare 6 a b && !fpCompare 0 a b) ∧ fpCompare 3 a b = (fpCompare 0 a b || fpCompare 2 a b)
      ∧ fpCompare 5 a b = (fpCompare 0 a b || fpCompare 4 a b)
      ∧ (7 ≤ fn → fn < 14 → fpCompare fn a b = (!fpCompare 6 a b || decide (7 < fn) && fpCompare (fn - 8) a b))
      ∧ let ef := a / 2 ^ 23 % 256
        let fr := a % 2 ^ 23
        let neg := decide (2 ^ 31 ≤ a)
        fpClass a = if ef = 255 then (if fr = 0 then (if neg then 0 else 7) else 8)
          else if ef = 0 then (if fr = 0 then (if neg then 3 else 4) else if neg then 2 else 5) else if neg then 1 else 6

/-- 08 R203, R212, R213: what the arithmetic functions give: one rounding of the exact result, and the special values.
08 R212, R213: the special functions: their special inputs, their exact results, the ranges, and every other result within the error bound of the function's
value as the model computes it. (The value within the bound is an implementation's own, and the model's approximation of the function its own: log entry 7.) -/
def Obligations.SpecialFunctions : Prop :=
  (∀ (rm : Rm) (a b c : Sys2Proof.Num), a.isFinite = true → b.isFinite = true → c.isFinite = true →
      (a.mul b).rat = a.rat * b.rat ∧ (Num.sum rm [a, b]).rat = a.rat + b.rat ∧ (Num.sum rm [a.mul b, c]).rat = a.rat * b.rat + c.rat)
  ∧ (∀ (F : Layout) (rm : Rm) (a b c : Sys2Proof.Num),
      (a.isNan = true ∨ b.isNan = true → fpAdd F rm a b = (F.nanBits, 0) ∧ fpMul F rm a b = (F.nanBits, 0) ∧ fpFma F rm a b c = (F.nanBits, 0))
      ∧ (a.isNan = false → b.isNan = false → fpAdd F rm a b = F.round rm (Num.sum rm [a, b]) ∧ fpMul F rm a b = F.round rm (a.mul b)
          ∧ (c.isNan = false → fpFma F rm a b c = F.round rm (Num.sum rm [a.mul b, c]))))
  ∧ (∀ (F : Layout) (rm : Rm) (s t : Bool) (m : Nat) (e : Int),
      fpAdd F rm (.inf s) (.inf t) = (if s = t then (F.signBits s + F.infBits, 0) else (F.nanBits, fNV))
      ∧ fpMul F rm (.inf s) (.fin t m e) = (if m = 0 then (F.nanBits, fNV) else (F.signBits (s != t) + F.infBits, 0))
      ∧ fpAdd F rm (.fin s 0 e) (.fin t 0 e) = (F.signBits (if s = t then s else rm == .rdn), 0)
      ∧ fpRcp rm (lay32.signBits s) = (lay32.signBits s + lay32.infBits, fDZ)
      ∧ fpRcp rm (lay32.signBits s + lay32.infBits) = (lay32.signBits s, 0) ∧ fpSqrt rm (lay32.signBits s) = (lay32.signBits s, 0))
  ∧ (fpSpecial .rsq 0 = (0x7F800000, fDZ) ∧ fpSpecial .rsq 0x80000000 = (0xFF800000, fDZ) ∧ fpSpecial .rsq 0x7F800000 = (0, 0)
    ∧ fpSpecial .ex2 0x7F800000 = (0x7F800000, 0) ∧ fpSpecial .ex2 0xFF800000 = (0, 0) ∧ fpSpecial .lg2 0x7F800000 = (0x7F800000, 0)
    ∧ ∀ s : Bool, let z := if s then 0x80000000 else 0
        fpSpecial .lg2 z = (0xFF800000, fDZ) ∧ fpSpecial .sin z = (z, 0) ∧ fpSpecial .cos z = (0x3F800000, 0) ∧ fpSpecial .tanh z = (z, 0)
        ∧ fpSpecial .sin (z + 0x7F800000) = (0x7FC00000, fNV) ∧ fpSpecial .cos (z + 0x7F800000) = (0x7FC00000, fNV)
        ∧ fpSpecial .tanh (z + 0x7F800000) = (z + 0x3F800000, 0))
  ∧ ∀ (fn : Special) (a : Nat), a < 2 ^ 32 → let x := num32 a
      (x.isNan = true → fpSpecial fn a = (0x7FC00000, 0))
      ∧ (x.signOf = true → x.isZero = false → x.isNan = false → fpSpecial .rsq a = (0x7FC00000, fNV) ∧ fpSpecial .lg2 a = (0x7FC00000, fNV))
      ∧ (x.isFinite = true → 128 ≤ x.rat → fpSpecial .ex2 a = (0x7F800000, fOF + fNX))
      ∧ (x.isFinite = true → x.rat < -150 → fpSpecial .ex2 a = (0, fUF + fNX))
      ∧ (∀ k : Int, x.isFinite = true → x.rat = k → -149 ≤ k → k ≤ 127 → (num32 (fpSpecial .ex2 a).1).rat = 2 ^ k ∧ (fpSpecial .ex2 a).2 = 0)
      ∧ (∀ k : Int, x.isFinite = true → x.rat = 2 ^ k → (num32 (fpSpecial .lg2 a).1).rat = k ∧ (fpSpecial .lg2 a).2 = 0)
      ∧ (∀ k : Int, x.isFinite = true → x.rat = 4 ^ k → (num32 (fpSpecial .rsq a).1).rat = 2 ^ (-k) ∧ (fpSpecial .rsq a).2 = 0)
      ∧ ∀ s m e, x = .fin s m e → m ≠ 0 → ¬(s = true ∧ (fn = .rsq ∨ fn = .lg2)) → ¬(fn = .ex2 ∧ (128 ≤ x.rat ∨ x.rat < -150)) →
          let r := num32 (fpSpecial fn a).1
          r.isFinite = true
          ∧ (fn = .sin ∨ fn = .cos ∨ fn = .tanh → |r.rat| ≤ 1) ∧ (fn = .tanh → r.signOf = s) ∧ (fn = .ex2 → r.signOf = false)
          ∧ (bitAt (fpSpecial fn a).2 4 = true → ∀ b, fn.bound m e (fn.approx s m e) = some b → |r.rat - (fn.approx s m e).rat| ≤ b.rat)

/-- 08 R209, R210, 04 R95: the scalar conversion, and what it gives: an exact result where there is one, the canonical NaN, saturation, and
codes of the target's width. (An infinity into F8B stays one: R210, where R95 reads otherwise: log entry 12. The flags of a NaN into an integer format: log entry 90.) -/
def Obligations.ScalarConversions : Prop :=
  (∀ (s : State) (f : FpF), WritesAll s f.p f.u [(.fcvtScalar f, fun x l => convert f.src f.fmt f.rm (x.val 1 l % 2 ^ 32))])
  ∧ ∀ (src dst : Fmt) (rm : Rm) (w : Nat), rm ≠ .ef → let r := convert src dst rm w
      r.1 < 2 ^ dst.width
      ∧ ((src.value w).isNan = true → r = match dst.layout with | some F => (F.nanBits, 0) | none => (0, fNV))
      ∧ (∀ s, src.value w = .inf s → r = match dst with
          | .f8a => ((if s then 0x80 else 0) + 0x7E, fSAT + fNX)
          | .i32 => (if s then 0x80000000 else 0x7FFFFFFF, fSAT + fNX)
          | .i8 => (if s then 0x81 else 0x7F, fSAT + fNX) | .i4 => (if s then 9 else 7, fSAT + fNX)
          | .i8a => (if s then 0 else 0xFF, fSAT + fNX) | .i4a => (if s then 0 else 15, fSAT + fNX)
          | _ => ((dst.layout.getD lay32).signBits s + (dst.layout.getD lay32).infBits, 0))
      ∧ ((src.value w).isFinite = true → ∀ v, (dst.value v).isFinite = true → (dst.value v).rat = (src.value w).rat →
          ¬(dst = .i8 ∧ (dst.value v).rat = -128) → ¬(dst = .i4 ∧ (dst.value v).rat = -8) →
          (dst.value r.1).rat = (src.value w).rat ∧ r.2 = 0)

/-- 08 R211, R216, 04 R96: the block conversion: what stops it, in order, and the codes of the executing lanes, in ascending order, with the error carried under
RNE-EF. -/
def Obligations.BlockConversion : Prop :=
  (∀ (s : State) (f : FpF) (x : Issue), Issues s (.fcvtBlock f) f.p x → x.ex ≠ [] →
    let z := x.takePorts
    let word := z.val 3 z.lowest % 2 ^ 32
    let m := FmtWord.ofNat word
    let o := z.val 2 z.lowest % 2 ^ 32
    let same := ∀ l ∈ x.ex, z.val 3 l % 2 ^ 32 = word
    let fits := m.sound = true ∧ blockFmts f = true ∧ m.cd = f.fmt.code ∧ m.fa = f.src.code
    let good := fun (r : ParamRec) => m.pri = 0 ∨ r.sound f.fmt f.fmt.isAsym = true ∧ z.entryIn f.fmt r (o * r.ng) = true
    (¬same → TrapsTo s (.fcvtBlock f) x x.act (5, 1)) ∧ (same → ¬fits → TrapsTo s (.fcvtBlock f) x x.act (5, 2))
    ∧ (same → fits → z.record m.pri = none → TrapsTo s (.fcvtBlock f) x x.act (5, 4))
    ∧ ∀ r, same → fits → z.record m.pri = some r →
        (¬good r → TrapsTo s (.fcvtBlock f) x x.act (5, 4))
        ∧ (good r → f.rm.code ≠ r.rm → TrapsTo s (.fcvtBlock f) x x.act (5, 2))
        ∧ (good r → f.rm.code = r.rm → r.gs ≠ 0 → r.sc = true ∨ r.zp = true → TrapsTo s (.fcvtBlock f) x x.act (5, 3))
        ∧ (good r → f.rm.code = r.rm → r.gs = 0 ∨ r.sc = false ∧ r.zp = false → (∀ a n, s.spPoisoned x.w.unit a n = false) →
            Ends s (.fcvtBlock f) x fun t w =>
              FrameOf x (Issue.regsOf x.w.isSeq (x.opnd 0)) x.ex [] t w
              ∧ ∀ e ∈ fcvtBlock z f r.bound (z.entryScale r (o * r.ng)) (z.entryZero f.fmt r (o * r.ng)) x.ex 0,
                  (x.isPort 0 = false → x.w.isSeq = false → f.u = false → w.vreg f.d e.1 = e.2.1)
                  ∧ (w.lane e.1).fflags = (x.w.lane e.1).fflags ||| e.2.2))
  ∧ ∀ (x : Issue) (f : FpF) (bound zp err l : Nat) (scale : Sys2Proof.Num) (ls : List Nat),
      let v := f.src.value (x.val 1 l % 2 ^ 32)
      let y := fpAdd lay32 .rne v (num32 err)
      let q := narrow f.fmt .rne bound scale zp (num32 y.1)
      let code := codeValue f.fmt scale zp q.1
      let e := fpAdd lay32 .rne (num32 y.1) code.neg
      let on := (num32 y.1).isFinite && !code.isNan
      fcvtBlock x f bound scale zp (l :: ls) err =
        if f.rm = .ef then (l, q.1, if on then y.2 ||| q.2 ||| e.2 else y.2 ||| q.2) :: fcvtBlock x f bound scale zp ls (if on then e.1 else 0)
        else let q := narrow f.fmt f.rm bound scale zp v
          (l, q.1, q.2) :: fcvtBlock x f bound scale zp ls err

/-- 08 R214: the merge of two attention triples, and its special values.
(The value of the exponential is log entry 7.) -/
def Obligations.AttentionMerge : Prop :=
  (∀ (s : State) (f : FpF) (x : Issue), Issues s (.amrg f) f.p x → x.w.isSeq = false → Ends s (.amrg f) x fun t w =>
    FrameOf x (Issue.regsOf false (x.opnd 0)) x.ex [] t w
    ∧ ∀ l ∈ x.ex, let r := mergeTriples f.fin (x.takePorts.val 1 l) (x.takePorts.val 2 l)
        (∀ k, k < 4 → w.vreg (f.d + k) l = r.1 / 2 ^ (32 * k) % 2 ^ 32) ∧ (w.lane l).fflags = (x.w.lane l).fflags ||| r.2)
  ∧ ∀ (fin : Bool) (a b : Nat),
      let elt := fun (q k : Nat) => q / 2 ^ (32 * k) % 2 ^ 32
      let m := fpMinMax true (elt a 0) (elt b 0)
      let f := fun q => if (num32 (elt q 0)).eqv (num32 m) then 0x3F800000 else (fpSpecial .ex2 (fpAdd lay32 .rne (num32 (elt q 0)) (num32 m).neg).1).1
      let part := fun q k => if f q = 0 then (Sys2Proof.Num.fin false 0 0) else (num32 (f q)).mul (num32 (elt q k))
      let sum := fun k => (lay32.round .rne (Num.sum .rne [part a k, part b k])).1
      let r := mergeTriples fin a b
      mergeTriples fin b a = r
      ∧ ((num32 (elt a 0)).isNan = true ∨ (num32 (elt b 0)).isNan = true → r.2 = 0 ∧ ∀ k, k < 4 → elt r.1 k = 0x7FC00000)
      ∧ (elt a 0 = 0xFF800000 → elt b 0 = 0xFF800000 → r = (0xFF800000, 0))
      ∧ ((num32 (elt a 0)).isNan = false → (num32 (elt b 0)).isNan = false → ¬(elt a 0 = 0xFF800000 ∧ elt b 0 = 0xFF800000) →
          elt r.1 0 = m ∧ elt r.1 1 = sum 1
          ∧ ∀ k, k = 2 ∨ k = 3 → elt r.1 k = if fin then (fpDiv lay32 .rne (num32 (sum k)) (num32 (sum 1))).1 else sum k)

/-! ### The memory class -/

/-- 09 R219, R220, 05 R137: a load writes what its lane reads, extended; a store is held in the core, piece by piece. With U = 1 the lowest
executing lane alone accesses. A lane reads the newest of its own held stores at each byte, else memory.
(The lane that accesses with U = 1 is log entry 41.) -/
def Obligations.LoadsAndStores : Prop :=
  (∀ (s : State) (f : MemF) (x : Issue) (i : Instr) (d : Nat → Int) (va : Nat → Nat) (ps : Nat → List Piece),
    let z := x.takePorts
    let n := f.sz.bytes
    let ls := memLanes x f.u
    ((i, d) ∈ [(.ld8 f, dispB z), (.ld12 f, fun _ => f.imm.toInt)] → Issues s i f.p x → z.Reaches ls { write := false } n (z.memAdr d) va ps →
      (∀ l ∈ ls, z.sound (ps l) ∧ (z.outstanding [l] = false ∨ ∀ p ∈ ps l, p.mt < 2)) →
      Ends s i x (Wrote x ls fun l => (extendTo f (z.reads l (ps l)), 0)))
    ∧ ((i, d) ∈ [(.st8 f, dispB z), (.st12 f, fun _ => f.imm.toInt)] → Issues s i f.p x → z.Reaches ls { write := true } n (z.memAdr d) va ps →
      x.n.flips = [] → Ends s i x (FrameOf (x.sent (storesOf ls n ps (z.val 0))) [] [] [])))
  ∧ (∀ (f : MemF) (v : Nat), v < 2 ^ (8 * f.sz.bytes) →
      extendTo f v = if f.sx then (sxInt (8 * f.sz.bytes) v % 2 ^ (if f.u then 64 else 32)).toNat else v)
  ∧ ∀ (x : Issue) (l tag pa : Nat) (a b : List Req), x.pair = none →
      let covers := fun (r : Req) => ∃ t bs v, r.who = ⟨x.wk, l⟩ ∧ r.kind = .store t bs ∧ find pa bs = some v
      ((∀ r ∈ x.s.held, ¬covers r) → x.laneByte l tag pa = x.s.rdByte tag pa)
      ∧ ∀ r t bs v, x.s.held = a ++ r :: b → r.who = ⟨x.wk, l⟩ → r.kind = .store t bs → find pa bs = some v → (∀ q ∈ b, ¬covers q) →
          x.laneByte l tag pa = v

/-- 09 R222–R225: loads and stores of the scratchpad, with a full/empty qualifier or without; a load whose bit is clear pends, without holding
its lane; `FEM` sets, clears and tests bits. -/
def Obligations.Scratchpad : Prop :=
  (∀ (s : State) (f : MemF) (x : Issue) (i : Instr) (d : Nat → Int) (un off : Nat → Nat),
    let z := x.takePorts
    let n := f.sz.bytes
    let imm := fun (_ : Nat) => f.imm.toInt
    let at_ := fun (n : Nat) => ∀ l ∈ x.ex, spPlace z (spOff z l (d l)) n = some (un l, off l)
    let whole := ∀ l ∈ x.ex, s.spPoisoned (un l) (off l) n = false
    let value := fun l => (extendTo f (ofLe (s.spBytes (un l) (off l) n)), 0)
    let bits := fun (b : Bool) => ({ x with s := x.ex.foldl (fun u l => u.setFe (un l) (off l) b) x.s } : Issue)
    ((i, d) ∈ [(.lds8 f, dispB z), (.lds12 f, imm)] → Issues s i f.p x → at_ n →
      (f.fe = .plain → whole → Ends s i x (Wrote x x.ex value))
      ∧ (f.fe ≠ .plain → (∀ l ∈ x.ex, spOff z l (d l) % n = 0) → whole → f.d < 240 ∨ x.w.isSeq = true →
          (∀ l ∈ x.ex, s.feBit (un l) (off l) = true ∧ ∀ p ∈ s.fePend, p.got = none → ¬(p.unit = un l ∧ p.off / 16 = off l / 16) ∧ p.who ≠ ⟨x.wk, l⟩) →
          (f.fe = .q2 → ∀ l ∈ x.ex, ∀ k ∈ x.ex, l ≠ k → un l ≠ un k ∨ off l / 16 ≠ off k / 16) →
          Ends s i x (Wrote (if f.fe = .q2 then bits false else x) x.ex value))
      ∧ (f.fe ≠ .plain → (∀ l ∈ x.ex, spOff z l (d l) % n = 0 ∧ s.feBit (un l) (off l) = false) →
          (∀ p ∈ s.fePend, ¬(p.who.warp = x.wk ∧ p.at_ = x.at_ ∧ p.got.isSome = true)) →
          Ends s i x (FrameOf { x with
            w := if f.d < 240 ∨ x.w.isSeq = true then x.awaits x.ex s.nextId else x.w
            s := { x.s with
              nextId := s.nextId + x.ex.length
              fePend := s.fePend ++ x.ex.zipIdx.map fun e =>
                { id := s.nextId + e.2, who := ⟨x.wk, e.1⟩, unit := un e.1, off := off e.1, size := n, sx := f.sx, consume := f.fe == .q2,
                  d := f.d, at_ := x.at_, grp := s.nextId, all := if f.d < 240 ∨ x.w.isSeq = true then [] else x.ex } } } [] [] [])))
    ∧ ((i, d) ∈ [(.sts8 f, dispB z), (.sts12 f, imm)] → Issues s i f.p x → at_ n → (f.fe ≠ .plain → ∀ l ∈ x.ex, spOff z l (d l) % n = 0) →
      Ends s i x (FrameOf { x with s := x.ex.foldl (fun u l =>
        let u := u.spWrite (un l) (off l) (leBytes n (z.val 0 l))
        if f.fe = .plain then u else u.setFe (un l) (off l) true) x.s } [] [] []))
    ∧ ((i, d) ∈ [(.femSet8 f, dispB z), (.femSet12 f, imm)] → Issues s i f.p x → at_ 1 → Ends s i x (FrameOf (bits true) [] [] []))
    ∧ ((i, d) ∈ [(.femClr8 f, dispB z), (.femClr12 f, imm)] → Issues s i f.p x → at_ 1 → Ends s i x (FrameOf (bits false) [] [] []))
    ∧ ((i, d) ∈ [(.femTest8 f, dispB z), (.femTest12 f, imm)] → Issues s i f.p x → at_ 1 →
      Ends s i x (Wrote x x.ex fun l => (flagNat (s.feBit (un l) (off l)), 0))))
  ∧ ∀ (s : State) (u o v k : Nat) (bs : List Byte) (b : Bool), k < 2 ^ 20 → o + bs.length ≤ 2 ^ 20 → o < 2 ^ 20 →
      (s.spWrite u o bs).spByte v k = (if v = u ∧ o ≤ k ∧ k < o + bs.length then bs.getD (k - o) 0 else s.spByte v k)
      ∧ (s.setFe u o b).feBit v k = (if v = u ∧ k / 16 = o / 16 then b else s.feBit v k)

/-- 09 R226, R228–R230: `LDG` marks the executing lanes in its rejoin mask and writes the data of the early ones, while the late ones wait in
fragments of their own; `SCT` lets one lane of each address store and marks it; `PREF` and `FENCE` only advance. Which lanes of an `LDG` are late is the machine's
choice: the model takes it from a list (log entry 3). -/
def Obligations.GatherAndScatter : Prop :=
  ∀ (s : State) (f : MemF) (x : Issue) (va : Nat → Nat) (ps : Nat → List Piece),
    let z := x.takePorts
    let n := f.sz.bytes
    (Issues s (.ldg f) f.p x → z.Reaches x.ex { write := false } n (z.memAdr (dispB z)) va ps →
      (∀ l ∈ x.ex, z.sound (ps l) ∧ (z.outstanding [l] = false ∨ ∀ p ∈ ps l, p.mt < 2)) → x.w.isSeq = false → FragsOk x.w → x.unparked →
      Ends s (.ldg f) x fun t w =>
        let late := fun l => bitAt (lateMask x) l && (ps l).all fun p => decide (p.mt < 2)
        FrameOf { x with s := { x.s with late := x.s.late.tail } } (Issue.regsOf false (x.opnd 0) ++ [(2, f.c)]) (x.ex.filter fun l => !late l)
          (x.ex.filter late) t w
        ∧ w.mreg f.c = x.w.mreg f.c ||| maskOf x.ex
        ∧ ∀ l ∈ x.ex, if late l then
            (w.lane l).st = .parked ∧ (w.lane l).pc = x.at_
              ∧ ∃ g q, w.frag (w.lane l).frag = some g ∧ g.rejoin = some f.c ∧ g.late = some q ∧ find l q.vas = some (va l)
                ∧ q.mask = f.c ∧ q.d = f.d ∧ q.size = n ∧ q.sx = f.sx
          else (w.lane l).st = .running ∧ (x.isPort 0 = false → perLane (x.opnd 0).cls = true →
            w.rdReg (x.opnd 0).cls (x.opnd 0).num l = kept false (x.opnd 0).cls (x.opnd 0).num (extendTo f (z.reads l (ps l)))))
    ∧ (Issues s (.sct f) f.p x → z.Reaches x.ex { write := true } n (z.memAdr (dispB z)) va ps → (∀ l ∈ x.ex, va l % n = 0) → x.n.flips = [] →
        let wins := fun l => x.ex.all fun k => va k != va l || (if f.x then decide (l ≤ k) else decide (k ≤ l))
        Ends s (.sct f) x (WroteBits (x.sent (storesOf (x.ex.filter wins) n ps (z.val 0))) f.c
          fun l => if l ∈ x.ex then wins l else bitAt (x.w.mreg f.c) l))
    ∧ (Issues s (.pref8 f) f.p x → (∀ l ∈ x.ex, z.memAdr (dispB z) l ≠ none) → Ends s (.pref8 f) x (FrameOf x [] [] []))
    ∧ (Issues s (.pref12 f) f.p x → (∀ l ∈ x.ex, z.memAdr (fun _ => f.imm.toInt) l ≠ none) → Ends s (.pref12 f) x (FrameOf x [] [] []))
    ∧ (Issues s (.fence f) f.p x → Ends s (.fence f) x fun t w => FrameOf x [] [] [] t w ∧ ∀ l ∈ x.act, (w.lane l).pc = x.at_ + 8)

/-- 09 R231, R232: each executing lane of an atomic sends one request, ascending; D of an `ATOM` waits for its result. What the operations leave in memory. -/
def Obligations.Atomics : Prop :=
  (∀ (s : State) (f : MemF) (x : Issue) (i : Instr) (op : Nat) (b c : Nat → Nat) (ret : Bool) (va : Nat → Nat) (ps : Nat → List Piece),
    let z := x.takePorts
    let n := f.sz.bytes
    (i, op, b, c, ret) ∈ [(.atom f, f.fn, z.val 2, fun _ => 0, true), (.atomCas f, 10, z.val 2, z.val 3, true),
      (.red8 f, redOp f.fn, z.val 2, fun _ => 0, false), (.red12 f, redOp f.fn, fun _ => redImm f, fun _ => 0, false)] →
    Issues s i f.p x → z.Reaches x.ex { write := true, onlyN := true, atomic := true } n (fun l => some (z.val 1 l)) va ps → (∀ l ∈ x.ex, va l % n = 0) →
    Ends s i x (FrameOf { x.sent (x.ex.map fun l =>
        let p := (ps l).headD { va := va l, n := n }
        (l, false, .atomic { pa := p.pa, tag := p.tag, home := p.home, size := n, op := op, b := b l % 2 ^ (8 * n), c := c l % 2 ^ (8 * n),
                             d := if ret then some f.d else none, acq := acqOrd f.ord, grp := if ret then s.nextId else 0 })) with
      w := if ret = true ∧ (f.d < 240 ∨ x.w.isSeq = true) then x.awaits x.ex s.nextId else x.w } [] [] []))
  ∧ ∀ (n m b c : Nat), 0 < n → m < 2 ^ (8 * n) → b < 2 ^ (8 * n) → c < 2 ^ (8 * n) →
      let w := 8 * n
      let r := fun op => (atomicOp op n m b c).1
      r 0 = (m + b) % 2 ^ w ∧ (r 1 : Int) = ((m : Int) - b) % 2 ^ w
      ∧ sxInt w (r 2) = min (sxInt w m) (sxInt w b) ∧ sxInt w (r 3) = max (sxInt w m) (sxInt w b) ∧ r 4 = min m b ∧ r 5 = max m b
      ∧ r 6 = m &&& b ∧ r 7 = m ||| b ∧ r 8 = m ^^^ b ∧ r 9 = b ∧ r 10 = (if m = b then c else m)
      ∧ r 11 = (if b ≤ m then 0 else m + 1) ∧ r 12 = (if m = 0 ∨ b < m then b else m - 1)
      ∧ atomicOp 13 n m b c = fpAdd lay32 .rne (num32 m) (num32 b) ∧ r 14 = fpMinMax false m b ∧ r 15 = fpMinMax true m b
      ∧ ∀ op, op ≠ 13 → (atomicOp op n m b c).2 = 0

/-- 09 R234: a lane whose first read ends the wait takes the value; another waits, and reads again after 32 cycles. -/
def Obligations.Polling : Prop :=
  ∀ (s : State) (f : MemF) (x : Issue) (va : Nat → Nat) (ps : Nat → List Piece),
    let z := x.takePorts
    let n := f.sz.bytes
    let ref := fun l => z.val 0 l % 2 ^ (8 * n)
    let hit := fun l => decide (z.reads l (ps l) = ref l) == f.x
    Issues s (.poll f) f.p x → z.Reaches x.ex { write := false, onlyN := true } n (z.memAdr fun _ => f.imm.toInt) va ps →
      (∀ l ∈ x.ex, va l % n = 0 ∧ z.sound (ps l)) →
      Ends s (.poll f) x fun t w =>
        FrameOf x (Issue.regsOf x.w.isSeq (x.opnd 0)) (x.ex.filter hit) [] t w
        ∧ ∀ l ∈ x.ex, if hit l then
            (w.lane l).st = .running ∧ (x.isPort 0 = false → x.w.isSeq = false → perLane (x.opnd 0).cls = true →
              w.rdReg (x.opnd 0).cls (x.opnd 0).num l = kept false (x.opnd 0).cls (x.opnd 0).num (z.reads l (ps l)))
          else (w.lane l).st = .waiting
            ∧ (w.lane l).wait = .poll (va l) (ref l) n f.x f.d (f.ord != .rlx) f.yh 32 (s.clock x.w.unit + 32)

/-- 09 R235, 05 R110: the checks of an access within one granule, in their order: a system table that is not mapped for the level, the steps of the
translation, the memory type, the key column, code, and write permission.
18 R350–R356, R359, 16 R310: what translation gives: no access from the normal world reaches a secure page; an address keeps its place in its 8 KiB page, and the
bytes of one page of a table stay together; those of a sequence lie where its block map and the second stage put them; a table that is not installed
gives a fault of the range. -/
def Obligations.TranslationAndChecks : Prop :=
  (∀ (s : State) (ck lvl va n : Nat) (lk : Option Nat) (k : AccessKind), 0 < n → va % 16 + n ≤ 16 →
    let t := va / 2 ^ 50
    (∀ a, (writeFault va k.code a).map (fun f => (f.code, f.kind, f.va)) =
      if a.w1 = false then some (0x11, k.code, va) else if a.w2 = false then some (0x19, k.code, va)
      else if a.rd = true then some (0x1C, k.code, va) else none)
    ∧ s.checkAccess ck lk lvl k va n =
      if 2 ≤ t ∧ t ≤ 15 ∧ (t = 2 ∨ s.sysMapped ck lvl t = false) then .trap 3 0x26
      else match s.translate ck lk k.code va with
        | .fault f => .fault f []
        | .world => .trap 3 0x24
        | .ok pa a =>
          if k.onlyN = true ∧ a.mt ≠ 0 ∨ k.noDev = true ∧ 2 ≤ a.mt then .trap 3 0x20
          else if 2 ≤ a.mt ∧ va % n ≠ 0 then .trap 2 2
          else if k.write = true ∧ (s.ctx ck).hitsKeyCol va n = true then .trap 3 0x22
          else if k.write = true ∧ t = 1 then .trap 3 0x25
          else match (if k.write then writeFault va k.code a else none) with
          | some f => .fault f []
          | none => .ok [{
              va := va, n := n, pa := pa, tag := a.tag, mt := a.mt, ext := a.ext
              home := if a.ac then some (pa / a.pageSize * a.pageSize) else none }])
  ∧ (∀ (s : State) (ck kind va vb pa pb : Nat) (lk : Option Nat) (a b : Attr),
    let t := va / 2 ^ 50
    (s.translate ck lk kind va = .ok pa a → (s.ctx ck).sec = false → a.sec = false)
    ∧ (t ≠ 1 → (s.ctx ck).table t = none → ∃ f, s.translate ck lk kind va = .fault f ∧ f.code = 0x14 ∧ f.va = va)
    ∧ (∀ tb, (s.ctx ck).table t = some tb → tb.desc.kind = 4 → t ≠ 1 → t ≠ 6 → t ≠ 7 → s.translate ck lk kind va = .ok pa a →
        s.slotPlace (s.ctx ck) tb (va % 2 ^ 50) = some (pa, a.tag))
    ∧ ∀ tb, (s.ctx ck).table t = some tb → tb.desc.kind ≠ 4 → t ≠ 1 → t ≠ 6 → t ≠ 7 → s.translate ck lk kind va = .ok pa a →
        pa % 8192 = va % 8192
        ∧ (va / 8192 = vb / 8192 → s.translate ck lk kind vb = .ok pb b →
            pa / 8192 = pb / 8192 ∧ a.w1 = b.w1 ∧ a.w2 = b.w2 ∧ a.mt = b.mt ∧ a.rd = b.rd ∧ a.tag = b.tag))

/-- 09 R235, 18 R360: what stops the accesses of the memory class: a trap for an address outside the table, a misalignment or a check that traps; a
parked fragment for a check that faults. -/
def Obligations.AccessFailures : Prop :=
  ∀ (s : State) (f : MemF) (x : Issue) (i : Instr) (ls : List Nat) (adr : Nat → Option Nat) (k : AccessKind) (align : Bool) (d : Nat → Int) (va : Nat → Nat),
    let z := x.takePorts
    let n := f.sz.bytes
    let reg := z.memAdr (dispB z)
    let imm := z.memAdr fun _ => f.imm.toInt
    let one := memLanes x f.u
    let at_ : AccessKind := { write := true, onlyN := true, atomic := true }
    let base := fun l => some (z.val 1 l)
    ((i, ls, adr, k, align) ∈ [(.ld8 f, one, reg, { write := false }, false), (.ld12 f, one, imm, { write := false }, false),
        (.st8 f, one, reg, { write := true }, false), (.st12 f, one, imm, { write := true }, false), (.sct f, x.ex, reg, { write := true }, true),
        (.atom f, x.ex, base, at_, true), (.atomCas f, x.ex, base, at_, true), (.red8 f, x.ex, base, at_, true), (.red12 f, x.ex, base, at_, true),
        (.poll f, x.ex, imm, { write := false, onlyN := true }, true)] → Issues s i f.p x →
      ((∀ l ∈ ls, adr l = none) → TrapsTo s i x ls (3, 0x23))
      ∧ ((∀ l ∈ ls, adr l = some (va l)) → align = true → (∀ l ∈ ls, va l % n ≠ 0) → TrapsTo s i x ls (2, 1))
      ∧ ((∀ l ∈ ls, adr l = some (va l)) → (align = true → ∀ l ∈ ls, va l % n = 0) →
          let got := fun l => z.s.checkAccess x.n.ctx (some x.n.launch) x.lvl k (va l) n
          (∀ c b, (∀ l ∈ ls, got l = .trap c b) → TrapsTo s i x ls (c, b)) ∧ ∀ g, (∀ l ∈ ls, got l = .fault (g l) []) → ParksTo s i x ls g))
    ∧ ((i, d) ∈ [(.pref8 f, dispB z), (.pref12 f, fun _ => f.imm.toInt)] → Issues s i f.p x → (∀ l ∈ x.ex, z.memAdr d l = none) →
        TrapsTo s i x x.ex (3, 0x23))
    ∧ ((i, d) ∈ [(.lds8 f, dispB z), (.lds12 f, fun _ => f.imm.toInt), (.sts8 f, dispB z), (.sts12 f, fun _ => f.imm.toInt)] → Issues s i f.p x →
        ((∀ l ∈ x.ex, spPlace z (spOff z l (d l)) n = none) → TrapsTo s i x x.ex (3, 0x21))
        ∧ (f.fe ≠ .plain → (∀ l ∈ x.ex, spPlace z (spOff z l (d l)) n ≠ none ∧ spOff z l (d l) % n ≠ 0) → TrapsTo s i x x.ex (2, 1)))
    ∧ ((i, d) ∈ [(.femSet8 f, dispB z), (.femSet12 f, fun _ => f.imm.toInt), (.femClr8 f, dispB z), (.femClr12 f, fun _ => f.imm.toInt),
          (.femTest8 f, dispB z), (.femTest12 f, fun _ => f.imm.toInt)] → Issues s i f.p x →
        (∀ l ∈ x.ex, spPlace z (spOff z l (d l)) 1 = none) → TrapsTo s i x x.ex (3, 0x21))

/-! ### What happens to memory requests -/

/-- 05 R137, R119, 09 R231, R232, 18 R370, R371: a held request that may leave its core is performed if it is a store, and otherwise goes to its server; an agent's
service warp serves its oldest request, and after its hold the write is performed and the result comes back to its register; requests are counted, a hint names a
page with enough of them from another agent, and the page's home moves there or stays. Each byte is told as it reads under the
key that the access uses.
(The moment of an atomic's write is log entry 29, the condition of a home move log entry 39.) -/
def Obligations.RequestsPerformed : Prop :=
  (∀ (s : State) (r : Req), (s.held.find? fun q => q.id == r.id) = some r → s.mayLeave r = true → s.poisonedEntry r.id = false →
    ∃ t, exec (.heldStoreRelease r.id) s = .next t ∧ t.held = s.held.filter (fun q => q.id != r.id)
      ∧ match r.kind with
        | .store tag bs => t.atomQ = s.atomQ ∧ t.rakeQ = s.rakeQ
            ∧ ((bs.map (·.1)).Nodup → ∀ e ∈ bs, e.1 < linkBase → t.rdByte tag e.1 = e.2)
            ∧ ∀ pa, pa ∉ bs.map (·.1) → t.rdByte tag pa = s.rdByte tag pa
        | .atomic _ => t.atomQ = s.atomQ ++ [r] ∧ t.rakeQ = s.rakeQ ∧ t.mem = s.mem
        | .table _ => t.atomQ = s.atomQ ∧ t.rakeQ = s.rakeQ ++ [r] ∧ t.mem = s.mem)
  ∧ (∀ (s : State) (q1 q2 : List Req) (r : Req) (a : AtomReq), s.atomQ = q1 ++ r :: q2 → r.kind = .atomic a → a.served = none →
      (∀ q ∈ q1, ∀ b, q.kind = .atomic b → b.served ≠ none ∨ s.ownerOf b ≠ s.ownerOf a) → (∀ q ∈ q1 ++ q2, q.id ≠ r.id) →
      s.homeBusy a (s.ownerOf a) = false →
      let k := s.ownerOf a
      exec (.atomicService k) s = .next { s with atomQ := q1 ++ { r with kind := .atomic { a with served := some (k, s.agentClock k + r.hold) } } :: q2 })
  ∧ (∀ (s : State) (q1 q2 : List Req) (r : Req) (a : AtomReq) (k ready : Nat), s.atomQ = q1 ++ r :: q2 → r.kind = .atomic a → a.served = some (k, ready) →
      ready ≤ s.agentClock k → (∀ q ∈ q1, ∀ b, q.kind = .atomic b → a.pa + a.size ≤ b.pa ∨ b.pa + b.size ≤ a.pa) → (∀ q ∈ q1 ++ q2, q.id ≠ r.id) →
      s.poisonedMem a.pa a.size = false → s.poisonedEntry r.id = false → a.pa + a.size ≤ linkBase →
      let m := ofLe (s.rdBytes a.tag a.pa a.size)
      let v := atomicOp a.op a.size m a.b a.c
      ∃ t, exec (.atomicResultReturn r.id) s = .next t
        ∧ t.atomQ = q1 ++ q2
        ∧ (∀ k, k < a.size → t.rdByte a.tag (a.pa + k) = (leBytes a.size v.1).getD k 0)
        ∧ (∀ p, p < a.pa ∨ a.pa + a.size ≤ p → t.rdByte a.tag p = s.rdByte a.tag p)
        ∧ (a.task = none → t.deques = s.deques)
        ∧ ∀ w d, find r.who.warp s.warps = some w → w.isSeq = false → a.d = some d → d < 240 → a.size = 4 ∨ a.size = 8 ∨ a.size = 16 → r.who.lane < 32 →
            w.lanes.length = 32 → (w.pend.any fun p => p.req == r.id) = true →
            ∃ y, find r.who.warp t.warps = some y
              ∧ y.rdReg (clsOfSize a.size) d r.who.lane = m ∧ (y.lane r.who.lane).fflags = (w.lane r.who.lane).fflags ||| v.2
              ∧ y.pend = w.pend.filter (fun p => p.req != r.id) ∧ y.s = w.s ∧ y.m = w.m
              ∧ ∀ k l, l < 32 → l ≠ r.who.lane ∨ k < d ∨ d + a.size / 4 ≤ k → y.vreg k l = w.vreg k l)
  ∧ (∀ (s : State) (page agent : Nat), (s.hintOf page = none → exec (.homeMove page agent) s = .next s)
      ∧ ∀ h, s.hintOf page = some h →
          (agent = h.agent → ∃ t, exec (.homeMove page agent) s = .next t
            ∧ t.homeAgent page = agent ∧ t.hintOf page = none ∧ (∀ a, a < 128 → t.accesses page a = 0)
            ∧ ∀ p a, a < 128 → p ≠ page → t.accesses p a = s.accesses p a ∧ t.homeAgent p = s.homeAgent p)
          ∧ (agent ≠ h.agent → agent = s.homeAgent page → exec (.homeMove page agent) s = .next { s with hints := s.hints.filter fun k => k.page != page })
          ∧ (agent ≠ h.agent → agent ≠ s.homeAgent page → exec (.homeMove page agent) s = .next s))
  ∧ ∀ (s : State) (page agent : Nat), agent < 128 → (s.hintOf page ≠ none → s.countAccess page agent = s)
      ∧ (s.hintOf page = none → s.accesses page agent + 1 < 65535 →
          let t := s.countAccess page agent
          t.accesses page agent = s.accesses page agent + 1 ∧ (∀ p a, a < 128 → p ≠ page ∨ a ≠ agent → t.accesses p a = s.accesses p a)
          ∧ (t.hintOf page ≠ none ↔ s.settings.acth + t.accesses page (s.homeAgent page) < t.accesses page agent))

/-- 09 R223, R224, R226, R234, 01 R43, 12 R299: data that arrive later: a full/empty load that its granule's bit serves, a cast that its consumer accepts, the late data of an
`LDG`, and the next read of a polled location. -/
def Obligations.DataArrives : Prop :=
  (∀ (s : State) (p : FePend) (w : Warp), s.feWaiting p.unit (p.off / 16) = [p] → (∀ q ∈ s.fePend, q.who = p.who → q.got = none → p.id ≤ q.id) → s.feBit p.unit (p.off / 16 * 16) = true → s.spPoisoned p.unit p.off p.size = false →
      find p.who.warp s.warps = some w → w.isSeq = false → p.d < 240 → (w.pend.any fun q => q.req == p.id) = true → p.who.lane < 32 →
      ∃ t y, exec (.fullEmptyLoadServe p.unit (p.off / 16)) s = .next t ∧ find p.who.warp t.warps = some y ∧ (∀ q ∈ t.fePend, q.id ≠ p.id)
        ∧ (let v := ofLe (s.spBytes p.unit p.off p.size)
           y.rdReg (clsOfSize p.size) p.d p.who.lane = kept false (clsOfSize p.size) p.d (if p.sx then wrapInt 32 (sxInt (8 * p.size) v) else v))
        ∧ (∀ q ∈ y.pend, q.req ≠ p.id) ∧ t.feBit p.unit p.off = !p.consume ∧ t.scratch = s.scratch)
  ∧ (∀ (s : State) (c : Cast) (wk : Nat) (w : Warp), (s.casts.find? fun k => k.id == c.id) = some c → s.castReady c = true → s.castTarget c = some (wk, w) →
      c.consumer < 4 → (c.lanes.map (·.1)).Nodup → (∀ e ∈ c.lanes, e.1 < 32) →
      ∃ t y, exec (.castDelivery c.id) s = .next t ∧ find wk t.warps = some y ∧ t.casts = s.casts.filter (fun k => k.id != c.id)
        ∧ (∀ e ∈ c.lanes, y.vreg c.reg e.1 = e.2.toNat) ∧ find c.reg y.castFull = some true
        ∧ (∀ r l, l < 32 → r ≠ c.reg ∨ l ∉ c.lanes.map (·.1) → y.vreg r l = w.vreg r l) ∧ y.lanes = w.lanes)
  ∧ (∀ (s : State) (c : Cast) (n : Node), (s.casts.find? fun k => k.id == c.id) = some c → c.consumer = 7 → find c.node s.nodes = some n →
      let off := bitsAt c.entry.toNat 32 16 * 16
      off + 128 ≤ n.partSize → n.partBase c.unit + off + 128 ≤ 2 ^ 20 →
      ∃ t, exec (.castDelivery c.id) s = .next t ∧ t.casts = s.casts.filter (fun k => k.id != c.id)
        ∧ (∀ l, l < 32 → ofLe (t.spBytes c.unit (n.partBase c.unit + off + 4 * l) 4) = ((find l c.lanes).getD 0).toNat)
        ∧ ∀ k, k < 128 → t.feBit c.unit (n.partBase c.unit + off + k) = true)
  ∧ (∀ (s : State) (r frag : Nat) (w : Warp) (n : Node) (g : Frag) (q : LateLoad) (ps : Nat → List Piece), find r s.warps = some w → w.frag frag = some g →
      g.late = some q → find w.node s.nodes = some n → n.pairs = [] → n.desc.red = false → w.isSeq = false → w.lanes.length = 32 → (q.vas.map (·.1)).Nodup →
      (∀ e ∈ q.vas, e.1 < 32 ∧ s.checkAccess n.ctx (some n.launch) n.desc.lvl { write := false } e.2 q.size = .ok (ps e.1)
        ∧ (∀ p ∈ ps e.1, p.mt < 2) ∧ s.badRead w.unit (ps e.1) = false) →
      ∃ t y, exec (.ldgLateArrival r frag) s = .next t ∧ find r t.warps = some y
        ∧ ∀ e ∈ q.vas, (y.lane e.1).st = .running ∧ (y.lane e.1).pc = (w.lane e.1).pc + 16
            ∧ let v := ofLe ((ps e.1).flatMap fun p => (List.range p.n).map fun i => s.ownByte r e.1 [] p.tag (p.pa + i))
              y.rdReg (clsOfSize q.size) q.d e.1 = kept false (clsOfSize q.size) q.d (if q.sx then wrapInt 32 (sxInt (8 * q.size) v) else v))
  ∧ ∀ (s : State) (r l : Nat) (w : Warp) (n : Node) (va ref sz d k due v : Nat) (eq acq yh : Bool), find r s.warps = some w → find w.node s.nodes = some n →
      n.desc.red = false → w.isSeq = false → d < 240 → l < 32 → w.lanes.length = 32 → (w.lane l).st = .waiting →
      (w.lane l).wait = .poll va ref sz eq d acq yh k due → due ≤ s.clock w.unit → s.reread r w l va sz = some (v, false) →
      ∃ t y, exec (.pollReread r l) s = .next t ∧ find r t.warps = some y
        ∧ if (v = ref) = (eq = true) then
            (y.lane l).st = .running ∧ (y.lane l).wait = .none ∧ y.rdReg (clsOfSize sz) d l = kept false (clsOfSize sz) d v
          else let again := if yh then min 8192 (2 * k) else k
            (y.lane l).st = .waiting ∧ (y.lane l).wait = .poll va ref sz eq d acq yh again (s.clock w.unit + again) ∧ y.v = w.v

/-! ### The table and sequence class -/

/-- 10 R237–R241, R243–R257: at issue each executing lane is checked, in the order of R241; lanes that all pass send one request with their operands, for
which the registers written wait, and fetch where R240 says so; lanes that all fail a check with one code trap; a change of table 7, for which no context has
write permission, parks its lanes (16 R439, 18 R359), and so does a `KGET` or a `KDEL` to whose shard no route leads (21 R404). With `NF` the rows that an insert would write must pass as they are at its issue (log entry 18).
(Which replies fetch waits for is log entry 18, the registers that wait log entry 33, the unmapped system table log entry 35, an unreachable shard log entry 38.) -/
def Obligations.TableRequests : Prop :=
  ∀ (s : State) (f : TabF) (x : Issue) (i : Instr) (susp : Bool) (seq : Nat → Nat) (arg : Nat → Except (Nat × Nat) TabLane),
    let z := x.takePorts
    let tab := tabOf z f
    let hnd := z.w.sreg f.a / 2 ^ 50
    let a := z.val 1
    let b := z.val 2
    let c := z.val 3
    let cur := fun l => z.admits (a l % 2 ^ 14) (fun d => d.kind == 1) fun _ => .ok { lane := l, tbl := a l % 2 ^ 14, a := a l }
    let mark := fun l => z.admits tab isSequence fun _ =>
      if countOk (b l) then .ok { lane := l, tbl := tab, a := a l, b := b l } else .error (7, 5)
    let no := fun (_ : Nat) => 0
    let one := fun (_ : Nat) => tab
    (i, susp, seq, arg) ∈
      [(.kget f, false, no, fun l => z.admits tab (fun d => d.kind == 0 || keyed d) fun t =>
          keyWidth (f.kw == t.desc.k16) { lane := l, tbl := tab, a := a l }),
       (.kins f, !f.nf, no, fun l => z.admits tab keyed fun t =>
          if f.kw ≠ t.desc.k16 then .error (8, 4)
          else if f.img then z.operand (c l) t.desc.keyBytes t.desc.rowBytes 16 fun bs => { lane := l, tbl := tab, a := a l, data := bs }
          else .ok { lane := l, tbl := tab, a := a l }),
       (.kdel f, false, no, fun l => z.admits tab keyed fun t =>
          keyWidth (f.kw == (t.desc.uniq && t.desc.k16)) { lane := l, tbl := tab, a := a l }),
       (.kseek f, false, no, fun l => z.admits tab (fun d => d.kind == 1) fun t =>
          keyWidth (f.kw == t.desc.k16) { lane := l, tbl := tab, a := a l, b := b l }),
       (.knext f, true, no, cur), (.kprev f, true, no, cur), (.kclose f, true, no, cur),
       (.kpfx f, false, no, fun l => z.admits tab (fun d => d.kind == 3) fun _ =>
          if 65536 < b l then .error (8, 7)
          else z.operand (a l) 0 (4 * b l) 4 fun bs => { lane := l, tbl := tab, b := b l, toks := words32 bs }),
       (.kpfxi f, !f.nf, no, fun l => z.admits tab (fun d => d.kind == 3) fun _ =>
          if b l % 16 ≠ 0 ∨ b l < 16 ∨ 65536 < b l then .error (8, 7)
          else z.operand (a l) 0 (4 * b l) 4 fun bs => { lane := l, tbl := tab, a := a l, b := b l, c := c l % 2 ^ 14, toks := words32 bs }),
       (.krecl f, false, no, fun l => z.admits hnd (fun d => keyed d || d.kind == 3) fun _ => .ok { lane := l, tbl := hnd }),
       (.sqres f, false, one, fun l => z.admits tab (fun d => isSequence d && !d.pl) fun _ =>
          if countOk (a l) then .ok { lane := l, tbl := tab, a := a l } else .error (7, 5)),
       (.sqcmt f, true, one, mark), (.sqabn f, true, one, mark),
       (.sqlen f, false, no, fun l => z.admits hnd isSequence fun _ => .ok { lane := l, tbl := hnd }),
       (.sqfork f, true, fun l => c l / 2 ^ 50, fun l => z.admits tab isSequence fun _ =>
          if c l / 2 ^ 50 ≤ 2 ∨ z.ctx.table (c l / 2 ^ 50) = none then .error (8, 3)
          else if c l / 2 ^ 50 ≤ 15 ∧ z.s.sysMapped z.n.ctx z.lvl (c l / 2 ^ 50) = false then .error (3, 0x26) else .ok { lane := l, tbl := tab, a := a l, b := c l }),
       (.sqdrop f, true, fun l => a l / 2 ^ 50, fun l => z.admits (a l / 2 ^ 50) isSequence fun _ => .ok { lane := l, tbl := a l / 2 ^ 50 }),
       (.sqloc f, false, no, fun l => z.admits tab isSequence fun _ => .ok { lane := l, tbl := tab, a := a l }),
       (.tinfo f, false, no, fun l =>
          if f.item = 0 ∨ hnd = 2 ∧ 0x40 ≤ f.item ∧ f.item ≤ 0x4C then .ok { lane := l, tbl := hnd }
          else if hnd = 2 then .error (8, 6)
          else match z.ctx.table hnd with
            | none => .error (8, 3)
            | some t =>
              if hnd < 2 then .error (8, 3)
              else if z.ctx.descOk t.desc = false ∨ z.s.shardOk z.n.ctx t.desc = false ∨ .index z.n.ctx hnd ∈ z.s.poison then .error (8, 2)
              else if f.item ≤ 0x12 then .ok { lane := l, tbl := hnd } else .error (8, 6))] →
    Issues s i f.p x → (∀ o n, s.spPoisoned x.w.unit o n = false) →
      (x.ex = [] → Ends s i x (FrameOf x [] [] []))
      ∧ (∀ e : Nat → TabLane, x.ex ≠ [] → (∀ l ∈ x.ex, arg l = .ok (e l)) →
          ((∀ l ∈ x.ex, seq l ≠ 7) → ((i = .kins f ∨ i = .kpfxi f) → f.nf = true → probeRows z (x.ex.map e) = (z, x.ex.map e)) →
            (i = .kget f ∨ i = .kdel f → ∀ l ∈ x.ex, z.s.reachable z.n.ctx i (e l) = true) →
            Ends s i x (FrameOf (x.asks susp (x.ex.map e)) [] [] []))
          ∧ (i = .kget f ∨ i = .kdel f → (∀ l ∈ x.ex, z.s.reachable z.n.ctx i (e l) = false) →
              ParksTo s i x x.ex fun l => noRouteFault (e l).tbl)
          ∧ ((∀ l ∈ x.ex, seq l = 7) →
              ParksTo s i x x.ex fun _ => { code := 0x11, level := 3, kind := 3, va := 7 * 2 ^ 50, page := 7 * 2 ^ 50, pageSize := 8192 }))
      ∧ ∀ code, (∀ l ∈ x.ex, arg l = .error code) → TrapsTo s i x x.ex code

/-- 10 R255: `SQWAIT`: the lanes that pass the checks wait on the committed length; 16 R439: `tabCheck` names the first failure among the number, the map of system
tables, the descriptor and the kind.
(The unmapped system table is log entry 35.) -/
def Obligations.TableChecks : Prop :=
  (∀ (s : State) (f : TabF) (x : Issue), let z := x.takePorts
    Issues s (.sqwait f) f.p x → tabCheck z (tabOf z f) isSequence = none → x.ex ≠ [] →
      ((∀ l ∈ x.ex, 2 ^ 48 < z.val 1 l) → TrapsTo s (.sqwait f) x x.ex (7, 5))
      ∧ ((∀ l ∈ x.ex, z.val 1 l ≤ 2 ^ 48) → Ends s (.sqwait f) x fun t w =>
          FrameOf (x.sent [(x.lowest, false, .table { instr := .sqwait f, at_ := x.at_, lanes := x.ex.map fun l => { lane := l, tbl := tabOf z f, a := z.val 1 l } })])
            [] [] [] t w
          ∧ ∀ l ∈ x.ex, (w.lane l).st = .waiting ∧ (w.lane l).wait = .sqwait (tabOf z f) (z.val 1 l) f.d))
  ∧ ∀ (x : Issue) (t : Nat) (fits : Desc → Bool) (tb : Table),
      (x.ctx.table t = none → tabCheck x t fits = some (8, 3))
      ∧ (x.ctx.table t = some tb →
          (t ≤ 2 → tabCheck x t fits = some (8, 3))
          ∧ (3 ≤ t → t ≤ 15 → x.s.sysMapped x.n.ctx x.lvl t = false → tabCheck x t fits = some (3, 0x26))
          ∧ (3 ≤ t → 15 < t ∨ x.s.sysMapped x.n.ctx x.lvl t = true →
              (x.ctx.descOk tb.desc = false → tabCheck x t fits = some (8, 2))
              ∧ (x.ctx.descOk tb.desc = true → x.s.shardOk x.n.ctx tb.desc = true → .index x.n.ctx t ∉ x.s.poison →
                  tabCheck x t fits = if fits tb.desc then none else some (8, 1))))
      ∧ x.s.sysMapped x.n.ctx x.lvl 0 = false ∧ (x.lvl = 0 → ∀ k, k ∈ [5, 7, 8, 9] → x.s.sysMapped x.n.ctx x.lvl k = false)
      ∧ (x.lvl ≤ 1 → ∀ k, k ∈ [7, 9] → x.s.sysMapped x.n.ctx x.lvl k = false)
      ∧ (x.s.fabricMapped x.n.ctx = false → x.s.sysMapped x.n.ctx x.lvl 6 = false)

/-- 06 R143, R144, R147–R155, 10 R242–R252: the keyed operations at their point, on a table without shards: lookups, insertion in the lowest free slot, deletion, reclaiming,
cursors, prefixes, and the items of `TINFO` that change.
(The cursor record that is taken is log entry 17.) -/
def Obligations.KeyedOperations : Prop :=
  (∀ (s : State) (ck node warp : Nat) (e : TabLane) (f : TabF), let tb := s.tableOf ck e.tbl
    tb.desc.shard = 0 → find e.tbl (s.ctx ck).tables = some tb → e.tbl < 2 ^ 14 →
    let row := fun slot => e.tbl * 2 ^ 50 + slot * 2 ^ tb.desc.rowlg
    let hit := fun slot => (⟨e.a, slot⟩ : Entry) ∈ tb.index
    let after := fun (o : State × TabOut) => o.1.tableOf ck e.tbl
    (tb.desc.kind = 0 → s.opKget ck e = (s, if e.a < tb.desc.cap then { lane := e.lane, d := some (row e.a), sr := some 0 } else { lane := e.lane, sr := some 2 }))
    ∧ (tb.desc.kind ≠ 0 → (∀ k, ¬hit k) → s.opKget ck e = (s, { lane := e.lane, sr := some 2 }))
    ∧ (tb.desc.kind ≠ 0 → ∀ k, hit k → (∀ j, hit j → k ≤ j) → s.opKget ck e = (s, { lane := e.lane, d := some (row k), sr := some 0 }))
    ∧ (∀ k, tb.desc.uniq = true → hit k → (∀ j, hit j → k ≤ j) → s.opKins ck f e =
        (s, if f.nf then { lane := e.lane, d := some (row k), sr := some 3 } else { lane := e.lane, trap := some (4, 0) }))
    ∧ (tb.desc.uniq = false ∨ (∀ k, ¬hit k) → tb.freeSlot = none → s.opKins ck f e = (s, { lane := e.lane, sr := some 4 }))
    ∧ (∀ k u, tb.desc.uniq = false ∨ (∀ j, ¬hit j) → tb.freeSlot = some k →
        let kw := if tb.desc.k16 then 16 else 8
        let rest := 2 ^ tb.desc.rowlg - kw
        s.newRow ck e.tbl k (leBytes kw e.a ++ if f.img then e.data.take rest else List.replicate rest 0) (fun t => t.addEntry ⟨e.a, k⟩) = .ok u →
        s.opKins ck f e = (u, { lane := e.lane, d := some (row k), sr := some 0 }) ∧ u.tableOf ck e.tbl = tb.addEntry ⟨e.a, k⟩)
    ∧ (∀ k, tb.freeSlot = some k ↔ k < tb.desc.cap ∧ k ∉ tb.live ∧ k ∉ tb.dead ∧ ∀ j, j < k → j ∈ tb.live ∨ j ∈ tb.dead)
    ∧ (tb.desc.uniq = true → ∀ k, hit k → (∀ j, hit j → k ≤ j) →
        (s.opKdel ck e).2 = { lane := e.lane, sr := some 0 } ∧ after (s.opKdel ck e) = tb.delEntry ⟨e.a, k⟩)
    ∧ (tb.desc.uniq = true → (∀ k, ¬hit k) → s.opKdel ck e = (s, { lane := e.lane, sr := some 2 }))
    ∧ (tb.desc.uniq = false → (∀ y ∈ tb.index, y.slot ≠ e.a) → s.opKdel ck e = (s, { lane := e.lane, sr := some 2 }))
    ∧ (tb.desc.uniq = false → ∀ y ∈ tb.index, y.slot = e.a → (∀ z ∈ tb.index, z.slot = e.a → z = y) →
        (s.opKdel ck e).2 = { lane := e.lane, sr := some 0 } ∧ after (s.opKdel ck e) = tb.delEntry y)
    ∧ (∀ y, (tb.delEntry y).live = tb.live.filter (· != y.slot) ∧ (tb.delEntry y).dead = tb.dead ++ [y.slot])
    ∧ ((∀ c ∈ tb.cursors, c.open_ = false) → (s.opKrecl ck e).2 = { lane := e.lane, d := some 0 } ∧ after (s.opKrecl ck e) = { tb with dead := [] })
    ∧ ((∃ c ∈ tb.cursors, c.open_ = true) → s.opKrecl ck e = (s, { lane := e.lane, d := some 8 }))
    ∧ (65535 ≤ tb.openCount → s.opKseek ck node warp f e = (s, { lane := e.lane, sr := some 8 }))
    ∧ (tb.openCount < 65535 → tb.cursors.length < 65535 → ∃ c : Cursor, c ∈ (after (s.opKseek ck node warp f e)).cursors ∧ c.num < 65535
        ∧ (∀ d ∈ tb.cursors, d.open_ = true → d.num ≠ c.num ∧ d ∈ (after (s.opKseek ck node warp f e)).cursors)
        ∧ c.open_ = true ∧ c.node = node ∧ c.desc = f.desc ∧ c.pos.key = e.a ∧ c.end_ = e.b ∧ c.first = true ∧ 1 ≤ c.gen
        ∧ ((∀ d ∈ tb.cursors, d.num < 65535 ∧ d.gen < 65536) → c.gen < 65536)
        ∧ (s.opKseek ck node warp f e).2 = { lane := e.lane, sr := some 0, d := some (e.tbl + (if f.desc then 2 ^ 17 else 0) + (if tb.desc.k16 then 2 ^ 18 else 0)
            + c.num * 2 ^ 32 + c.gen * 2 ^ 48 + (2 ^ 64 - 1) * 2 ^ 64) })
    ∧ (∀ down, tb.cursorOf e.tbl node e.a = none → s.opStep ck node down e = (s, { lane := e.lane, trap := some (8, 5) })
        ∧ s.opKclose ck node e = (s, { lane := e.lane, trap := some (8, 5) }))
    ∧ (∀ c, tb.cursorOf e.tbl node e.a = some c →
        (∀ down, c.desc ≠ down → s.opStep ck node down e = (s, { lane := e.lane, trap := some (8, 5) }))
        ∧ (tb.stepEntry c = none → s.opStep ck node c.desc e = (s, { lane := e.lane, b := some 1 }))
        ∧ (∀ y, tb.stepEntry c = some y → (s.opStep ck node c.desc e).2 = { lane := e.lane, d := some (row y.slot), b := some 0, hint := some y.slot }
            ∧ after (s.opStep ck node c.desc e) = tb.setCursor { c with pos := y, first := false })
        ∧ (s.opKclose ck node e).2 = { lane := e.lane } ∧ after (s.opKclose ck node e) = tb.setCursor { c with open_ := false })
    ∧ (∀ p y, tb.prefixMatch e.toks (e.b / 16) = some (p, y) → s.opKpfx ck e = (s, { lane := e.lane, d := some (row y.slot), xr := some p, sr := some 0 }))
    ∧ (tb.prefixMatch e.toks (e.b / 16) = none → s.opKpfx ck e = (s, { lane := e.lane, xr := some 0, sr := some 2 }))
    ∧ (∀ y, (tb.pfx.find? fun z => z.tokens == e.toks) = some y → s.opKpfxi ck f e =
        (s, if f.nf then { lane := e.lane, d := some (row y.slot), xr := some y.seq, sr := some 3 } else { lane := e.lane, trap := some (4, 0) }))
    ∧ ((∀ y ∈ tb.pfx, y.tokens ≠ e.toks) → tb.freeSlot = none → s.opKpfxi ck f e = (s, { lane := e.lane, sr := some 4 }))
    ∧ (∀ k u, (∀ y ∈ tb.pfx, y.tokens ≠ e.toks) → tb.freeSlot = some k →
        s.newRow ck e.tbl k (leBytes (2 ^ tb.desc.rowlg) (e.c + e.b * 2 ^ 16)) (fun t => { t with pfx := t.pfx ++ [⟨e.toks, k, e.c⟩], live := t.live ++ [k] }) = .ok u →
        s.opKpfxi ck f e = (u, { lane := e.lane, d := some (row k), xr := some e.c, sr := some 0 }))
    ∧ (3 ≤ e.tbl → tb.desc.kind = 1 ∨ tb.desc.kind = 2 ∨ tb.desc.kind = 3 → s.tinfo ck 0x0D e.tbl = tb.live.length ∧ s.tinfo ck 0x0E e.tbl = tb.dead.length)
    ∧ (tb.desc.kind = 4 → s.tinfo ck 0x0B e.tbl = tb.c ∧ s.tinfo ck 0x0C e.tbl = tb.r))
  ∧ (∀ (t : Table) (c : Cursor) (y : Entry), t.index.Pairwise (fun a b => a.lt t.desc.uniq b = true) →
      let within := fun (z : Entry) => if c.desc then
          (if c.first then z.le t.desc.uniq c.pos else z.lt t.desc.uniq c.pos) = true ∧ c.end_ ≤ z.key
        else (if c.first then c.pos.le t.desc.uniq z else c.pos.lt t.desc.uniq z) = true ∧ z.key ≤ c.end_
      (t.stepEntry c = none ↔ ∀ z ∈ t.index, ¬within z)
      ∧ (t.stepEntry c = some y → y ∈ t.index ∧ within y ∧ ∀ z ∈ t.index, within z → if c.desc then z.le t.desc.uniq y = true else y.le t.desc.uniq z = true))
  ∧ ∀ (t : Table) (q : List Nat) (n : Nat),
      let serves := fun m => ∃ y ∈ t.pfx, 16 * m ≤ y.tokens.length ∧ y.tokens.take (16 * m) = q.take (16 * m)
      (t.prefixMatch q n = none ↔ ∀ m, 1 ≤ m → m ≤ n → ¬serves m)
      ∧ ∀ p y, t.prefixMatch q n = some (p, y) → y ∈ t.pfx ∧ ∃ m, p = 16 * m ∧ 1 ≤ m ∧ m ≤ n ∧ p ≤ y.tokens.length ∧ y.tokens.take p = q.take p
          ∧ ∀ k, m < k → k ≤ n → ¬serves k

/-- 06 R146: insertion into the ordered index and removal from it keep its order, whatever splits and merges they make; the entries are those before with
the new one, or without the one removed. -/
def Obligations.OrderedIndex : Prop :=
  ∀ (lcap : Nat) (uniq : Bool) (t : Tree) (e : Entry), 4 ≤ lcap → TreeOk uniq t →
    ((∀ a ∈ t.entries, a.lt uniq e = true ∨ e.lt uniq a = true) → TreeOk uniq (t.add lcap uniq e) ∧ (t.add lcap uniq e).entries.Perm (e :: t.entries))
    ∧ (e ∈ t.entries → TreeOk uniq (t.remove lcap uniq e) ∧ (t.remove lcap uniq e).entries = t.entries.filter (· != e))

/-- 06 R156–R161, R163, R164, 10 R253–R257: the sequence operations at their point: reservation and its refusals, marks and the committed length, abandonment, forks, drops and the
place of a position.
(The blocks that count against a pool are log entry 36.) -/
def Obligations.SequenceOperations : Prop :=
  (∀ (s : State) (ck node n : Nat) (e : TabLane), let tb := s.tableOf ck e.tbl
    find e.tbl (s.ctx ck).tables = some tb →
    (s.resRefused ck tb n = true → s.reserveSeq ck node e.tbl n = (s, none))
    ∧ (s.resRefused ck tb n = false → ∃ u y, s.reserveSeq ck node e.tbl n = (u, some tb.r) ∧ find e.tbl (u.ctx ck).tables = some y
        ∧ y.r = tb.r + n ∧ y.c = tb.c ∧ ∀ p, y.posSt p = if tb.r ≤ p ∧ p < tb.r + n then some (.reserved node) else tb.posSt p)
    ∧ (∀ k st, tb.markTrap e.a e.b = some k → s.opMark ck st e = (s, { lane := e.lane, trap := some (7, k) }))
    ∧ (∀ st, tb.markTrap e.a e.b = none → (s.opMark ck st e).2 = { lane := e.lane } ∧ (s.opMark ck st e).1.tableOf ck e.tbl = tb.mark e.a e.b st)
    ∧ ((∃ p k, (p, .reserved k) ∈ tb.pos) → s.opSqdrop ck e = (s, { lane := e.lane, trap := some (7, 3) }))
    ∧ ((∀ p k, (p, .reserved k) ∉ tb.pos) → (s.opSqdrop ck e).2 = { lane := e.lane } ∧ ((∀ g ∈ s.lent, g.2.2.1 ≠ e.tbl ∨ g.2.1 ≠ ck) →
        (s.opSqdrop ck e).1.tableOf ck e.tbl = { tb with blocks := [], pos := [], r := 0, c := 0 }))
    ∧ (s.opSqloc ck e = (s, if tb.r ≤ e.a then { lane := e.lane, sr := some 7 }
        else if tb.desc.win ≠ 0 ∧ tb.desc.sink ≤ e.a ∧ e.a + tb.desc.win < tb.r then { lane := e.lane, sr := some 5 }
        else { lane := e.lane
               sr := some (match tb.posSt e.a with | some (.reserved _) => 9 | some .void => 6 | _ => 0)
               d := some (e.tbl * 2 ^ 50 + 2 ^ tb.desc.rowlg * if tb.desc.win ≠ 0 ∧ tb.desc.sink ≤ e.a then
                 tb.desc.sink + (e.a - tb.desc.sink) % tb.desc.win else e.a) }))
    ∧ (let y := s.tableOf ck (e.b / 2 ^ 50)
       (forkOk tb y e.a = false ∨ (s.ctx ck).descOk y.desc = false → s.opSqfork ck e = (s, { lane := e.lane, trap := some (7, 4) }))
       ∧ (¬((s.opSqfork ck e).2.trap = none ∧ (s.opSqfork ck e).2.fault = none) → (s.opSqfork ck e).1 = s)
       ∧ (forkOk tb y e.a = true → (s.ctx ck).descOk y.desc = true → tb.desc.win = 0 → e.a = 0 → (s.opSqfork ck e).2 = { lane := e.lane })
       ∧ (forkOk tb y e.a = true → (s.ctx ck).descOk y.desc = true → find (e.b / 2 ^ 50) (s.ctx ck).tables = some y → e.b / 2 ^ 50 ≠ e.tbl →
          (s.opSqfork ck e).2.trap = none → (s.opSqfork ck e).2.fault = none → (s.opSqfork ck e).2 = { lane := e.lane } ∧ ∃ v, find (e.b / 2 ^ 50) ((s.opSqfork ck e).1.ctx ck).tables = some v
            ∧ v.desc = y.desc ∧ v.r = e.a ∧ v.c = e.a ∧ ∀ p, p < e.a → v.posSt p = tb.posSt p)))
  ∧ (∀ (s : State) (ck n : Nat) (t : Table), s.resRefused ck t n = true ↔ 2 ^ 48 < t.r + n
      ∨ t.desc.win ≠ 0 ∧ max t.c t.desc.sink + t.desc.win < t.r + n
      ∨ t.desc.win = 0 ∧ t.desc.pool ≠ 0 ∧ t.desc.cap + 256 * s.lendable ck t.desc.pool < t.r + n
      ∨ t.desc.win = 0 ∧ t.desc.pool = 0 ∧ t.desc.cap < t.r + n)
  ∧ ∀ (t : Table) (a n p : Nat) (st : PosSt),
      let done := fun (x : Table) q => x.posSt q = some .committed ∨ x.posSt q = some .void
      (t.markTrap a n = none ↔ ∀ i, i < n → a + i < t.r ∧ ∃ k, find (a + i) t.pos = some (.reserved k))
      ∧ (∀ k, t.markTrap a n = some k → ∃ i, i < n ∧ (∀ j, j < i → a + j < t.r ∧ ∃ m, find (a + j) t.pos = some (.reserved m))
          ∧ k = if t.r ≤ a + i then 1 else 2)
      ∧ (t.mark a n st).posSt p = (if a ≤ p ∧ p < a + n then some st else t.posSt p) ∧ (t.mark a n st).r = t.r
      ∧ (t.c ≤ t.r → t.c ≤ (t.mark a n st).c ∧ (t.mark a n st).c ≤ t.r ∧ (∀ q, t.c ≤ q → q < (t.mark a n st).c → done (t.mark a n st) q)
          ∧ ((t.mark a n st).c < t.r → ¬done (t.mark a n st) (t.mark a n st).c))
      ∧ ∀ node, (t.abandon node).posSt p = if t.posSt p = some (.reserved node) then some .void else t.posSt p

/-- 06 R145, R148, 10 R240, R255: a request at the rake units takes its point; its reply writes the registers that the outcome changes, and traps lanes precisely; a lane that
waits on a committed length is released. -/
def Obligations.RakeEvents : Prop :=
  (∀ (s : State) (r : Req) (t : TabReq) (e : TabLane) (f : TabF) (g : SysF) (n : Node) (i : Instr) (op : State → State × TabOut) (w : Warp),
    (s.rakeQ.find? fun q => q.id == r.id) = some r → s.rakeReady r = true → s.poisonedEntry r.id = false → r.kind = .table t → t.instr = i → t.lanes = [e] →
    find r.node s.nodes = some n → n.st.final = false → find r.who.warp s.warps = some w → (w.lane e.lane).st ≠ .exited →
    (∀ k ∈ s.shardsOf r.ctx i e, s.away r.ctx k = false) →
    (i, op) ∈ [(.tinfo f, fun s => (s, { lane := e.lane, d := some (s.tinfo r.ctx f.item e.tbl) })), (.kget f, fun s => s.opKget r.ctx e),
      (.kins f, fun s => s.opKins r.ctx f e), (.kdel f, fun s => s.opKdel r.ctx e), (.kseek f, fun s => s.opKseek r.ctx r.node r.who.warp f e),
      (.knext f, fun s => s.opStep r.ctx r.node false e), (.kprev f, fun s => s.opStep r.ctx r.node true e), (.kclose f, fun s => s.opKclose r.ctx r.node e),
      (.kpfx f, fun s => s.opKpfx r.ctx e), (.kpfxi f, fun s => s.opKpfxi r.ctx f e), (.krecl f, fun s => s.opKrecl r.ctx e),
      (.sqres f, fun s => match s.reserveSeq r.ctx r.node e.tbl e.a with
        | (u, some p) => (u, { lane := e.lane, d := some p, sr := some 0 })
        | (u, none) => (u, { lane := e.lane, sr := some 4 })),
      (.sqcmt f, fun s => let m := s.opMark r.ctx .committed e
        (if m.2.trap = none then m.1.noteSubmit r.ctx e.tbl e.a e.b n.desc.lvl else m.1, m.2)), (.kmig g, fun s => s.opKmig r.ctx e),
      (.sqabn f, fun s => s.opMark r.ctx .void e), (.sqlen f, fun s => (s, { lane := e.lane, d := some (s.tableOf r.ctx e.tbl).c })),
      (.sqfork f, fun s => s.opSqfork r.ctx e), (.sqdrop f, fun s => s.opSqdrop r.ctx e), (.sqloc f, fun s => s.opSqloc r.ctx e)] →
    let u := op { s with rakeQ := s.rakeQ.filter fun q => q.id != r.id }
    exec (.rakeOperation r.id) s = .next { u.1 with tabRes := u.1.tabRes ++ [{ id := r.id, warp := r.who.warp, instr := i, at_ := t.at_, outs := [u.2] }] })
  ∧ (∀ (s : State) (r : TabRes) (w : Warp) (n : Node) (o : TabOut), (s.tabRes.find? fun q => q.id == r.id) = some r → find r.warp s.warps = some w →
      find w.node s.nodes = some n → n.desc.red = false → n.pairs = [] → w.isSeq = false → r.outs = [o] → o.lane < 32 → w.lanes.length = 32 →
      (w.pend.any fun p => p.req == r.id) = true ∨ w.suspended = some r.id → ((w.frag (w.lane o.lane).frag).bind (·.park)).isNone = true → FragsOk w →
      o.fault = none →
      let quad := (r.instr.opnds.getD 1 ⟨.none, 0, .n⟩).num
      ∃ t y, exec (.tableReply r.id) s = .next t ∧ find r.warp t.warps = some y ∧ t.tabRes = s.tabRes.filter (fun q => q.id != r.id)
        ∧ y.pend = w.pend.filter (fun p => p.req != r.id) ∧ y.suspended = (if w.suspended = some r.id then none else w.suspended)
        ∧ (o.trap = none → ∀ k v, (k, v) ∈ [(0, o.d), (2, o.b), (4, o.sr), (5, o.xr)] → ∀ d, let p := r.instr.opnds.getD k ⟨.none, 0, .n⟩
            v = some d → p.cls = .v ∨ p.cls = .vp ∨ p.cls = .vq → ¬(p.cls = .v ∧ 240 ≤ p.num) →
            (∀ j u, (j, u) ∈ [(0, o.d), (2, o.b), (4, o.sr), (5, o.xr)] → j ≠ k → u ≠ none →
              ∀ g ∈ p.vregs, g ∉ (r.instr.opnds.getD j ⟨.none, 0, .n⟩).vregs) → (o.hint ≠ none → quad + 2 ∉ p.vregs ∧ quad + 3 ∉ p.vregs) → y.rdReg p.cls p.num o.lane = kept false p.cls p.num d)
        ∧ (∀ h, o.hint = some h → y.vreg (quad + 2) o.lane = h % 2 ^ 32 ∧ y.vreg (quad + 3) o.lane = h / 2 ^ 32 % 2 ^ 32)
        ∧ (o = { lane := o.lane } → y.v = w.v)
        ∧ ∀ c b, o.trap = some (c, b) → o.d = none → o.b = none → o.sr = none → o.xr = none → o.hint = none → w.utvec ≠ 0 → (w.lane o.lane).inHandler = false →
            y.lane o.lane = { w.lane o.lane with
              st := .running, inHandler := true, pc := w.utvec.toNat, ucause := c + b * 256, uepc := BitVec.ofNat 32 r.at_, frag := (y.lane o.lane).frag }
            ∧ y.v = w.v)
  ∧ ∀ (s : State) (r l c d : Nat) (w : Warp), s.sqwaitHit r l = some (c, d) → find r s.warps = some w → w.isSeq = false → l < 32 → w.lanes.length = 32 →
      ∃ t y, exec (.sqwaitRelease r l) s = .next t ∧ find r t.warps = some y ∧ (y.lane l).st = .running ∧ (y.lane l).wait = .none
        ∧ y.rdReg .vp d l = c % 2 ^ 64 ∧ ∀ k e, k ∈ w.sqwaitMates l → s.sqwaitHit r k = some e → (y.lane k).st = .running ∧ (y.lane k).wait = .none

/-! ### The tile class -/

/-- 11 R260, R262–R264, R269: `TCFG` writes a shape that is legal and traps on another; `TRDC` reads it in every lane of the active path; `TLD` hands the rows that
it reads to the engine, and `TST` stores the rows of its tile, in the partition or in memory. -/
def Obligations.TileShapesAndMoves : Prop :=
  (∀ (s : State) (f : TileF) (x : Issue),
    let z := x.takePorts
    let r := z.tile f.d
    let e := z.elected
    let n := z.elect32 3
    let pitch := r.sh.pitch
    let row := fun i => z.n.storedRow (z.n.coreIdx z.w.unit) r i
    let set := fun v => ({ x with n := { x.n with tcfg := put 0 (x.n.coreIdx x.w.unit * 16 + f.d) (BitVec.ofNat 32 v) x.n.tcfg } } : Issue)
    let loads := fun rows => ({ x with s := { x.s with
      tileQ := x.s.tileQ ++ [{ id := s.nextId, unit := x.w.unit, node := x.nk, warp := x.wk, lane := x.elected, work := .load r rows }]
      nextId := s.nextId + 1 } } : Issue)
    (Issues s (.tcfg12 f) f.p x → x.ex ≠ [] → Ends s (.tcfg12 f) x (FrameOf (set f.imm.toNat) [] [] []))
    ∧ (Issues s (.tcfg8 f) f.p x → x.ex ≠ [] → tcfgOk (x.w.sreg f.b) = true → Ends s (.tcfg8 f) x (FrameOf (set (x.w.sreg f.b)) [] [] []))
    ∧ (Issues s (.tcfg8 f) f.p x → x.ex ≠ [] → tcfgOk (x.w.sreg f.b) = false → TrapsTo s (.tcfg8 f) x x.act (5, 2))
    ∧ (Issues s (.trdc f) f.p x → x.ex ≠ [] →
        Ends s (.trdc f) x (Wrote x x.act fun _ => ((getD 0 x.n.tcfg (x.n.coreIdx x.w.unit * 16 + f.a)).toNat, 0)))
    ∧ (∀ i, i ∈ [Instr.tcfg8 f, .tcfg12 f, .trdc f, .tld f, .tst f] → Issues s i f.p x → x.ex = [] →
        Ends s i x fun t w => ∃ rs, FrameOf x rs [] [] t w)
    ∧ (∀ i, i = .tld f ∨ i = .tst f → Issues s i f.p x → x.ex ≠ [] → r.sh.rows = 0 ∨ n = 0 ∨ r.sh.rows < n → TrapsTo s i x x.act (5, 2))
    ∧ (1 ≤ n → n ≤ r.sh.rows →
        (f.sp = true → spRows z pitch n = none → ∀ i, i = .tld f ∨ i = .tst f → Issues s i f.p x → x.ex ≠ [] → TrapsTo s i x x.act (3, 0x21))
        ∧ (∀ os, f.sp = true → spRows z pitch n = some os →
            (Issues s (.tld f) f.p x → x.ex ≠ [] → (∀ o ∈ os, s.spPoisoned x.w.unit (x.n.partBase x.w.unit + o) pitch = false) →
              Ends s (.tld f) x (FrameOf (loads (os.map fun o => s.spBytes x.w.unit (x.n.partBase x.w.unit + o) pitch)) [] [] []))
            ∧ (Issues s (.tst f) f.p x → x.ex ≠ [] → Ends s (.tst f) x (FrameOf { x with
                s := os.zipIdx.foldl (fun u o => u.spWrite x.w.unit (x.n.partBase x.w.unit + o.1) (row o.2)) x.s } [] [] [])))
        ∧ ∀ (va : Nat → Nat) (ps : Nat → List Piece), f.sp = false →
            let at_ := fun write => ∀ i, i < n → formAddr (z.val 1 e) ((i : Int) * sxInt 32 (z.elect32 2)) = some (va i)
              ∧ z.s.checkAccess x.n.ctx (some x.n.launch) x.lvl { write := write, noDev := true } (va i) pitch = .ok (ps i)
            (Issues s (.tld f) f.p x → x.ex ≠ [] → at_ false → (∀ i, i < n → z.sound (ps i)) →
              Ends s (.tld f) x (FrameOf (loads ((List.range n).map fun i => leBytes pitch (z.reads e (ps i)))) [] [] []))
            ∧ (Issues s (.tst f) f.p x → x.ex ≠ [] → at_ true → x.n.flips = [] →
              Ends s (.tst f) x (FrameOf (x.sent ((List.range n).flatMap fun i =>
                (Issue.pieceCells (ps i) (row i)).map fun c => (e, false, .store c.1 c.2))) [] [] []))))
  ∧ (∀ (x : Issue) (p n : Nat), let o := fun (i : Nat) => (x.elect32 1 : Int) + (i : Int) * sxInt 32 (x.elect32 2)
      (spRows x p n = none ↔ ∃ i, i < n ∧ (o i < 0 ∨ (x.n.partSize : Int) < o i + p))
      ∧ ∀ os, spRows x p n = some os → os.length = n ∧ ∀ i, i < n → (os.getD i 0 : Int) = o i)
  ∧ ∀ v, tcfgOk v = true ↔ v = 0 ∨ v < 2 ^ 32 ∧ v / 2 ^ 9 % 2 ^ 7 = 0 ∧ (Shape.ofCfg v).Legal

/-- 11 R264, R270–R272, R275–R282: what the other tile instructions check and hand to their engines, and which traps their checks raise, in order. `VTOPK` with
`LN` ranks the lanes of the active path itself.
(The order of checks follows log entry 44.) -/
def Obligations.TileWorkIssued : Prop :=
  (∀ (s : State) (f : TileF),
    let bad : Except (Nat × Nat) TileWork := .error (5, 2)
    let fmt := fun c => (Fmt.ofCode c).getD .f32
    let set := fun (r : TileRef) (w : Nat) => r.sh.rows ≠ 0 ∧ r.sh.w = w
    let like := fun (r q : TileRef) => r.sh.rows = q.sh.rows ∧ r.sh.cols = q.sh.cols
    let product := fun (sparse : Bool) (z : Issue) => z.votes 1 fun w =>
      if productFmts w sparse = false then bad
      else z.arrayAt (z.elect32 2) 64 64 <|
        let b := z.part (z.elect32 2) 64
        let t := fun k => b / 2 ^ (4 * k) % 16
        let off := fun k => b / 2 ^ k % 2 ^ 32
        let cz := bitAt b 20
        let g := groupSize w.gs
        let pat := patternOf w.sp
        let p : Product := { a := z.tile (t 0), b := z.tile (t 1), c := if cz then none else some (z.tile (t 2)), d := z.tile (t 3)
                             m := if sparse then some (z.tile (t 4)) else none, keep := pat.1, of_ := pat.2
                             fa := fmt w.fa, fb := fmt w.fb, cd := fmt w.cd, rnd := (Rm.ofCode w.rnd).getD .rne, ga := {}, gb := {} }
        let k := p.b.sh.cols
        let ng := if w.sc || w.zp then k / g else 0
        let arrays := fun (ty : Fmt) o rows => arraysOf ty w.sc w.zp (off o) (off (o + 32)) (rows * ng)
        let vals := fun (ty : Fmt) o rows => z.groupVals ty w.sc w.zp (off o) (off (o + 32)) g ng ng 0 rows
        if ∃ j, j < 5 ∧ z.n.desc.t ≤ t j then .error (1, 0x0D)
        else if b / 2 ^ 21 % 2 ^ 235 ≠ 0 ∨ b / 2 ^ 384 ≠ 0 ∨ (cz = true ∧ t 2 ≠ 0) ∨ (sparse = false ∧ t 4 ≠ 0) ∨ productShapes p k = false then bad
        else if (w.sc || w.zp) = true ∧ k % g ≠ 0 then .error (5, 3)
        else match (arrays p.fa 256 p.a.sh.rows ++ arrays p.fb 320 p.b.sh.rows).find? fun a => a.1 % 16 ≠ 0 ∨ z.n.partSize < a.1 + a.2 with
          | some a => .error (if a.1 % 16 ≠ 0 then (2, 4) else (3, 0x21))
          | none => .ok (.product { p with ga := vals p.fa 256 p.a.sh.rows, gb := vals p.fb 320 p.b.sh.rows })
    TilesAll s f.p
      [(.tzero f, fun z => let d := z.tile f.d; if d.sh.rows ≠ 0 then .ok (.zero d) else bad),
       (.tmov f, fun z => let d := z.tile f.d; let a := z.tile f.a
          if d.sh.rows ≠ 0 ∧ set a d.sh.w ∧ (if f.x then d.sh.rows = a.sh.cols ∧ d.sh.cols = a.sh.rows else d.sh.rows * d.sh.cols = a.sh.rows * a.sh.cols)
          then .ok (.move d a f.x) else bad),
       (.mma f, product false), (.mmas f, product true),
       (.tcomp f, fun z => z.votes 3 fun w =>
          let a := z.tile f.a; let d := z.tile f.d; let b := z.tile f.b; let pat := patternOf f.pat; let ty := fmt w.fa
          if w.fa ∈ [1, 2, 3, 4, 6] ∧ set a ty.width ∧ set d ty.width ∧ set b 4 ∧ a.sh.cols % pat.2 = 0 ∧ d.sh.cols * pat.2 = a.sh.cols * pat.1 ∧ like b d
            ∧ a.sh.rows = d.sh.rows then .ok (.compress d a b pat.1 pat.2 ty) else bad),
       (.tqnt f, fun z => z.votes 2 fun w =>
          let a := z.tile f.a; let d := z.tile f.d; let ty := fmt w.cd
          if w.fa ≤ 2 ∧ w.cd ∈ [3, 4, 6, 7, 8, 9] ∧ set a (fmt w.fa).width ∧ set d ty.width ∧ like d a then
            z.recorded w.pri ty false a.sh (z.elect32 3) fun r g => .ok (.quantise d a (fmt w.fa) ty ((Rm.ofCode r.rm).getD .rne) r.bound g)
          else bad),
       (.tdq f, fun z => z.votes 2 fun w =>
          let a := z.tile f.a; let d := z.tile f.d; let u := z.elect32 3
          if w.cd ≤ 2 ∧ w.rnd ≤ 3 ∧ set a (fmt w.fa).width ∧ set d (fmt w.cd).width ∧ like d a then
            z.recorded w.pri (fmt w.fa) true a.sh 0 fun _ g => z.arrayAt u (4 * (a.sh.rows + a.sh.cols)) 16 <|
              .ok (.widen d a (fmt w.fa) (fmt w.cd) ((Rm.ofCode w.rnd).getD .rne) (z.fpArray u a.sh.rows) (z.fpArray (u + 4 * a.sh.rows) a.sh.cols) g)
          else bad),
       (.tred f, fun z => let a := z.tile f.a; let d := z.tile f.d
          if set a 32 ∧ set d 32 ∧ d.sh.rows = a.sh.rows ∧ d.sh.cols = 1 then .ok (.reduce d a f.fn) else bad),
       (.tscl f, fun z => let a := z.tile f.a; let d := z.tile f.d; let u := z.elect32 2
          let len := if f.x then a.sh.cols else a.sh.rows
          if set a 32 ∧ set d 32 ∧ like d a then
            z.arrayAt u (8 * len) 16 <| .ok (.scale d a f.x (z.elect32 3) (z.fpArray u len) (z.fpArray (u + 4 * len) len))
          else bad),
       (.vtopk f, fun z => let a := z.tile f.a; let d := z.tile f.d; let c := z.tile f.c; let k := z.elect32 2
          let out := fun (r : TileRef) => set r 32 ∧ r.sh.rows = a.sh.rows ∧ r.sh.cols = k
          if set a 32 ∧ 1 ≤ k ∧ k ≤ a.sh.cols ∧ out d ∧ out c then .ok (.topk d a c k) else bad)]
    ∧ ∀ x, Issues s (.vtopkLn f) f.p x → x.ex ≠ [] →
        let k := x.takePorts.elect32 2
        let before := fun l m => valBefore (x.takePorts.val 1 l % 2 ^ 32, l) (x.takePorts.val 1 m % 2 ^ 32, m)
        let rank := fun m => (x.act.filter fun l => before l m).length
        (k = 0 ∨ 32 < k → TrapsTo s (.vtopkLn f) x x.act (5, 2))
        ∧ (1 ≤ k → k ≤ 32 → Ends s (.vtopkLn f) x (Wrote x x.act fun m => (if rank m < k then rank m else 0xFFFFFFFF, 0))))
  ∧ (∀ (w : FmtWord) (sparse : Bool), w.sound = true →
      let f8 := fun c => c = 3 ∨ c = 4
      let asym := fun c => c = 8 ∨ c = 9
      let rnd := w.rnd = 0 ∨ w.cd ≠ 0 ∧ w.rnd ≤ 3
      productFmts w sparse = true ↔
        ((w.fa = 1 ∧ w.fb = 1 ∧ (w.cd = 0 ∨ w.cd = 1) ∧ w.sc = false ∧ w.zp = false ∧ rnd)
          ∨ (w.fa = 2 ∧ w.fb = 2 ∧ (w.cd = 0 ∨ w.cd = 2) ∧ w.sc = false ∧ w.zp = false ∧ rnd)
          ∨ (f8 w.fa ∧ f8 w.fb ∧ w.cd ≤ 2 ∧ w.sc = false ∧ w.zp = false ∧ rnd)
          ∨ (w.fa = 6 ∧ w.fb = 6 ∧ w.cd = 5 ∧ w.sc = false ∧ w.zp = false ∧ w.rnd = 0)
          ∨ (asym w.fa ∧ asym w.fb ∧ w.rnd = 0 ∧ (w.cd = 5 ∧ w.sc = false ∨ w.cd = 0 ∧ w.sc = true)))
        ∧ (w.gs = 0 ∨ w.sc = true ∨ w.zp = true) ∧ (w.sp ≠ 0 ↔ sparse = true))
  ∧ ∀ (p : Product) (k : Nat),
      productShapes p k = true ↔
        p.a.sh.rows ≠ 0 ∧ p.b.sh.rows ≠ 0 ∧ p.d.sh.rows ≠ 0 ∧ p.a.sh.w = p.fa.width ∧ p.b.sh.w = p.fb.width ∧ p.d.sh.w = p.cd.width
        ∧ p.a.sh.rows = p.d.sh.rows ∧ p.b.sh.rows = p.d.sh.cols
        ∧ (∀ c, p.c = some c → c.sh.rows ≠ 0 ∧ c.sh.w = p.cd.width ∧ c.sh.rows = p.d.sh.rows ∧ c.sh.cols = p.d.sh.cols)
        ∧ (p.m = none → p.a.sh.cols = k)
        ∧ ∀ m, p.m = some m → m.sh.rows ≠ 0 ∧ m.sh.w = 4 ∧ m.sh.rows = p.a.sh.rows ∧ m.sh.cols = p.a.sh.cols ∧ p.a.sh.cols % p.keep = 0
            ∧ k * p.keep = p.a.sh.cols * p.of_

/-- 04 R89, R98, R104, R105, 11 R261, R265, R270, R273, R274, R276, R277, R279, R282: the oldest tile instruction of a core completes; its flags reach its elected lane. What is
written to rows of a tile reads back, and nothing else of any tile changes; products, the kept values, narrowing, reductions and ranks.
(Corners of the matrix class are log entry 44, one tile for both results of VTOPK log entry 27.) -/
def Obligations.TileResults : Prop :=
  (∀ (s : State) (q1 q2 : List TileTask) (t : TileTask) (n : Node) (w : Warp), s.tileQ = q1 ++ t :: q2 →
    (∀ q ∈ q1, q.node ≠ t.node ∨ q.unit ≠ t.unit) → (∀ q ∈ q1 ++ q2, q.id ≠ t.id) → find t.node s.nodes = some n → find t.warp s.warps = some w → w.isSeq = false →
    t.lane < w.lanes.length → s.poisonedTiles t.node (n.coreIdx t.unit) t.work.reads = false →
    ∃ u y, exec (.tileInstructionComplete t.id) s = .next u ∧ find t.warp u.warps = some y ∧ u.tileQ = q1 ++ q2
      ∧ find t.node u.nodes = some (n.tileWork (n.coreIdx t.unit) t.work).1
      ∧ y = w.setLane t.lane (fun l => { l with fflags := (w.lane t.lane).fflags ||| (n.tileWork (n.coreIdx t.unit) t.work).2 })
      ∧ u = { s with tileQ := u.tileQ, nodes := u.nodes, warps := u.warps, poison := u.poison })
  ∧ (∀ (w : Nat) (r : List Nat) (c : Nat), w = 4 ∨ w = 8 ∨ w = 16 ∨ w = 32 → (∀ v ∈ r, v < 2 ^ w) → c < r.length →
      unpack w (packRow w r) c = r.getD c 0 ∧ (packRow w r).length = ceilDiv (r.length * w) 8)
  ∧ (∀ (n : Node) (ci : Nat) (r : TileRef) (rows : List (List Nat)), r.sh.Legal → r.t < 16 → rows.length ≤ r.sh.rows →
      (∀ q ∈ rows, q.length = r.sh.cols ∧ ∀ v ∈ q, v < 2 ^ r.sh.w) →
      ((n.putRows ci r rows).tileElems ci r).take rows.length = rows
      ∧ ∀ cj t off, t < 16 → off < 16384 → cj ≠ ci ∨ t ≠ r.t ∨ rows.length * r.sh.pitch ≤ off → (n.putRows ci r rows).tileByte cj t off = n.tileByte cj t off)
  ∧ (∀ (n : Node) (ci : Nat) (d a : TileRef) (p : Product) (fn : Nat),
      let es := n.tileElems ci a
      let zeros := tabulate d.sh.rows d.sh.cols fun _ _ => 0
      (d.sh.Legal → d.t < 16 → ((n.tileWork ci (.zero d)).1.tileElems ci d) = zeros)
      ∧ (n.tileWork ci (.move d a true) = (n.putRows ci d (tabulate d.sh.rows d.sh.cols fun i j => elemAt es j i), 0))
      ∧ (d.sh.rows * d.sh.cols = a.sh.rows * a.sh.cols → 0 < d.sh.cols → n.tileWork ci (.move d a false)
          = (n.putRows ci d (tabulate d.sh.rows d.sh.cols fun i j => elemAt es ((i * d.sh.cols + j) / a.sh.cols) ((i * d.sh.cols + j) % a.sh.cols)), 0))
      ∧ (p.m = none → ∃ fl, n.tileWork ci (.product p) = (n.putRows ci p.d (tabulate p.d.sh.rows p.d.sh.cols fun i j =>
          (p.elem i j (match p.c with | some c => elemAt (n.tileElems ci c) i j | none => 0)
            (((n.tileElems ci p.a)[i]?).bind fun r => some (r.map some)) ((n.tileElems ci p.b).getD j [])).1), fl))
      ∧ (∀ m fa keep of_, let ks := es.map fun r => (runs of_ r).flatMap (keptOf fa keep)
          n.tileWork ci (.compress d a m keep of_ fa) = ((n.putRows ci d (ks.map fun r => r.map (·.1))).putRows ci m (ks.map fun r => r.map (·.2)), 0))
      ∧ (∀ v k, let ks := es.map fun r => (ranked valBefore r.zipIdx).take k
          n.tileWork ci (.topk d a v k) = ((n.putRows ci d (ks.map fun r => r.map (·.2))).putRows ci v (ks.map fun r => r.map (·.1)), 0))
      ∧ n.tileWork ci (.reduce d a fn) = (n.putRows ci d (es.map fun r => [(reduceRow fn r).1]), es.foldl (fun fl r => fl ||| (reduceRow fn r).2) 0))
  ∧ (∀ (p : Product) (i j c : Nat) (a : List (Option Nat)) (b : List Nat),
      let ab := (a.zip b).zipIdx
      let sum := fun (l : List ((Option Nat × Nat) × Nat)) => ((l.map (p.intTerm i j)).sum : Int)
      (p.elem i j c none b = (match p.cd.layout with | some F => F.nanBits | none => 0, fNV))
      ∧ (p.cd = .i32 → let t := sxInt 32 c + sum ab
          let u := max (-(2 ^ 31 - 1)) (min (2 ^ 31 - 1) t)
          p.elem i j c (some a) b = ((u % 2 ^ 32).toNat, if t = u then 0 else fSAT ||| fNX))
      ∧ (p.cd = .f32 → p.fa.isAsym = true → 0 < p.ga.g → p.elem i j c (some a) b =
          ((runs p.ga.g ab).zipIdx).foldl (fun acc r => accumulate acc
            (((Num.ofInt (sum r.1)).mul (p.ga.scale i (r.2 * p.ga.g))).mul (p.gb.scale j (r.2 * p.ga.g)))) (c, 0))
      ∧ (p.cd = .f32 → p.fa.isAsym = false → c < 2 ^ 32 → (lay32.value c).isNan = false →
          p.elem i j c (some a) b = (runs 16 (a.zip b)).foldl (fun acc r => accumulate acc (Num.sum .rne (r.map p.floatTerm))) (c, 0)))
  ∧ (∀ (n m : Nat) (vs ix : List Nat), 0 < n → vs.length = ix.length → ix.length % n = 0 →
      let bad := ∃ g, g * n < ix.length ∧ ((∃ e, e < n ∧ m ≤ ix.getD (g * n + e) 0) ∨ ∃ e, e + 1 < n ∧ ix.getD (g * n + e + 1) 0 ≤ ix.getD (g * n + e) 0)
      (expandRow n m vs ix = none ↔ bad)
      ∧ ∀ l, expandRow n m vs ix = some l → l.length = ix.length / n * m
          ∧ ∀ g q, g * n < ix.length → q < m → (∀ e, e < n → ix.getD (g * n + e) 0 = q → l[g * m + q]? = some (some (vs.getD (g * n + e) 0)))
              ∧ ((∀ e, e < n → ix.getD (g * n + e) 0 ≠ q) → l[g * m + q]? = some none))
  ∧ (∀ (s a m v z : Nat) (fa cd : Fmt) (rnd : Rm) (sr sc g : Sys2Proof.Num), let val := lay32.value
      ((val s).isFinite = true → (val a).isFinite = true → (val m).isFinite = true → (val v).isFinite = true →
        scaleElem s a m v = lay32.round .rne (Num.sum .rne [((val s).mul (val a)).mul (val m), val v]))
      ∧ (sr.isFinite = true → sc.isFinite = true → g.isFinite = true → (fa.value a).isFinite = true →
        widenElem fa cd rnd sr sc g z a = (cd.layout.getD lay32).round rnd
          (((if fa.isAsym then g.mul (Num.ofInt ((a : Int) - z)) else fa.value a).mul sr).mul sc)))
  ∧ (∀ (acc : Nat × Nat) (x : Sys2Proof.Num), (accumulate acc x).1 = (fpAdd lay32 .rne (lay32.value acc.1) x).1)
  ∧ (∀ (k : Nat) (l : List Nat), 0 < k → (runs k l).flatten = l ∧ ∀ i, i + 1 < (runs k l).length → ((runs k l).getD i []).length = k)
  ∧ (∀ (t : Fmt) (n : Nat) (g : List Nat), n ≤ g.length →
      let ks := keptOf t n g
      ks.length = n ∧ (ks.map (·.2)).Pairwise (· < ·) ∧ (∀ e ∈ ks, g[e.2]? = some e.1)
      ∧ ∀ e ∈ ks, ∀ i a, g[i]? = some a → i ∉ ks.map (·.2) → magBefore t e (a, i) = true)
  ∧ (∀ (l : List Nat) (k p : Nat) (e : Nat × Nat), ((ranked valBefore l.zipIdx).take k)[p]? = some e →
      l[e.2]? = some e.1 ∧ p = (l.zipIdx.filter fun o => valBefore o e).length)
  ∧ (∀ (fa cd : Fmt) (rm : Rm) (bound : Nat) (g : GroupVals) (i j : Nat) (row : List Nat), rm ≠ .ef → j < row.length → (g.g ≠ 0 ∨ g.sc = false ∧ g.zp = false) →
      (quantRow fa cd rm bound g i row)[j]? = some (narrow cd rm bound (g.scale i j) (g.zero i j) (fa.value (row.getD j 0))))
  ∧ ∀ (a : Nat) (row : List Nat), let val := lay32.value
      reduceRow 0 [a] = (canon a, 0) ∧ reduceRow 3 [] = (0, 0)
      ∧ (∀ b, (reduceRow 0 (a :: row ++ [b])).1 = canon (fpAdd lay32 .rne (val (reduceRow 0 (a :: row)).1) (val b)).1)
      ∧ (∀ b, (reduceRow 3 (row ++ [b])).1 = canon (fpFma lay32 .rne (val b) (val b) (val (reduceRow 3 row).1)).1)
      ∧ (∀ b fn, fn = 1 ∨ fn = 2 → a < 2 ^ 32 → b < 2 ^ 32 → (∀ v ∈ row, v < 2 ^ 32) →
          (reduceRow fn (a :: row ++ [b])).1 = canon (fpMinMax (fn == 1) (reduceRow fn (a :: row)).1 b))

/-! ### The engine class -/

/-- 12 R286–R289, R292–R294, R296, 21 R408, R417: what each engine command checks at issue, in order, and the command that it sends with the operands, blocks, keys and
tables that it reads then. A `COLL` reads its communicator's header and members as loads of the elected lane. -/
def Obligations.EngineCommands : Prop :=
  (∀ (s : State) (f : EngF),
    CommandsAll s f.p f.acq
      [(.cpy f, fun z =>
          let n := z.elect32 2
          let adr := fun (sp : Bool) k => if sp then z.elect32 k else z.val k z.elected
          orTrap (bitAt f.x 0 && decide (z.n.partSize < z.elect32 0 + n) || bitAt f.x 1 && decide (z.n.partSize < z.elect32 1 + n)) (3, 0x21) <|
          orTrap (n == 0 || decide (2 ^ 31 < n)) (6, 3) <| .ok fun c => { c with d := adr (bitAt f.x 0) 0, a := adr (bitAt f.x 1) 1, b := n }),
       (.dec f, fun z =>
          let n := z.elect32 2
          let d := (find z.w.unit z.n.decomp).getD {}
          let t := getD [] d.tables (d.gen % 4)
          z.reach (z.elect32 0) (if t.length = 256 then n else (n + 1) / 2) <|
          orTrap (n == 0 || decide (2 ^ 24 < n)) (6, 3) <|
          .ok fun c => { c with d := z.elect32 0, a := z.val 1 z.elected, b := n, table := t, gen := d.gen }),
       (.gpool f, fun z =>
          let o := z.elect32 2
          let t := z.val 1 z.elected / 2 ^ 50
          let ds := (tabAt z t).desc
          let b := z.part o 32
          let fld := fun k w => b / 2 ^ k % 2 ^ w
          let kw := if ds.k16 then 16 else 8
          orTrap (o % 32 != 0) (2, 4) <| z.reach o 32 <|
          z.reach (fld 160 32) (kw * fld 128 32) <| z.reach (fld 192 32) (4 * fld 128 32) <| z.reach (fld 224 32) (4 * fld 112 16 + 4) <|
          orElse (tabCheck z t fun e => e.kind == 2) <|
          orTrap (fld 128 32 == 0 || decide (65536 < fld 128 32) || fld 112 16 == 0 || decide (4096 < fld 112 16) || fld 96 16 % 4 != 0
            || decide (fld 96 16 < kw) || decide (2 ^ ds.rowlg < fld 96 16 + 4 * fld 112 16) || fld 0 96 != 0
            || fld 224 32 % 16 != 0 || fld 192 32 % 4 != 0 || fld 160 32 % 8 != 0) (6, 3) <|
          .ok fun c => { c with
            a := t, block := b
            data := z.s.spBytes z.w.unit (z.n.partBase z.w.unit + fld 160 32) (kw * fld 128 32) ++ z.s.spBytes z.w.unit (z.n.partBase z.w.unit + fld 192 32) (4 * fld 128 32) }),
       (.attn f, fun z =>
          let o := z.elect32 2
          let b := z.part o 64
          let fld := fun k w => b / 2 ^ k % 2 ^ w
          let dim := fld 56 8
          let heads := fld 52 4
          let row := 2 ^ (tabAt z (fld 0 14)).desc.rowlg
          orTrap (o % 64 != 0) (2, 4) <| z.reach o 64 <|
          z.reach (fld 320 32) (4 * heads * dim) <| z.reach (fld 288 32) (512 * 8 * heads) <| z.reach (fld 256 32) (32 * heads) <|
          orElse (tabCheck z (fld 0 14) isSequence) <|
          orTrap (decide (2 ^ 48 < fld 448 64) || decide (fld 448 64 < fld 384 64) || fld 64 160 != 0 || fld 14 34 != 0 || decide (dim < 2) || decide (64 < dim)
            || dim % 2 != 0 || heads == 0 || decide (8 < heads) || !(fld 48 4 == 1 || fld 48 4 == 2) || fld 224 16 % 2 != 0 || fld 240 16 % 2 != 0
            || decide (row < fld 224 16 + 2 * dim) || decide (row < fld 240 16 + 2 * dim)
            || fld 320 32 % 16 != 0 || fld 288 32 % 16 != 0 || fld 256 32 % 16 != 0) (6, 3) <|
          .ok fun c => { c with block := b })])
  ∧ ∀ (s : State) (f : EngF) (x : Issue) (i : Instr) (fn : Nat) (hp mp : List Piece),
      (i, fn) ∈ [(Instr.collAllred f, 0), (.collRedsc f, 1), (.collAllgath f, 2), (.collAtoa f, 3)] → Issues s i f.p x →
      (∀ u o n, s.spPoisoned u o n = false) →
      let z := x.takePorts
      let o := z.elect32 2
      let comm := z.val 1 z.elected
      let d := CollDesc.ofNat (z.part o 64)
      let h := z.reads z.elected hp
      let p := h / 2 ^ 32 % 2 ^ 13
      let rank := h % 2 ^ 12
      let ms := words16 (leBytes (2 * p) (z.reads z.elected mp))
      let load := fun va n ps => z.s.checkAccess x.n.ctx (some x.n.launch) x.lvl { write := false, onlyN := true } va n = .ok ps ∧ z.sound ps
      let unit := if d.dt = 0 ∨ d.dt = 5 then 4 else 2
      let bytes := (if fn = 0 then 1 else p) * d.count * unit
      let chunks := if fn = 3 then p else (bytes + d.chunk - 1) / d.chunk
      let op :=
          orTrap x.inRegion (0x0C, 4) <| orTrap (z.val 3 z.elected % 8 != 0) (2, 1) <| orTrap (o % 64 != 0) (2, 4) <| z.reach o 64 <|
          orElse (if fn = 3 then tabCheck z (d.recv / 2 ^ 50) fun t => t.kind == 4 && !t.pl else none) <|
          orTrap (d.rsvd || decide (d.chunk < 4096) || decide (2 ^ 24 < d.chunk) || d.chunk % 64 != 0 || !([0, 1, 2, 5].contains d.dt)
            || (if fn = 3 then d.count != 0 else decide (d.count < 1) || decide (2 ^ 40 < d.count) || d.cnta != 0 || d.dlva != 0)
            || decide ((if fn ≤ 1 then 2 else 0) < d.red)) (6, 3) <|
          orTrap (h / 2 ^ 320 != 0 || h / 2 ^ 45 % 2 ^ 83 != 0 || h / 2 ^ 12 % 2 ^ 20 != 0 || decide (h / 2 ^ 160 % 2 ^ 32 < 1) || decide (2 ^ 24 < h / 2 ^ 160 % 2 ^ 32)
            || decide (p < 1) || decide (4096 < p) || decide (p ≤ rank)) (6, 3) <|
          orTrap ((ms.any fun m => decide (4096 ≤ m)) || !decide ms.Nodup || ms.getD rank 4096 != s.settings.devid || decide (h / 2 ^ 160 % 2 ^ 32 < chunks)) (6, 3) <|
          .ok fun c => { c with coll := some {
            comm := comm, p := p, rank := rank, marka := h / 2 ^ 256 % 2 ^ 64, members := ms, fn := fn, det := f.det, send := d.send, recv := d.recv
            cnta := d.cnta, dlva := d.dlva, chunk := d.chunk, count := d.count, red := d.red, dt := d.dt
            rowlg := if fn = 3 then (tabAt z (d.recv / 2 ^ 50)).desc.rowlg else 0 } }
      (x.ex = [] → Ends s i x (FrameOf x [] [] []))
      ∧ (x.ex ≠ [] → load comm 64 hp → load (h / 2 ^ 192 % 2 ^ 64) (2 * p) mp → IssuesCommand s i x f.acq op)

/-- 01 R38–R40, 12 R288, R290, R291, R298, R301, R302, 01 R36, R37: `DTLD`; a lane that waits at `CWAIT` or `TJOIN`, and its release; forks, from `EFORK` to the rendezvous; tasks,
from `TFORK` to their start on a core.
(The bound of a deque and the start of tasks are log entry 47.) -/
def Obligations.ForksAndTasks : Prop :=
  (∀ (s : State) (f : EngF) (x : Issue),
    let z := x.takePorts
    let e := z.elected
    let dec := (find x.w.unit x.n.decomp).getD {}
    let off := z.elect32 1
    let len := if bitAt f.x 0 then 256 else 16
    let t := z.s.spBytes x.w.unit (x.n.partBase x.w.unit + off) len
    let g := (dec.gen + 1) % 65536
    let legal := (∀ b ∈ t, b.toNat ≤ 16) ∧ ((t.filter (· ≠ 0)).map fun b => 2 ^ (16 - b.toNat)).sum ≤ 2 ^ 16
    (Issues s (.dtld f) f.p x → x.ex ≠ [] →
      (off % 16 ≠ 0 → TrapsTo s (.dtld f) x x.act (2, 4)) ∧ (off % 16 = 0 → x.n.partSize < off + len → TrapsTo s (.dtld f) x x.act (3, 0x21))
      ∧ (off % 16 = 0 → off + len ≤ x.n.partSize → (¬legal → TrapsTo s (.dtld f) x x.act (6, 4))
          ∧ (legal → s.spPoisoned x.w.unit (x.n.partBase x.w.unit + off) len = false → Ends s (.dtld f) x (Wrote { x with
              n := { x.n with decomp := insert x.w.unit { gen := g, tables := insert (g % 4) t dec.tables } x.n.decomp } } x.act fun _ => (g, 0)))))
    ∧ (∀ (va : Nat → Nat) (ps : Nat → List Piece) (i : Instr) (hit : Nat → Bool) (wt : Nat → Wait),
        (i, hit, wt) ∈ [(Instr.cwait f, (fun v => v != 0), fun l => .cwait (va l) f.d), (.tjoin f, (fun v => v == 0), fun l => .tjoin (va l))] →
        Issues s i f.p x → z.Reaches x.ex { write := false, onlyN := true } 8 (fun l => some (z.val 1 l)) va ps →
        (∀ l ∈ x.ex, va l % 8 = 0 ∧ z.sound (ps l)) → Ends s i x fun t w =>
          let v := fun l => z.reads l (ps l)
          FrameOf x (if i = .cwait f then Issue.regsOf x.w.isSeq (x.opnd 0) else []) (x.ex.filter fun l => hit (v l)) [] t w
          ∧ ∀ l ∈ x.ex, if hit (v l) then
              (w.lane l).st = .running ∧ (i = .cwait f → x.w.isSeq = false → w.rdReg .vp f.d l = v l)
            else (w.lane l).st = .waiting ∧ (w.lane l).wait = wt l)
    ∧ (let es := (seqEntries f).map fun q => (q.1, x.w.sreg q.2 % 2 ^ 32)
       let ws := es.zipIdx.map fun q => (s.nextId + q.2, seqWarp x q.1.1 q.1.2)
       Issues s (.efork f) f.p x → x.ex ≠ [] →
        (x.inRegion = true → TrapsTo s (.efork f) x x.act (0x0C, 4))
        ∧ (x.inRegion = false → (∃ q ∈ es, q.2 % 4 ≠ 0) → TrapsTo s (.efork f) x x.act (2, 3))
        ∧ (x.inRegion = false → (∀ q ∈ es, q.2 % 4 = 0) → x.w.fork ≠ none → TrapsTo s (.efork f) x x.act (6, 2))
        ∧ (x.inRegion = false → (∀ q ∈ es, q.2 % 4 = 0) → x.w.fork = none → Ends s (.efork f) x (FrameOf { x with
            w := { x.w with fork := some { seqs := ws.map (·.1), lane := e } }
            s := { x.s with warps := ws.foldl (fun m q => insert q.1 q.2 m) x.s.warps, nextId := s.nextId + ws.length } } [] [] [])))
    ∧ (∀ i, i = .dtld f ∨ i = .efork f ∨ i = .erdv f → Issues s i f.p x → x.ex = [] → Ends s i x fun t w => ∃ rs, FrameOf x rs [] [] t w)
    ∧ (s.start (.erdv f) f.p = some x → x.ex ≠ [] → x.w.isSeq = false → x.forkOpen = true → exec (.erdv f) s = .next { s with
        warps := adjust x.wk (fun w => { w with fork := w.fork.map fun k => { k with reached := some (f.p, x.at_) } }) s.warps })
    ∧ (Issues s (.erdv f) f.p x → x.ex ≠ [] →
        (x.w.isSeq = true → Ends s (.erdv f) x (FrameOf { x with w := { x.w with atErdv := true } } [] [] []))
        ∧ (x.w.isSeq = false → x.w.fork = none → Ends s (.erdv f) x (FrameOf x [] [] []))
        ∧ ∀ k, x.w.isSeq = false → x.w.fork = some k → x.forkOpen = false →
            let met := ({ x with w := { x.w with fork := none }, s := { x.s with warps := x.s.warps.filter fun q => !k.seqs.contains q.1 } } : Issue)
            (k.fail = none → Ends s (.erdv f) x (FrameOf { met with
              w := met.w.setLane k.lane fun y => { y with fflags := y.fflags ||| k.flags } } [] [] []))
            ∧ ∀ c, k.fail = some c → TrapsTo s (.erdv f) met x.act c)
    ∧ (∀ (va : Nat) (ps : Nat → List Piece),
        let ctr := x.w.sreg (f.imm.toNat % 64)
        let out := ((s.held ++ s.atomQ).filter fun r => r.unit == x.w.unit && match r.kind with | .atomic a => a.task.isSome | _ => false).length
        let room := Config.dequeSize - ((getD [] s.deques x.w.unit).length + out)
        Issues s (.tfork f) f.p x →
        (ctr % 8 ≠ 0 → TrapsTo s (.tfork f) x x.ex (2, 1))
        ∧ (ctr % 8 = 0 → (∀ l ∈ x.ex, z.val 2 l % 4 ≠ 0) → TrapsTo s (.tfork f) x x.ex (2, 3))
        ∧ (ctr % 8 = 0 → (∀ l ∈ x.ex, z.val 2 l % 4 = 0) → z.Reaches x.ex { write := true, onlyN := true, atomic := true } 8 (fun _ => some ctr) (fun _ => va) ps →
            Ends s (.tfork f) x (Wrote (x.sent ((x.ex.take room).map fun l =>
              let q := (ps l).headD { va := va, n := 8 }
              (l, false, .atomic { pa := q.pa, tag := q.tag, home := q.home, size := 8, op := 0, b := 1, c := 0, d := none
                                   task := some { entry := z.val 2 l % 2 ^ 32, args := leBytes 16 (z.val 1 l), node := x.nk, counter := q.pa, tag := q.tag, home := q.home } })))
              x.ex fun l => (if x.ex.idxOf l < room then 0 else 4, 0)))))
  ∧ (∀ (x : Issue) (k entry : Nat), let v := seqWarp x k entry
      v.role = .seq k x.wk ∧ v.lanes = [{ pc := entry }] ∧ v.unit = x.w.unit ∧ v.node = x.nk ∧ ∀ r, r < 64 → v.sreg r = x.w.sreg r)
  ∧ (∀ (s : State) (r l : Nat) (w : Warp) (n : Node) (va v d : Nat), find r s.warps = some w → find w.node s.nodes = some n → n.desc.red = false → w.isSeq = false →
      l < 32 → w.lanes.length = 32 → (w.lane l).st = .waiting → s.reread r w l va 8 = some (v, false) →
      ((w.lane l).wait = .cwait va d → d < 239 → v ≠ 0 → v < 2 ^ 64 → ∃ t y, exec (.cwaitRelease r l) s = .next t ∧ find r t.warps = some y
        ∧ (y.lane l).st = .running ∧ (y.lane l).wait = .none ∧ y.rdReg .vp d l = v)
      ∧ ((w.lane l).wait = .tjoin va → v = 0 → ∃ t y, exec (.tjoinRelease r l) s = .next t ∧ find r t.warps = some y
        ∧ (y.lane l).st = .running ∧ (y.lane l).wait = .none ∧ y.v = w.v)
      ∧ ((w.lane l).wait = .cwait va d → v = 0 → exec (.cwaitRelease r l) s = .next s)
      ∧ ((w.lane l).wait = .tjoin va → v ≠ 0 → exec (.tjoinRelease r l) s = .next s))
  ∧ (∀ (s : State) (r pc : Nat) (p : Pred), s.mayMeet r = some (p, pc) → exec (.erdvRendezvous r) s = exec (.erdv { p := p }) { s with cur := some r })
  ∧ (∀ (s : State) (u : Nat),
      let fresh := fun (t : Task) (n : Node) (j : Nat) (v : Warp) =>
        v.node = t.node ∧ v.unit = u ∧ v.idx = n.coreIdx u * n.desc.w + j ∧ v.grps = 0 ∧ v.role = .task t.counter t.tag t.home ∧ v.stop = .running
        ∧ (∀ l, l < 32 → (v.lane l).st = .running ∧ (v.lane l).pc = t.entry ∧ (v.lane l).frag = 0)
        ∧ (∀ k, v.sreg k = if k = 0 then 0 else if k = 1 then ofLe t.args % 2 ^ 64 else if k = 2 then ofLe t.args / 2 ^ 64 % 2 ^ 64
            else (n.desc.params.getD (k - 1) 0).toNat)
        ∧ (∀ k l, v.vreg k l = 0)
        ∧ let asked := fun (w : Warp) => (∃ k, (k, w) ∈ s.warps) ∧ w.node = t.node ∧ w.preq = true
          (v.preq = true ↔ ∃ w, asked w) ∧ ∀ d, (∃ w, asked w) → (∀ w, asked w → w.pdleft = d) → v.pdleft = d
      (∀ t rest j n, getD [] s.deques u = t :: rest → s.emptySlot t.node u = some j → find t.node s.nodes = some n →
        ∃ v, exec (.taskStart u) s = .next { s with deques := put [] u rest s.deques, warps := insert s.nextId v s.warps, nextId := s.nextId + 1 } ∧ fresh t n j v)
      ∧ (getD [] s.deques u = [] → getD 0 s.probeDue u ≤ s.now → (s.nodes.any fun e => (s.emptySlot e.1 u).isSome) = true →
          let from_ := [1, 2, 3, 4, 5, 6, 7].map fun k => u / 8 * 8 + (u % 8 ^^^ k)
          let gives := fun c => ∃ t, (getD [] s.deques c).getLast? = some t ∧ (s.emptySlot t.node u).isSome = true
          ((∀ c ∈ from_, ¬gives c) → exec (.taskStart u) s = .next { s with probeDue := insert u (s.now + 64) s.probeDue })
          ∧ ∀ a c b t j n, from_ = a ++ c :: b → (∀ k ∈ a, ¬gives k) → (getD [] s.deques c).getLast? = some t → s.emptySlot t.node u = some j →
              find t.node s.nodes = some n → ∃ v, exec (.taskStart u) s = .next { s with
                deques := put [] c (getD [] s.deques c).dropLast s.deques, probeDue := erase u s.probeDue, warps := insert s.nextId v s.warps
                nextId := s.nextId + 1 } ∧ fresh t n j v)
      ∧ ∀ due, find u s.probeDue = some due → due ≤ s.now → exec (.taskStealRetry u) s = exec (.taskStart u) { s with probeDue := erase u s.probeDue })
  ∧ ∀ (s : State) (nk u j : Nat) (n : Node), find nk s.nodes = some n → (s.emptySlot nk u = some j ↔ n.st = .running
      ∧ (n.pre = none ∨ ∀ e ∈ s.warps, e.2.node = nk → e.2.stop = .running) ∧ n.desc.pan = false ∧ u ∈ n.units ∧ j < n.desc.w
      ∧ let used := fun k => ∃ e ∈ s.warps, e.2.node = nk ∧ e.2.unit = u ∧ e.2.isSeq = false ∧ e.2.idx % n.desc.w = k
        ¬used j ∧ ∀ k, k < j → used k)

/-- 12 R287, R289, R291–R295, 01 R45: what a command does once it has left its queue: a copy's source is read as it starts, its destination written as it completes; decoding, pooling and
attention; and the completion word, which tells also what made a command fail.
(The moments of a command's accesses are log entry 46, its failure at a page that is not of type N log entry 45.) -/
def Obligations.EngineResults : Prop :=
  (∀ (s : State) (u : Nat) (c : Cmd) (f : EngF) (ps : List Piece), s.nextCmd u = some c → c.instr = .cpy f → c.aborted = false → c.ready = false → c.park = none →
      c.code = none → bitAt f.x 1 = false → s.poisonedEntry c.id = false → s.cmdCheck c false c.a c.b = .ok ps →
      (∀ p ∈ ps, s.poisonedMem p.pa p.n = false) →
      exec (.engineCommandStart u) s = .next { s with cmds := s.cmds.map fun q => if q.id = c.id then { c with
        started := true, ready := true, data := ps.flatMap fun p => s.rdBytes p.tag p.pa p.n } else q })
  ∧ (∀ (s : State) (c : Cmd) (f : EngF), Working s c → c.instr = .cpy f → c.data.length = c.b → 0 < c.b →
      (∀ (ps : List Piece) (g : Nat), bitAt f.x 0 = false → s.cmdCheck c true c.d c.b = .ok ps →
        (piecesAddrs ps).length = c.b → (piecesAddrs ps).Nodup → c.doneTag = g →
        (∀ a ∈ piecesAddrs ps, a.2 = g ∧ a.1 < linkBase ∧ (a.1 < c.donePa ∨ c.donePa + 8 ≤ a.1)) →
        ∃ t, exec (.cpyComplete c.id) s = .next t ∧ Completes s c 0 t
          ∧ (∀ k a, (piecesAddrs ps)[k]? = some (a, g) → t.rdByte g a = c.data.getD k 0)
          ∧ (∀ a, (a, g) ∉ piecesAddrs ps → (a < c.donePa ∨ c.donePa + 8 ≤ a) → t.rdByte g a = s.rdByte g a) ∧ t.scratch = s.scratch ∧ t.fe = s.fe)
      ∧ (∀ n, bitAt f.x 0 = true → OnNode s c n → c.d + c.b ≤ n.partSize → ∃ t, exec (.cpyComplete c.id) s = .next t ∧ Completes s c 0 t
          ∧ t.spBytes c.unit (n.partBase c.unit + c.d) c.b = c.data
          ∧ ∀ k, k < 2 ^ 20 → t.feBit c.unit k = (s.feBit c.unit k || decide ((n.partBase c.unit + c.d) / 16 ≤ k / 16 ∧ k / 16 ≤ (n.partBase c.unit + c.d + c.b - 1) / 16)))
      ∧ (∀ a b, bitAt f.x 0 = false → s.cmdCheck c true c.d c.b = .trap a b →
          ∃ t, exec (.cpyComplete c.id) s = .next t ∧ Completes s c 3 t ∧ t.scratch = s.scratch)
      ∧ ∀ g ps, bitAt f.x 0 = false → s.cmdCheck c true c.d c.b = .fault g ps →
          ∃ t, exec (.cpyComplete c.id) s = .next t ∧ (g.noRoute = true → Completes s c 5 t)
            ∧ (g.noRoute = false → ∃ q p, q ∈ t.cmds ∧ q.id = c.id ∧ q.park = some p ∧ q.code = none ∧ p.d = 64 ∧ p.due = s.clock c.unit + 64 ∧ p.fault = g))
  ∧ (∀ (s : State) (c : Cmd), c ∈ s.cmds → (∀ q ∈ s.cmds, q.id = c.id → q = c) → c.started = true → c.aborted = true → c.code = none → c.park = none →
      (∀ r ∈ s.held, r.id + 1 ≠ c.id) → c.donePa + 8 ≤ linkBase → ∀ f i, (c.instr, i) ∈ [(Instr.cpy f, Instr.cpyComplete c.id), (.dec f, .decComplete c.id),
        (.gpool f, .gpoolComplete c.id), (.attn f, .attnComplete c.id)] → ∃ t, exec i s = .next t ∧ Completes s c 8 t ∧ t.scratch = s.scratch)
  ∧ (∀ (t : List Byte) (pos : Nat) (bit : Nat → Bool) (rd : Nat → Option Byte),
      let codes := canonicalCodes (codedSymbols t) 0 0
      (∀ b ∈ t, b.toNat ≤ 16) → ((t.filter (· ≠ 0)).map fun b => 2 ^ (16 - b.toNat)).sum ≤ 2 ^ 16 →
      (∀ k b, rd k = some b → ∀ j, j < 8 → bitAt b.toNat (7 - j) = bit (8 * k + j)) →
      (∀ y, (∃ n c, (n, c, y) ∈ codes) ↔ ∃ b, t[y]? = some b ∧ b ≠ 0)
      ∧ (∀ e ∈ codes, t.getD e.2.2 0 = BitVec.ofNat 8 e.1 ∧ e.2.1 < 2 ^ e.1)
      ∧ (∀ a ∈ codes, ∀ b ∈ codes, a.1 ≤ b.1 → b.2.1 / 2 ^ (b.1 - a.1) = a.2.1 → a = b)
      ∧ (∀ y n, matchCode codes rd pos 18 0 0 = .sym y n → ∃ c, (n, c, y) ∈ codes ∧ ∀ j, j < n → bit (pos + j) = bitAt c (n - 1 - j))
      ∧ (∀ y n c, (n, c, y) ∈ codes → (∀ j, j < n → bit (pos + j) = bitAt c (n - 1 - j) ∧ rd ((pos + j) / 8) ≠ none) → matchCode codes rd pos 18 0 0 = .sym y n))
  ∧ (∀ (s : State) (c : Cmd) (f : EngF) (n : Node) (es : List Byte) (pos : Nat), Working s c → c.instr = .dec f → OnNode s c n → c.data = [] → c.vals = [] → 0 < c.b →
      let one := fun k => s.cmdCheck c false ((c.a + k) % 2 ^ 64) 1
      let rd := fun k => match one k with
        | .ok ps => if ps.any fun p => s.poisonedMem p.pa p.n then none else (ps.flatMap fun p => s.rdBytes p.tag p.pa p.n).head?
        | _ => none
      let out := if c.table.length = 256 then es else packRow 4 (es.map (·.toNat))
      c.d + out.length ≤ n.partSize →
      (decodeStream (canonicalCodes (codedSymbols c.table) 0 0) rd c.b 0 = (es, pos, none) →
        ∃ t, exec (.decComplete c.id) s = .next t ∧ Completes s c 0 t ∧ t.spBytes c.unit (n.partBase c.unit + c.d) out.length = out)
      ∧ (decodeStream (canonicalCodes (codedSymbols c.table) 0 0) rd c.b 0 = (es, pos, some .none) →
        ∃ t, exec (.decComplete c.id) s = .next t ∧ Completes s c 6 t ∧ t.spBytes c.unit (n.partBase c.unit + c.d) out.length = out))
  ∧ (∀ (s : State) (c : Cmd) (f : EngF) (n : Node), c ∈ s.cmds → (∀ q ∈ s.cmds, q.id = c.id → q = c) → c.instr = .dec f → c.code = some 2 → c.data ≠ [] →
      (∀ r ∈ s.held, r.id + 1 ≠ c.id) → c.donePa + 8 ≤ linkBase → OnNode s c n →
      let out := if c.table.length = 256 then c.data else packRow 4 (c.data.map (·.toNat))
      c.d + out.length ≤ n.partSize →
        ∃ t, exec (.decComplete c.id) s = .next t ∧ Completes s c 2 t ∧ t.spBytes c.unit (n.partBase c.unit + c.d) out.length = out)
  ∧ (∀ (s : State) (c : Cmd) (f : EngF) (n : Node) (row : Nat → Option (List Nat)), Working s c → c.instr = .gpool f → OnNode s c n → 
      let fld := fun k w => c.block / 2 ^ k % 2 ^ w
      let nel := fld 112 16
      let nidx := fld 128 32
      let ds := (s.tableOf c.ctx c.a).desc
      let kw := ds.keyBytes
      let key := fun i => ofLe ((c.data.drop (i * kw)).take kw)
      let weight := fun i => num32 (ofLe ((c.data.drop (nidx * kw + 4 * i)).take 4))
      let tb := fun i => s.homeOf c.ctx c.a (key i)
      c.vals = [0, 0] ++ List.replicate nel 0 → fld 224 32 + 4 * nel + 4 ≤ n.partSize → ds.shard = 0 → s.poison.contains (.index c.ctx c.a) = false →
      (find c.a (s.ctx c.ctx).tables).isSome = true →
      (∀ i, i < nidx → match (s.tableOf c.ctx (tb i)).lookup (key i), row i with
        | none, none => True
        | some x, some r => ∃ ps, s.cmdCheck c false ((s.tableOf c.ctx (tb i)).rowAddr (tb i) x.slot + fld 96 16) (4 * nel) = .ok ps
            ∧ (∀ p ∈ ps, s.poisonedMem p.pa p.n = false) ∧ r = words32 (ps.flatMap fun p => s.rdBytes p.tag p.pa p.n) ∧ r.length = nel
        | _, _ => False) →
      let acc := fun e => (List.range nidx).foldl (fun a i => match row i with | some r => (fpFma lay32 .rne (weight i) (num32 (r.getD e 0)) (num32 a)).1 | none => a) 0
      let missed := ((List.range nidx).filter fun i => (row i).isNone).length
      ∃ t, exec (.gpoolComplete c.id) s = .next t ∧ Completes s c 0 t
        ∧ (∀ e, e < nel → ofLe (t.spBytes c.unit (n.partBase c.unit + fld 224 32 + 4 * e) 4) = acc e)
        ∧ (missed < 2 ^ 32 → ofLe (t.spBytes c.unit (n.partBase c.unit + fld 224 32 + 4 * nel) 4) = missed))
  ∧ (∀ (s : State) (c : Cmd) (f : EngF) (n : Node) (kp vp : Nat → List Piece), Working s c → c.instr = .attn f → OnNode s c n → c.vals = [0] →
      let b := AttnBlock.ofNat c.block
      let tb := s.tableOf c.ctx b.seq
      let va := fun p => b.seq * 2 ^ 50 + tb.posOff p
      let st := fun p => (s.opSqloc c.ctx { lane := 0, tbl := b.seq, a := p }).2.sr
      let acc := fun v ps => s.cmdCheck c false v (2 * b.dim) = .ok ps  ∧ ∀ p ∈ ps, s.poisonedMem p.pa p.n = false
      let read := fun ps => vecOf b.kvf (ps.flatMap fun p => s.rdBytes p.tag p.pa p.n) b.dim
      let at_ := fun t => ((List.range (b.pend - b.pbeg)).map fun i => b.pbeg + i).filter fun p => s.stackOf tb p == some t && st p != some 6
      let query := fun q => words32 ((c.data.drop (4 * b.dim * q)).take (4 * b.dim))
      let triple := fun t q => (at_ t).foldl (fun (a : Triple) p => a.step b.sigma (query q) (read (kp p)) (read (vp p))) {}
      (∀ p, b.pbeg ≤ p → p < b.pend → st p ≠ some 5 ∧ (st p ≠ some 6 → acc (va p + b.koff) (kp p) ∧ acc (va p + b.voff) (vp p))) →
      b.ooff + 4096 * b.heads ≤ n.partSize → b.stoff + 32 * b.heads ≤ n.partSize → (b.ooff + 4096 * b.heads ≤ b.stoff ∨ b.stoff + 32 * b.heads ≤ b.ooff) →
      ∃ t, exec (.attnComplete c.id) s = .next t ∧ Completes s c 0 t
        ∧ ∀ k q, k < 8 → q < b.heads → let r := (triple k q).record
            t.spBytes c.unit (n.partBase c.unit + b.ooff + 512 * (8 * q + k)) 512 = r.1 ∧ ofLe (t.spBytes c.unit (n.partBase c.unit + b.stoff + 4 * (8 * q + k)) 4) = r.2)
  ∧ ∀ (t : Triple) (sigma : Nat) (q k v : List Nat), t.a.length = 64 →
      let s := (fpMul lay32 .rne (num32 sigma) (num32 (dotRuns q k))).1
      let u := t.step sigma q k v
      let f := (fpSpecial .ex2 (fpAdd lay32 .rne (num32 t.m) (num32 s).neg).1).1
      let w := if (num32 s).eqv (num32 t.m) then 0x3F800000 else (fpSpecial .ex2 (fpAdd lay32 .rne (num32 s) (num32 t.m).neg).1).1
      let mix := fun (x y a : Nat) => (lay32.round .rne (Num.sum .rne [if x = 0 then .fin false 0 0 else (num32 x).mul (num32 y), num32 a])).1
      ((num32 s).isNan = true → u = { t with bad := true })
      ∧ (s = 0xFF800000 → u = t)
      ∧ ((num32 s).isNan = false → s ≠ 0xFF800000 →
          u.bad = t.bad ∧ (∀ j, v.length ≤ j → j < 64 → u.a[j]? = t.a[j]?)
          ∧ if (num32 t.m).lt (num32 s) then u.m = s ∧ u.l = mix f t.l 0x3F800000 ∧ ∀ j, j < v.length → j < 64 → u.a[j]? = some (mix f (t.a.getD j 0) (v.getD j 0))
            else u.m = t.m ∧ u.l = mix w 0x3F800000 t.l ∧ ∀ j, j < v.length → j < 64 → u.a[j]? = some (mix w (v.getD j 0) (t.a.getD j 0)))

/-! ### The system class -/

/-- 02 R58, 16 R320, R322–R324, R326, R327: the system class at issue. Below its level an instruction traps its executing lanes with PRIV, SYSINS. At it, the
invalidations hold the warp until the requests that its context has under way are performed (and a line form whose address leaves its table traps); `CTXS` and
`CTXL` send Saltern a command; `KMIG` sends the rake units one request for all executing lanes, and fetch waits for the reply; `GCALL` holds its lanes in a new
fragment, whose record carries their arguments, their pair D pending.
(What an invalidation waits for is log entry 23, the lanes that trap log entry 60.) -/
def Obligations.SystemInstructions : Prop :=
  ∀ (s : State) (f : SysF) (x : Issue),
    let z := x.takePorts
    let drained := ({ x with w := { x.w with drain := ((s.held ++ s.atomQ ++ s.rakeQ ++ (s.setNode x.nk x.n).buffered).filter fun r => r.ctx == x.n.ctx).map (·.id) } } : Issue)
    let lines : List (Instr × Int) := [(.cinvLine8 f, (BitVec.ofNat 32 (z.val 2 x.elected)).toInt), (.cwbLine8 f, (BitVec.ofNat 32 (z.val 2 x.elected)).toInt),
      (.cinvLine12 f, f.imm.toInt), (.cwbLine12 f, f.imm.toInt)]
    (∀ i lvl, (i, lvl) ∈ [(Instr.eretRetry f, 1), (.eretSkip f, 1), (.eretKill f, 1), (.tlbiCtx f, 1), (.tlbiTbl f, 1), (.tlbiVa f, 1), (.tlbiS2 f, 2),
        (.cinvLine8 f, 1), (.cinvLine12 f, 1), (.cinvAll f, 1), (.cwbLine8 f, 1), (.cwbLine12 f, 1), (.cwbAll f, 1), (.smcall f, 1), (.ctxs f, 2), (.ctxl f, 2),
        (.kmig f, 2), (.inj f, 2)] →
      Issues s i f.p x → (x.ex = [] → Ends s i x (FrameOf x [] [] [])) ∧ (x.lvl < lvl → TrapsTo s i x x.ex (0x0B, 3)))
    ∧ (∀ i lvl, (i, lvl) ∈ [(Instr.tlbiCtx f, 1), (.tlbiTbl f, 1), (.tlbiVa f, 1), (.tlbiS2 f, 2), (.cinvAll f, 1), (.cwbAll f, 1)] →
        Issues s i f.p x → lvl ≤ x.lvl → x.ex ≠ [] → Ends s i x (FrameOf drained [] [] []))
    ∧ (∀ i d, (i, d) ∈ lines → Issues s i f.p x → 1 ≤ x.lvl → x.ex ≠ [] →
        (formAddr (z.val 1 x.elected) d = none → TrapsTo s i x x.ex (3, 0x23))
        ∧ (formAddr (z.val 1 x.elected) d ≠ none → Ends s i x (FrameOf drained [] [] [])))
    ∧ (∀ i, i = .ctxs f ∨ i = .ctxl f → Issues s i f.p x → 2 ≤ x.lvl → x.ex ≠ [] →
        IssuesCommand s i x false (orTrap (z.val 3 x.elected % 8 != 0) (2, 1)
          (.ok fun c => { c with started := true, a := z.val 1 x.elected, b := z.val 2 x.elected })))
    ∧ (Issues s (.kmig f) f.p x → 2 ≤ x.lvl → x.ex ≠ [] →
        let t := z.val 1 x.elected / 2 ^ 50
        let k := z.val 3 x.elected % 2 ^ 32
        let op := z.admits t (fun d => d.kind == 2 && d.shard != 0) fun tb =>
          if f.kw ≠ tb.desc.k16 then .error (8, 4)
          else match z.s.shardMap z.n.ctx tb.desc.shard with
            | some m => if k < m.ents.length then .ok { lane := 0, tbl := t, a := z.val 2 x.elected, b := k } else .error (6, 3)
            | none => .error (6, 3)
        (∀ e, op = .ok e → Ends s (.kmig f) x (FrameOf (x.asks true (x.ex.map fun l => { e with lane := l })) [] [] []))
        ∧ ∀ c, op = .error c → TrapsTo s (.kmig f) x x.ex c)
    ∧ (Issues s (.gcall f) f.p x → x.ex = [] → Ends s (.gcall f) x (FrameOf x [] [] []))
    ∧ (Issues s (.gcall f) f.p x → x.w.isSeq = false → FragsOk x.w → x.unparked → x.lvl < 2 → x.ex ≠ [] →
        (∀ l ∈ x.ex, (x.w.lane l).frag = (x.w.lane x.lowest).frag) → Ends s (.gcall f) x fun t w =>
          TrapFrame { x with w := { x.w with pend := x.w.pend ++ [⟨0, f.d, x.ex, 0⟩, ⟨0, f.d + 1, x.ex, 0⟩] } } x.ex t w
          ∧ (∀ l ∈ x.ex, w.lane l = { x.w.lane l with st := .parked, pc := x.at_, frag := (w.lane l).frag })
          ∧ ∃ (g : Frag) (e : Escalation), (∀ l ∈ x.ex, (w.lane l).frag = g.id) ∧ w.frag g.id = some g ∧ g.esc = some e
            ∧ e.cause = 0 ∧ e.sub = 0 ∧ e.epc = x.at_ ∧ e.dbl = false ∧ e.gcallD = some f.d ∧ e.args = (x.ex.map fun l => (l, x.val 1 l))
            ∧ match x.s.appendTrap x.n.ctx (if x.lvl = 0 then 8 else 9) (x.trapRec g.id x.ex 0 0 x.at_ false (x.ex.map fun l => (l, x.val 1 l))) with
              | some (u, r) => e.ref = some r ∧ t.mem = u.mem ∧ t.keys = u.keys ∧ t.ctxs = u.ctxs ∧ t.interrupts = u.interrupts
              | none => e.ref = none ∧ t.mem = x.s.mem ∧ t.keys = x.s.keys ∧ t.ctxs = x.s.ctxs ∧ t.interrupts = x.s.interrupts)
    ∧ (Issues s (.gcall f) f.p x → x.w.isSeq = false → x.lvl = 2 → x.ex ≠ [] → find x.nk s.nodes = some x.n → x.n.st.final = false → x.unparked →
        ∃ t n', exec (.gcall f) s = .next t ∧ find x.nk t.nodes = some n' ∧ n'.st = .failed)

/-- 16 R328, 20 R394: `INJ` checks its selectors, and arms a flip in a copy of a warp of a REDUNDANT node; at that copy's next issue a flip of a register strikes it, and a flip
of store data becomes pending, to strike the data of the next store of its lane, which consumes it.
(The stores that a flip strikes are log entry 28, the order of the checks log entry 66.) -/
def Obligations.Flips : Prop :=
  (∀ (s : State) (f : SysF) (x : Issue), Issues s (.inj f) f.p x → 2 ≤ x.lvl → x.ex ≠ [] →
    let sel := x.val 1 x.elected
    let nsel := x.val 2 x.elected
    let got := (x.s.setNode x.nk x.n).selNode x.n.ctx nsel
    let copy := sel % 4
    let target := sel / 4 % 4
    let reg := sel / 2 ^ 4 % 2 ^ 8
    let wi := sel / 2 ^ 23 % 2 ^ 9
    let bad := nsel / 2 ^ 16 % 2 ^ 16 ≠ 0 ∨ sel / 2 ^ 32 ≠ 0 ∨ copy = 3 ∨ target = 3
      ∨ target = 0 ∧ (240 ≤ reg ∨ ∃ k n, got = some (k, n) ∧ n.desc.n ≤ reg ∧ reg ≤ 223) ∨ target = 1 ∧ (reg = 0 ∨ 64 ≤ reg) ∨ target = 2 ∧ reg ≠ 0
    (bad → TrapsTo s (.inj f) x x.ex (6, 3))
    ∧ (¬bad → got = none → Ends s (.inj f) x (Wrote x x.ex fun _ => (2, 0)))
    ∧ ∀ k n, ¬bad → got = some (k, n) →
        let runs := ∃ pr c w, pr ∈ n.pairs ∧ pr.idx = wi ∧ pr.copies[copy]? = some c ∧ find c.warp (insert x.wk x.w s.warps) = some w
        let left := x.s.warps.any fun e => e.2.node == k && e.2.idx == wi && !e.2.isSeq
        (n.desc.red = false → Ends s (.inj f) x (Wrote x x.ex fun _ => (1, 0)))
        ∧ (n.desc.red = true → n.desc.l ≤ 32 * wi ∨ (n.st = .running ∧ ¬runs) ∨ (n.st ≠ .running ∧ copy = 2) ∨ (n.st = .saved ∧ left = false) →
            Ends s (.inj f) x (Wrote x x.ex fun _ => (2, 0)))
        ∧ (n.desc.red = true → 32 * wi < n.desc.l → (n.st = .running → runs) → (n.st ≠ .running → copy ≠ 2) → (n.st = .saved → left = true) →
            Ends s (.inj f) x (Wrote { x with s := { x.s with nodes := insert k { n with flips := n.flips ++ [{ warp := wi, copy := copy, sel := sel }] } s.nodes } }
              x.ex fun _ => (0, 0))))
  ∧ (∀ (s : State) (i : Instr) (p : Pred) (x : Issue) (wk : Nat) (w : Warp) (n : Node), s.cur = some wk → find wk s.warps = some w → find w.node s.nodes = some n →
      s.start i p = some x →
      let mine := fun (f : Flip) => f.warp = w.idx ∧ f.copy = w.copy ∧ f.pending = false
      ((∀ f ∈ n.flips, ¬mine f) → x.n = n ∧ x.w.v = w.v ∧ x.w.s = w.s ∧ x.w.m = w.m)
      ∧ ∀ f, n.flips = [f] → mine f →
          let reg := f.sel / 2 ^ 4 % 2 ^ 8
          let bit := f.sel / 2 ^ 17 % 2 ^ 6
          x.w.m = w.m
          ∧ (f.sel / 4 % 4 = 0 → x.n = { n with flips := [] } ∧ x.w.s = w.s
              ∧ ∀ r l, l < 32 → x.w.vreg r l = if r = reg ∧ l = f.sel / 2 ^ 12 % 32 then w.vreg r l ^^^ 2 ^ (bit % 32) else w.vreg r l)
          ∧ (f.sel / 4 % 4 = 1 → x.n = { n with flips := [] } ∧ x.w.v = w.v
              ∧ ∀ r, x.w.sreg r = if r = reg ∧ r ≠ 0 then w.sreg r ^^^ 2 ^ bit else w.sreg r)
          ∧ (f.sel / 4 % 4 = 2 → x.n = { n with flips := [{ f with pending := true }] } ∧ x.w.v = w.v ∧ x.w.s = w.s))
  ∧ ∀ (x : Issue) (f : MemF) (l va n v : Nat) (ps : List Piece), x.i = .st8 f ∨ x.i = .st12 f ∨ x.i = .sct f → 0 < n →
      let mine := fun (g : Flip) => g.pending = true ∧ g.warp = x.w.idx ∧ g.copy = x.w.copy ∧ g.sel / 2 ^ 12 % 32 = l
      let calm := ({ x with n := { x.n with flips := [] } } : Issue)
      ((∀ g ∈ x.n.flips, ¬mine g) → x.storeMem l va n v ps = { calm.storeMem l va n v ps with n := x.n })
      ∧ ∀ g, x.n.flips = [g] → mine g → x.storeMem l va n v ps = calm.storeMem l va n (v ^^^ 2 ^ (g.sel / 2 ^ 17 % 2 ^ 6 % (8 * n))) ps

/-- 16 R314–R316, R321, 18 R364: `ERET`, for one executing lane: what the address in A names, and what the record's fragment or command does. A record that is no slot of the
trap sequences of the level is BADREC; one resolved already, or whose fragment is gone, GONE. Otherwise STATE becomes the action and the lane's status is 0: a held
fragment returns to its parent at EPC, or past the instruction there, the D pairs of a `GCALL` taken from RES; a parked one retries, or skips its access; `KILL` kills the node.
(A slot without a record is log entry 63, the moment at which RES is read log entry 64.) -/
def Obligations.ReturnFromException : Prop :=
  ∀ (s : State) (f : SysF) (x : Issue) (l : Nat) (i : Instr) (act : Nat), (i, act) ∈ [(Instr.eretRetry f, 1), (.eretSkip f, 2), (.eretKill f, 3)] →
    Issues s i f.p x → 1 ≤ x.lvl → x.ex = [l] →
    let a := x.val 1 l
    let tbl := a / 2 ^ 50
    let slot := a % 2 ^ 50 / 1024
    let names := (tbl = 8 ∨ tbl = 9 ∧ x.lvl = 2) ∧ a % 2 ^ 50 % 1024 = 0 ∧ slot < Config.trapWindow
    let next := ((find tbl x.ctx.tables).getD {}).r
    let all := insert x.wk x.w s.warps
    let nodes := insert x.nk x.n s.nodes
    (¬names → Ends s i x (Wrote x [l] fun _ => (2, 0)))
    ∧ (names → next ≤ slot → Ends s i x (Wrote x [l] fun _ => (1, 0)))
    ∧ ∀ pos pa tag, names → pos % Config.trapWindow = slot → pos < next → next ≤ pos + Config.trapWindow → s.recPlace x.n.ctx ⟨tbl, pos⟩ = some (pa, tag) →
        let r : RecRef := ⟨tbl, pos⟩
        let heldBy := fun (vk : Nat) (v : Warp) (g : Frag) => (vk, v) ∈ all ∧ g ∈ v.frags ∧ g.openRec = some r ∧ g.parent ≠ g.id
          ∧ ∀ e ∈ all, ∀ h ∈ e.2.frags, h.openRec = some r → e = (vk, v) ∧ h = g
        let solved : State := { s.wrByte tag (pa + 40) (BitVec.ofNat 8 act) with
          ctxs := insert x.n.ctx (if tbl = 8 then { x.ctx with grecs := x.ctx.grecs - 1 } else { x.ctx with hrecs := x.ctx.hrecs - 1 }) s.ctxs }
        let pending := (s.rdByte tag (pa + 40)).toNat % 4 = 0
        (¬pending → Ends s i x (Wrote x [l] fun _ => (1, 0)))
        ∧ (pending → (∀ e ∈ all, ∀ h ∈ e.2.frags, h.openRec ≠ some r) → (∀ c ∈ s.cmds, ∀ p, c.park = some p → p.open_ ≠ some r) →
            Ends s i x (Wrote x [l] fun _ => (1, 0)))
        ∧ (∀ (vk : Nat) (v : Warp) (g : Frag) (n : Node), pending → heldBy vk v g → vk ≠ x.wk → find v.node nodes = some n → n.ctx = x.n.ctx →
            n.st = .running → n.pre = none → v.isSeq = false → FragsOk v →
            let ls := v.fragLanes g.id
            let lau := (find n.launch s.launches).getD { ctx := x.n.ctx, id := 0 }
            let toPc := fun pc => if act = 2 then pc + codeLen s n.launch lau pc else pc
            (act ≠ 3 → (g.esc ≠ none ∨ g.park ≠ none ∧ act = 2) → ∃ v' : Warp,
              Ends s i x (Wrote { x with s := { solved with warps := insert vk v' s.warps } } [l] fun _ => (0, 0))
              ∧ (∀ k, v'.lane k = if k ∈ ls then { v.lane k with st := .running, pc := toPc (v.lane k).pc, frag := g.parent } else v.lane k)
              ∧ v'.frag g.id = none
              ∧ v' = { v with lanes := v'.lanes, frags := v'.frags, v := v'.v, pend := v'.pend }
              ∧ ((∀ e, g.esc = some e → e.gcallD = none) → v'.v = v.v ∧ v'.pend = v.pend)
              ∧ ∀ e d, g.esc = some e → e.gcallD = some d → d < 255 → lau.ctx = x.n.ctx →
                  (∀ k, k < 32 → v'.rdReg .vp d k = if k ∈ ls then ofLe (s.rdBytes tag (pa + 320 + 8 * k) 8) else v.rdReg .vp d k)
                  ∧ (∀ n k, k < 32 → n ≠ d → n ≠ d + 1 → v'.vreg n k = v.vreg n k)
                  ∧ ∀ p, p ∈ v'.pend ↔ p ∈ v.pend ∧ ¬(p.req = 0 ∧ ∀ k ∈ p.lanes, k ∈ ls))
            ∧ (∀ p, act = 1 → g.esc = none → g.park = some p → ∃ v' : Warp,
              Ends s i x (Wrote { x with s := { solved with warps := insert vk v' s.warps } } [l] fun _ => (0, 0))
              ∧ (∀ k, v'.lane k = if k ∈ ls ∧ (v.lane k).st = .parked then { v.lane k with st := .running } else v.lane k)
              ∧ v'.frag g.id = some { g with action := none, park := some { p with d := 64, due := s.clock v.unit + 64, open_ := none } }
              ∧ v' = { v with lanes := v'.lanes, frags := v'.frags })
            ∧ (act = 3 → v.node ≠ x.nk → x.w.isSeq = false → f.d < 240 → ∃ t w n', exec i s = .next t ∧ find x.wk t.warps = some w ∧ w.vreg f.d l = 0
                ∧ find v.node t.nodes = some n' ∧ n'.st = .failed))
        ∧ ∀ (c : Cmd) (p : Park), pending → (∀ e ∈ all, ∀ h ∈ e.2.frags, h.openRec ≠ some r) → c ∈ s.cmds → c.ctx = x.n.ctx → c.park = some p → p.open_ = some r →
            (∀ q ∈ s.cmds, q ≠ c → q.id ≠ c.id ∧ ∀ p, q.park = some p → p.open_ ≠ some r) →
            Ends s i x (Wrote { x with s := { solved with cmds := s.cmds.map fun q => if q.id = c.id then
              (if act = 1 then { c with park := some { p with d := 64, due := s.clock c.unit, open_ := none } }
                else { c with park := none, code := some (if p.fault.code = 0x11 ∨ p.fault.code = 0x19 then 3 else 2) }) else q } } [l] fun _ => (0, 0))

/-! ### Security, bring-up and power -/

/-- 16 R325, 23 R427–R432, 18 R351: `SMCALL` and each service, by its number or under its own name: the result in D of every executing lane, and what the service does.
(Free digests and signatures are log entry 11, the choices of CTXCREATE and CTXDESTROY log entry 67, those of LOOKUPS log entry 68, corrected errors log entry 74.) -/
def Obligations.SmcServices : Prop :=
  ∀ (s : State) (f : SysF) (x : Issue) (i : Instr) (n : Nat), Issues s (.smcall f) f.p x → x.ex ≠ [] → 1 ≤ x.lvl →
    (n, i) ∈ [(1, Instr.version f), (0x10, .ctxcreate f), (0x11, .ctxdestroy f), (0x12, .keyretire f), (0x20, .ecccount f), (0x21, .lookups f), (0x30, .setget f),
      (0x31, .setput f), (0x40, .attest f), (0x41, .attkey f), (0x50, .powercap f), (0x51, .thermal f), (x.val 1 x.elected % 2 ^ 16, .smcall f)] →
    let a := x.val 2 x.elected
    let waits := fun (w : Warp) (u : State) => { w with drain := w.drain ++ u.retiring.flatMap fun e => e.2 }
    let answers := fun (u : State) (res : Nat) => Ends s i x (Wrote { x with s := u, w := waits x.w u } x.ex fun _ => (res, 0))
    let here : State := (s.setWarp x.wk x.w).setNode x.nk x.n
    let under := fun (slot : Nat) => (s.held ++ s.atomQ ++ s.rakeQ ++ here.buffered).filter fun r => r.under (s.keyTag slot)
    let acc := fun (wr : Bool) (va n : Nat) => s.checkAccess x.n.ctx none x.lvl { write := wr, onlyN := true } va n
    let newKey := fun (slot : Nat) => { s.smc with keySlots := insert slot s.smc.keyGen s.smc.keySlots, keyGen := s.smc.keyGen + 1 }
    (n ∉ [1, 0x10, 0x11, 0x12, 0x20, 0x21, 0x30, 0x31, 0x40, 0x41, 0x50, 0x51] → answers s (2 ^ 64 - 1))
    ∧ (n ∈ [0x10, 0x11, 0x12, 0x21, 0x31, 0x50] → x.lvl < 2 → answers s 1)
    ∧ (n = 1 → answers s (s.smc.svn * 2 ^ 8))
    ∧ (n = 0x51 → answers s (s.smc.temp % 2 ^ 8 * 2 ^ 8 + s.smc.throttle % 2 ^ 8 * 2 ^ 16))
    ∧ (n = 0x20 →
        let known := (a / 4096, a % 4096) ∈ ([768, 96, 64, 8, 128, 1, 24, 4] : List Nat).zipIdx.flatMap fun e => (List.range e.1).map fun k => (e.2, k)
        let e := (find a s.ecc).getD (0, 0)
        let corrected := e.1 + Config.correctedErrors s.fresh
        (known → answers { s with ecc := insert a (corrected, e.2) s.ecc, fresh := s.fresh + 1 } (corrected % 2 ^ 32 * 2 ^ 8 + e.2 % 2 ^ 24 * 2 ^ 40)) ∧ (¬known → answers s 2))
    ∧ (n = 0x30 → answers s (match ([s.settings.repstep, s.settings.starve, s.settings.acth, s.settings.rslack, s.settings.devid] : List Nat)[a]? with
        | some v => v * 2 ^ 8
        | none => 2))
    ∧ (2 ≤ x.lvl →
        (n = 0x12 → if 1 ≤ a ∧ a ≤ 255 then
              ∃ u w m, Ends s i x (Wrote { x with s := u, w := waits w u, n := m } x.ex fun _ => (0, 0))
                ∧ (under a ≠ [] → u = { here with retiring := insert a ((under a).map (·.id)) s.retiring } ∧ w = x.w ∧ m = x.n)
                ∧ (under a = [] → u.smc = newKey a ∧ u.retiring = erase a s.retiring ∧ w = { x.w with role := w.role }
                    ∧ u = { s with smc := u.smc, retiring := u.retiring, held := u.held, atomQ := u.atomQ, cmds := u.cmds, deques := u.deques, warps := u.warps, nodes := u.nodes })
            else answers s 2)
        ∧ (n = 0x50 → if 400 ≤ a ∧ a ≤ 3200 then answers { s with smc := { s.smc with powercap := a } } 0 else answers s 2)
        ∧ (n = 0x31 →
            let v := a % 2 ^ 48
            let k := a / 2 ^ 48 % 2 ^ 16
            (k = 0 → if 1 ≤ v ∧ v ≤ 255 then answers { s with settings := { s.settings with repstep := v } } 0 else answers s 2)
            ∧ (k = 1 → if 1024 ≤ v ∧ v ≤ 2 ^ 24 then answers { s with settings := { s.settings with starve := v } } 0 else answers s 2)
            ∧ (k = 2 → if 1 ≤ v ∧ v ≤ 65535 then answers { s with settings := { s.settings with acth := v } } 0 else answers s 2)
            ∧ (k = 3 → if 64 ≤ v ∧ v ≤ 1024 then answers { s with settings := { s.settings with rslack := v } } 0 else answers s 2)
            ∧ (4 ≤ k → answers s 2))
        ∧ (n = 0x10 →
            let b := ofLe ((List.range 64).map fun k => memGet s.mem (a + k))
            let sec := bitAt b 128
            let s1 := b % 2 ^ 64
            let s2 := b / 2 ^ 64 % 2 ^ 64
            let key := fun slot => 1 ≤ slot ∧ slot ≤ 255 ∧ find slot s.retiring = none ∧ ∀ e ∈ s.ctxs, e.2.owner = slot → e.2.dead = true
            let sound := b / 2 ^ 129 = 0 ∧ s2 % 8192 = 0 ∧ s1 % 131072 = 0 ∧ s1 < 2 ^ 50
            (b / 2 ^ 129 ≠ 0 → answers s 2)
            ∧ (b / 2 ^ 129 = 0 → sec = true → x.ctx.sec = false → answers s 1)
            ∧ ∀ k slot, sound → (sec = true → x.ctx.sec = true) → s.smc.stage = 6 → (∀ e ∈ s.ctxs, e.1 < k) → (k = 1 ∨ ∃ c, (k - 1, c) ∈ s.ctxs) → 1 ≤ k → k < 2 ^ 16 →
                key slot → (∀ j, key j → slot ≤ j) → ∃ u : State,
                answers u (k * 2 ^ 8 + slot * 2 ^ 24) ∧ u.smc = newKey slot
                ∧ u = { s with ctxs := u.ctxs, smc := u.smc, blockRef := u.blockRef, blockIpas := u.blockIpas, nextId := u.nextId, poison := u.poison }
                ∧ (∀ c, c ≠ k → u.ctx c = s.ctx c)
                ∧ u.ctx k = { s1root := s1, s2root := s2, sec := sec, owner := slot, tables := (u.ctx k).tables }
                ∧ (∀ t, (find t (u.ctx k).tables).isSome = true ↔ t ∈ [3, 4, 5, 6, 7, 8, 9])
                ∧ (u.tableOf k 8).desc = { kind := 4, valid := true, rowlg := 10, scope := 1, win := Config.trapWindow } ∧ (u.tableOf k 9).desc = (u.tableOf k 8).desc)
        ∧ (n = 0x11 →
            ((∀ c, find a s.ctxs = some c → c.dead = true) → answers s 2)
            ∧ ∀ c, find a s.ctxs = some c → c.dead = false → ∃ t, exec i s = .next t ∧ (t.ctx a).dead = true
                ∧ (under c.owner = [] → t.smc = newKey c.owner) ∧ (under c.owner ≠ [] → t.smc = s.smc ∧ find c.owner t.retiring = some ((under c.owner).map (·.id)))
                ∧ (∀ nk n', find nk s.nodes = some n' → n'.ctx = a → ∃ m, find nk t.nodes = some m ∧ m.st.final = true)
                ∧ (x.n.ctx ≠ a → x.w.isSeq = false → (∀ e ∈ s.nodes, e.1 = x.nk → e.2.ctx = x.n.ctx) → ∃ w, find x.wk t.warps = some w ∧ ∀ l ∈ x.ex, f.d < 255 → l < 32 → w.rdReg .vp f.d l = 0))
        ∧ (n = 0x21 → ∀ (ps qs : List Piece) (tb : Table) (m : ShardMap), acc false a 64 = .ok ps →
            let b := ofLe (s.rdPieces ps)
            let cap := b / 2 ^ 224 % 2 ^ 32
            let k := b / 2 ^ 64 % 2 ^ 12
            x.ctx.table (b / 2 ^ 50 % 2 ^ 14) = some tb → tb.desc.kind = 2 → tb.desc.shard ≠ 0 → s.shardMap x.n.ctx tb.desc.shard = some m →
            (b / 2 ^ 257 % 2 ^ 255 ≠ 0 ∨ b % 2 ^ 50 ≠ 0 ∨ b / 2 ^ 192 % 2 ^ 32 ≠ 0 ∨ b / 2 ^ 76 % 2 ^ 52 ≠ 0 ∨ cap = 0 ∨ 65536 < cap ∨ b / 2 ^ 128 % 16 ≠ 0 ∨ m.ents.length ≤ k → answers s 2)
            ∧ ∀ e, b / 2 ^ 257 % 2 ^ 255 = 0 → b / 2 ^ 192 % 2 ^ 32 = 0 → b / 2 ^ 76 % 2 ^ 52 = 0 → b % 2 ^ 50 = 0 → 1 ≤ cap → cap ≤ 65536 → b / 2 ^ 128 % 16 = 0 → m.ents[k]? = some e →
                m.ok 2 = true → (find (s.shardTable e) x.ctx.tables).isSome = true →
                let held := (s.tableOf x.n.ctx (s.shardTable e)).lookups
                ∃ es : List (Nat × Nat × Nat), es.Perm held
                  ∧ (es.Pairwise fun p q => q.2.2 < p.2.2 ∨ q.2.2 = p.2.2 ∧ (p.1 < q.1 ∨ p.1 = q.1 ∧ p.2.1 ≤ q.2.1))
                  ∧ let out := leBytes 8 es.length ++ leBytes 4 (min es.length cap) ++ leBytes 4 0
                      ++ (es.take cap).flatMap fun p => leBytes 16 p.1 ++ leBytes 2 p.2.1 ++ leBytes 2 0 ++ leBytes 4 (min p.2.2 (2 ^ 32 - 1)) ++ leBytes 8 0
                    acc true (b / 2 ^ 128 % 2 ^ 64) out.length = .ok qs →
                    answers (if bitAt b 256 then (s.wrPieces qs out).updTable x.n.ctx (s.shardTable e) fun t => { t with lookups := [] } else s.wrPieces qs out) 0))
    ∧ (n = 0x40 → ∀ (ps qs : List Piece), acc false a 32 = .ok ps → acc true ((a + 32) % 2 ^ 64) 3669 = .ok qs → s.smc.measurements.length = 4 →
        (∀ m ∈ s.smc.measurements, m.length = 64) → s.settings.devid < 4096 → ∃ sig : List Byte, sig.length = 3309
          ∧ answers (s.wrPieces qs (s.rdPieces ps ++ leBytes 2 s.settings.devid ++ leBytes 2 x.n.ctx ++ leBytes 4 x.ctx.owner ++ s.smc.measurements.flatten
            ++ fixBytes 64 (Config.digest (([s.settings.repstep, s.settings.starve, s.settings.acth, s.settings.rslack, s.settings.devid] : List Nat).flatMap (leBytes 8)))
            ++ sig)) 0)
    ∧ (n = 0x41 → (a % 16 ≠ 0 → answers s 2) ∧ ∀ qs, a % 16 = 0 → acc true a 5376 = .ok qs → ∃ pk serial sig : List Byte,
        pk.length = 1952 ∧ serial.length = 8 ∧ sig.length = 3309 ∧ answers (s.wrPieces qs (pk ++ serial ++ sig ++ List.replicate 107 0)) 0)

/-! ### Reliability -/

/-- 12 R303, 19 R384–R390, 20 R395: `RBEG`, `RCHK` and `REND`. In a node that is not REDUNDANT they do nothing. In a copy, `RBEG` opens the region and takes the checkpoint as
the instruction leaves the copy, and traps NEST in an open one; `RCHK` and `REND` without a region trap NOREG; with one the copy closes its chunk and waits for the other. What
the comparison then does: of two equal chunks the buffered requests leave, of two that differ both copies go back to their checkpoints; where both copies stand at the end of their
interval with every chunk decided and every reply in, both may pass: each has a new checkpoint, as the instruction leaves it, and empty logs. -/
def Obligations.RedundantRegions : Prop :=
  (∀ (s : State) (f : EngF) (x : Issue),
    let begins := fun (i : Instr) => s.start i f.p = some x ∧ x.held = false ∧ x.readsPoison f.p = false
    (∀ i, i = .rbeg f ∨ i = .rchk f ∨ i = .rend f → Issues s i f.p x → Ends s i x (FrameOf x [] [] []))
    ∧ ∀ (p : Pair) (a b : CopySt) (k : Nat), x.red = true → x.once = true → x.pair = some p → p.copies = [a, b] → (k = 0 ∨ k = 1) → x.w.copy = k →
        x.w.isSeq = false → find x.nk s.nodes = some x.n → x.unparked →
        let me := if k = 0 then a else b
        let both := fun (m : CopySt) => if k = 0 then [m, b] else [a, m]
        me.warp = x.wk →
        let goesOn := fun (t : State) (w : Warp) => w.v = x.w.v ∧ w.s = x.w.s ∧ w.m = x.w.m ∧ t.mem = s.mem ∧ t.held = s.held
          ∧ ∀ l ∈ x.act, (w.lane l).pc = x.at_ + 8 ∧ (w.lane l).st = .running
        (begins (.rbeg f) → me.open_ = false → Ends s (.rbeg f) x fun t w => goesOn t w
          ∧ ∃ q c, t.pairAt x.nk x.w.idx = some q ∧ q.copies = both c ∧ q.once = p.once ∧ c = { me.fresh with
              open_ := true, steps := me.steps + 1
              ck := some { v := w.v, s := w.s, m := w.m, lanes := w.lanes, frags := w.frags, utvec := w.utvec, pend := w.pend.filter fun e => e.req == 0
                           taken := me.taken, logLen := p.log.length, steps := me.steps + 1, open_ := true } })
        ∧ (∀ i sub, (i, sub) ∈ [(Instr.rbeg f, 2), (.rchk f, 3), (.rend f, 3)] → begins i → me.open_ = (sub == 2) → FragsOk x.w → x.w.utvec ≠ 0 →
            (∀ l ∈ x.act, (x.w.lane l).inHandler = false) → Ends s i x fun t w => t.mem = s.mem ∧ w.v = x.w.v ∧ w.s = x.w.s ∧ w.m = x.w.m
              ∧ ∀ l ∈ x.act, w.lane l = { x.w.lane l with
                  st := .running, inHandler := true, pc := x.w.utvec.toNat, ucause := 0x0C + sub * 256, uepc := BitVec.ofNat 32 x.at_, frag := (w.lane l).frag })
        ∧ ∀ i m, (i, m) ∈ [(Instr.rchk f, Meet.rchk), (.rend f, .rend)] → begins i → me.open_ = true →
            (me.meet = .none → ∀ w, find x.wk s.warps = some w → ∃ t q, exec i s = .next t ∧ t = { s with nodes := t.nodes, warps := t.warps, meets := s.meets + 1 }
              ∧ t.pairAt x.nk x.w.idx = some q ∧ q = { p with copies := both { me with
                  chunks := me.chunks ++ [(me.sig, me.cnt)], sig := 0, cnt := 0, meet := m } }
              ∧ find x.wk t.warps = some { w with v := x.w.v, s := x.w.s } ∧ ∀ e, e ≠ x.wk → find e t.warps = find e s.warps)
            ∧ (me.meet ≠ .none → me.pass = false → exec i s = .next s)
            ∧ (me.meet ≠ .none → me.pass = true → Ends s i x fun t w => goesOn t w
                ∧ ∃ q, t.pairAt x.nk x.w.idx = some q ∧ q.copies = both { me with meet := .none, pass := false, open_ := decide (m = .rchk) }))
  ∧ (∀ (s t : State) (nk idx : Nat), s.inputs = [] → s.memEvent = none → s.redPairs = [(nk, idx)] → s.compare nk idx = some t → step s = .next (s.track t))
  ∧ ∀ (s : State) (nk : Nat) (n : Node) (p : Pair) (a b : CopySt) (wa wb : Warp), find nk s.nodes = some n → n.pair p.idx = some p → p.copies = [a, b] → a.warp ≠ b.warp →
      find a.warp s.warps = some wa → find b.warp s.warps = some wb → wa.copy = 0 → wb.copy = 1 → a.struck = false → b.struck = false →
      s.pairMates nk p.idx = [(nk, p.idx)] →
      let i := p.decided
      (∀ c, a.chunks[i]? = some c → b.chunks[i]? = some c → ∃ t, s.compare nk p.idx = some t
        ∧ t = { s with held := s.held ++ (a.buf.filter fun e => e.1 == i).map (·.2), nodes := t.nodes }
        ∧ t.pairAt nk p.idx = some { p with decided := i + 1, copies := [a, b].map fun c => { c with buf := c.buf.filter fun e => e.1 != i } })
      ∧ (∀ ca cb, a.chunks[i]? = some ca → b.chunks[i]? = some cb → ca ≠ cb →
          (∀ ka kb, p.mismatch = 0 → p.writes = [] → a.ck = some ka → b.ck = some kb → ∃ t q wa' wb', s.compare nk p.idx = some t
            ∧ t.held = s.held ∧ t.mem = s.mem ∧ find a.warp t.warps = some wa' ∧ find b.warp t.warps = some wb'
            ∧ (wa'.v = ka.v ∧ wa'.s = ka.s ∧ wa'.m = ka.m ∧ wa'.lanes = ka.lanes ∧ wa'.frags = ka.frags ∧ wa'.pend = ka.pend)
            ∧ (wb'.v = kb.v ∧ wb'.s = kb.s ∧ wb'.m = kb.m ∧ wb'.lanes = kb.lanes ∧ wb'.frags = kb.frags ∧ wb'.pend = kb.pend)
            ∧ t.pairAt nk p.idx = some q ∧ q.mismatch = 1 ∧ q.once = p.once ∧ q.decided = 0 ∧ ∀ c ∈ q.copies, c.buf = [] ∧ c.chunks = [] ∧ c.meet = .none)
          ∧ (p.mismatch ≠ 0 → s.compare nk p.idx = s.startThird nk p.idx))
      ∧ ∀ m pa pb, m = .rchk ∨ m = .rend → a.meet = m → b.meet = m → a.pass = false → b.pass = false → a.chunks.length ≤ i → b.chunks.length ≤ i →
          wa.suspended = none → wb.suspended = none → (∀ e ∈ wa.pend, e.req = 0) → (∀ e ∈ wb.pend, e.req = 0) → wa.issuePc = some pa → wb.issuePc = some pb →
          ∃ t q, s.compare nk p.idx = some t ∧ t.held = s.held ∧ t.mem = s.mem ∧ find a.warp t.warps = some wa ∧ find b.warp t.warps = some wb
            ∧ t.pairAt nk p.idx = some q ∧ q.once = [] ∧ q.writes = [] ∧ q.decided = 0 ∧ q.mismatch = 0
            ∧ ∃ ca cb ka kb, q.copies = [ca, cb] ∧ ca.ck = some ka ∧ cb.ck = some kb
              ∧ (∀ c ∈ [ca, cb], c.pass = true ∧ c.meet = m ∧ c.buf = [] ∧ c.chunks = [] ∧ c.undo = [])
              ∧ (ka.v = wa.v ∧ ka.s = wa.s ∧ ka.m = wa.m ∧ ka.lanes = (wa.advance pa 8).lanes ∧ ka.frags = wa.frags ∧ ka.open_ = (decide (m = .rchk) && a.open_))
              ∧ (kb.v = wb.v ∧ kb.s = wb.s ∧ kb.m = wb.m ∧ kb.lanes = (wb.advance pb 8).lanes ∧ kb.frags = wb.frags ∧ kb.open_ = (decide (m = .rchk) && b.open_))

/-! ### Collectives -/

/-- 21 R409–R416, R418, R419, 12 R297: what Sluice does with a collective: the comparison of parameters and its start, the trees, the reduction of a chunk, a chunk
that completes with the bytes it writes and its mark, data of another EPOCH, the end in the final exchange, the delivery of an all-to-all block, and the new trees after a settling.
(Chunks and marks are log entry 48, what other devices bring log entry 49.) -/
def Obligations.Collectives : Prop :=
  (∀ (s : State) (c : Cmd) (k : Coll) (peers : List CollParams), Working s c → c.coll = some k → k.agreed = false → k.running = false → k.inbox = [] →
    s.drainRound = 4 → s.commFree c k = true → (∀ r ∈ k.others, ∃ q ∈ peers, q.rank = r) →
    let alike := ∀ r ∈ k.others, { k.params with rank := r } ∈ peers
    (¬alike → ∃ t, exec (.collStart c.id peers) s = .next t ∧ Completes s c 3 t)
    ∧ (alike → treesOf k.members (s.memberEdges k.members) = [] → ∃ t, exec (.collStart c.id peers) s = .next t ∧ Completes s c 5 t)
    ∧ ∀ ps qs : List Piece, alike → treesOf k.members (s.memberEdges k.members) ≠ [] → k.fn ≠ 3 → 0 < k.chunks → k.awaiting k.chunks → s.passes c true k.marka k.chunks ps →
        let u := s.wrPieces ps (List.replicate k.chunks 0)
        u.passes c true (k.comm + 16) 4 qs → Clear c ps → Clear c qs → (piecesAddrs ps).length = k.chunks → (piecesAddrs qs).length = 4 →
        (∀ a ∈ piecesAddrs ps, a ∉ piecesAddrs qs) →
        ∃ t, exec (.collStart c.id peers) s = .next t ∧ t.bytesAt ps = List.replicate k.chunks 0 ∧ t.bytesAt qs = [0, 0, 0, 0]
          ∧ Going t c fun j => j = { k with agreed := true, running := true, edges := s.memberEdges k.members, deadEdges := [], epoch := 0, marks := [], seen := s.settlings })
  ∧ (∀ (ms : List Nat) (es : List Edge) (i : Nat) (t : Tree8), (treesOf ms es)[i]? = some t →
      i < 8 ∧ t.root = ms.getD (i % ms.length) 0
      ∧ (∀ m ∈ ms, m = t.root ∨ ∃ u e, (u, m, e) ∈ t.kids)
      ∧ (∀ u v e, (u, v, e) ∈ t.kids → e ∈ es ∧ (e = (u, e.2.1, v, e.2.2.2) ∨ e = (v, e.2.1, u, e.2.2.2)))
      ∧ ∀ j t', j ≠ i → (treesOf ms es)[j]? = some t' → ∀ x ∈ t.kids, ∀ y ∈ t'.kids, x.2.2 ≠ y.2.2)
  ∧ (∀ (k : Coll) (i : Nat) (t : Tree8) (val : Nat → List Nat), (treesOf k.members k.edges)[i]? = some t → k.members.Nodup →
      let op := zipOp k.dt k.red
      (k.det = true → ∀ d ds, k.members = d :: ds → reduceChunk k t val = ds.foldl (fun x d => op x (val d)) (val d))
      ∧ (k.det = false → ∀ up : Nat → List Nat,
          (∀ u, up u = match (t.children k.members u).map up with | [] => val u | x :: xs => op (xs.foldl op x) (val u)) →
          reduceChunk k t val = up t.root)
      ∧ ∀ u, (t.children k.members u).Pairwise (· < ·))
  ∧ (∀ a b : Nat, a < 2 ^ 32 → b < 2 ^ 32 → collOp 0 0 a b = (fpAdd lay32 .rne (num32 a) (num32 b)).1 ∧ collOp 5 0 a b = (a + b) % 2 ^ 32
      ∧ collOp 5 1 a b = (if (BitVec.ofNat 32 a).toInt < (BitVec.ofNat 32 b).toInt then b else a)
      ∧ collOp 5 2 a b = (if (BitVec.ofNat 32 b).toInt < (BitVec.ofNat 32 a).toInt then b else a))
  ∧ (∀ (s : State) (c : Cmd) (k : Coll) (i : Nat) (tr : Tree8) (ins : List ChunkIn) (got : Nat → List Byte) (sp rp : List Piece) (q : Piece),
      Working s c → c.coll = some k → k.agreed = true → k.running = true → k.fn < 3 → k.inbox = [] → s.calm k → i < k.chunks → i ∉ k.marks →
      (∀ j, j < k.chunks → j = i ∨ j ∈ k.marks ∨ ∃ r ∈ k.others, k.share j r ≠ 0) →
      k.tree i = some tr → (∀ e ∈ tr.kids, e.2.2 ∈ s.memberEdges k.members ∧ e.2.2 ∉ k.deadEdges) →
      (∀ r ∈ k.others, (⟨r, i, got r, k.epoch⟩ : ChunkIn) ∈ ins ∧ (got r).length = k.share i r) →
      (∀ n ∈ ins, n.chunk = i ∧ n.rank ∈ k.others ∧ n.data = got n.rank ∧ n.epoch = k.epoch) →
      let lo := (k.range i).1
      let hi := (k.range i).2
      let cut := k.overlap i k.rank
      let from_ := if k.fn = 2 then k.send + (cut.1 - k.rank * k.block) else k.send + lo
      let len := if k.fn = 2 then cut.2 - cut.1 else hi - lo
      let own := s.rdPieces sp
      let val := fun d => elemsOf k.dt (if d = k.members.getD k.rank 0 then own else got (k.members.idxOf d))
      let all := bytesOf k.dt (reduceChunk k tr val)
      let out := if k.fn = 0 then all else if k.fn = 2 then (List.range k.p).flatMap fun r => if r = k.rank then own else got r
        else (all.drop (cut.1 - lo)).take (cut.2 - cut.1)
      let dst := if k.fn = 1 then k.recv + (cut.1 - k.rank * k.block) else k.recv + lo
      (k.fn ≠ 2 → k.members.length = k.p ∧ k.members.Nodup ∧ k.rank < k.p) → s.passes c false from_ len sp → (∀ p ∈ sp, s.poisonedMem p.pa p.n = false) →
      s.passes c true dst out.length rp → Clear c rp → (piecesAddrs rp).length = out.length →
      (if out = [] then s else s.wrPieces rp out).passes c true ((k.marka + i) % 2 ^ 64) 1 [q] → Clear c [q] → q.n = 1 → (∀ a ∈ piecesAddrs rp, a ∉ piecesAddrs [q]) →
      ∀ peers, ∃ t, exec (.collComplete c.id ins peers) s = .next t ∧ t.bytesAt rp = out ∧ t.bytesAt [q] = [1]
        ∧ ((∀ j, j < k.chunks → j = i ∨ j ∈ k.marks) → (∀ r ∈ k.others, ∃ q ∈ peers, k.showsAll q r) → Completes s c 0 t)
        ∧ ((∃ j, j < k.chunks ∧ j ≠ i ∧ j ∉ k.marks) ∨ (∃ r ∈ k.others, ∀ q ∈ k.shown ++ peers, ¬k.showsAll q r) →
            Going t c fun j => j.marks = k.marks ++ [i] ∧ j.inbox = [] ∧ j.epoch = k.epoch))
  ∧ (∀ (s : State) (c : Cmd) (k : Coll) (q : ChunkIn), Working s c → c.coll = some k → k.agreed = true → k.running = true → k.fn < 3 → k.inbox = [] → k.shown = [] →
      s.calm k → k.others ≠ [] → k.awaiting k.chunks →
      (q.epoch < k.epoch → ∃ t, exec (.collComplete c.id [q] []) s = .next t ∧ t.mem = s.mem ∧ Going t c fun j => j = k)
      ∧ (k.epoch < q.epoch → q.chunk < k.chunks → q.rank ∈ k.others → ∃ t, exec (.collComplete c.id [q] []) s = .next t ∧ t.mem = s.mem
          ∧ Going t c fun j => j = { k with silent := put 0 q.rank 0 k.silent, inbox := [q] }))
  ∧ (∀ (s : State) (c : Cmd) (k : Coll) (peers : List PeerMarks) (ps : List Piece), Working s c → c.coll = some k → k.agreed = true → k.running = true → k.fn = 3 →
      k.blocks = [] → k.shown = [] → s.calm k → k.rank ∈ k.marks → (∀ j, j < k.chunks → j ∈ k.marks) → (∀ r ∈ k.others, ∃ q ∈ peers, k.showsAll q r) →
      let out := (List.range k.p).flatMap fun r => leBytes 4 (getD 0 k.delivered r)
      s.passes c true k.dlva (4 * k.p) ps → Clear c ps → (piecesAddrs ps).length = 4 * k.p → ∃ t, exec (.collComplete c.id [] peers) s = .next t ∧ t.bytesAt ps = out
        ∧ (k.refused = false → (∀ q ∈ peers, q.refused = false) → Completes s c 0 t)
        ∧ (k.refused = true ∨ (∃ q ∈ peers, q.rank ∈ k.others ∧ q.epoch = k.epoch ∧ q.refused = true) → Completes s c 7 t))
  ∧ (∀ (s : State) (c : Cmd) (k : Coll) (src : Nat) (data : List Byte) (q : Piece), Working s c → c.coll = some k → k.agreed = true → k.running = true → k.fn = 3 →
      k.det = false → s.calm k → k.blocks = [] → src ∈ k.others → src ∉ k.marks → k.rank ∈ k.marks → 1 ≤ k.p → data.length % 2 ^ k.rowlg = 0 →
      s.treeAlive k src = true → ((∃ j, j < k.chunks ∧ j ≠ src ∧ j ∉ k.marks) ∨ ∃ r ∈ k.others, ∀ q ∈ k.shown, ¬k.showsAll q r) →
      s.passes c true ((k.marka + src) % 2 ^ 64) 1 [q] →
      let tbl := k.recv / 2 ^ 50
      let n := data.length / 2 ^ k.rowlg
      let ends := fun (u : State) (m : Nat) (refused : Bool) => u.passes c true ((k.marka + src) % 2 ^ 64) 1 [q] → q.n = 1 → q.pa < linkBase →
        ∃ t, exec (.atoaBlockDelivery c.id src ⟨data, k.epoch⟩) s = .next t ∧ t.bytesAt [q] = [1] ∧ t.tableOf c.ctx tbl = u.tableOf c.ctx tbl
          ∧ (∀ a, a / 32 ≠ q.pa / 32 → memGet t.mem a = memGet u.mem a)
          ∧ Going t c fun j => j.marks = k.marks ++ [src] ∧ find src j.delivered = some m ∧ j.refused = (k.refused || refused) ∧ j.blocks = []
      (n = 0 → ends s 0 false)
      ∧ (∀ u, 0 < n → s.reserveSeq c.ctx c.node tbl n = (u, none) → ends u 0 true)
      ∧ ∀ u p (ps : Nat → List Piece), 0 < n → s.reserveSeq c.ctx c.node tbl n = (u, some p) →
          (∀ j, j < n → u.passes c true (tbl * 2 ^ 50 + (u.tableOf c.ctx tbl).posOff (p + j)) (2 ^ k.rowlg) (ps j)) →
          ends ((u.wrPieces ((List.range n).flatMap ps) data).updTable c.ctx tbl fun tb => tb.mark p n .committed) n false)
  ∧ ∀ (s : State) (c : Cmd) (k : Coll) (peers : List PeerDigest), Working s c → c.coll = some k → k.agreed = true → k.running = true → k.fn ≠ 3 → k.inbox = [] → k.shown = [] →
      k.digests = [] → k.adopt = none → s.drainRound = 4 → k.seen < s.settlings → k.others ≠ [] → k.awaiting k.chunks →
      let es := s.memberEdges k.members
      let quiet := fun r => (if (∃ q ∈ peers, q.rank = r) then 0 else getD 0 k.silent r) + 1
      let same := ∀ r ∈ k.others, ∃ q ∈ peers, q.rank = r ∧ q.digest = s.collDigest k
      let run := fun t => exec (.treeRecompute c.id peers) s = .next t
      (treesOf k.members es = [] ∨ (∃ r ∈ k.others, 16 ≤ quiet r) → ∃ t, run t ∧ Completes s c 5 t)
      ∧ (treesOf k.members es ≠ [] → (∀ r ∈ k.others, quiet r < 16) →
          (¬same → ∃ t, run t ∧ t.mem = s.mem ∧ Going t c fun j => j = { k with seen := s.settlings, asked := some (s.collDigest k, es), silent := j.silent, digests := j.digests }
            ∧ ∀ r ∈ k.others, getD 0 j.silent r = quiet r)
          ∧ ∀ ps, same → s.passes c true (k.comm + 16) 4 ps →
              let keep := k.marks.filter fun i => k.others.all fun r => peers.any fun q => q.rank == r && q.marks.contains i
              let again := (List.range k.chunks).filter fun i => !keep.contains i
              let u := s.wrPieces ps (leBytes 4 (k.epoch + 1))
              let adopted := fun (j : Coll) => j.edges = es ∧ j.deadEdges = [] ∧ j.epoch = k.epoch + 1 ∧ j.marks = keep ∧ j.inbox = [] ∧ j.adopt = none ∧ j.asked = none
              ((again = [] → Clear c ps → (piecesAddrs ps).length = 4 → ∃ t, run t ∧ t.bytesAt ps = leBytes 4 (k.epoch + 1) ∧ Going t c adopted)
              ∧ ∀ i q, again = [i] → u.passes c true ((k.marka + i) % 2 ^ 64) 1 [q] → q.n = 1 → Clear c ps → Clear c [q] → (piecesAddrs ps).length = 4 →
                  (∀ a ∈ piecesAddrs ps, a ∉ piecesAddrs [q]) → ∃ t, run t ∧ t.bytesAt ps = leBytes 4 (k.epoch + 1) ∧ t.bytesAt [q] = [0] ∧ Going t c adopted))

/-! ### Launches and nodes -/

/-- 17 R329–R340, 01 R13–R15, R44, 05 R112, 23 R423: what Saltern does with launches and nodes: a submission position is skipped, rejected with the first check that fails, or accepted; a die reports; an
entry rises, is placed and starts with its warps and partition, or blocks the pool; and a node with nothing left to do is done and releases its successors.
(The model's choices here are log entries 51 to 55.) -/
def Obligations.LaunchesAndNodes : Prop :=
  (∀ (s : State) (ck : Nat) (tb : Table), find 3 (s.ctx ck).tables = some tb →
    let c := s.ctx ck
    let p := c.subPos
    let run := fun t => exec (.launchAccept ck) s = .next t
    let taken := s.setCtx ck { c with subPos := p + 1, subLvl := erase p c.subLvl }
    let rejected := fun (tag reason node : Nat) => ∃ t, run t ∧ Recorded s t ck (leBytes 64 (2 + reason * 2 ^ 8 + c.nextLaunch * 2 ^ 64 + tag * 2 ^ 96 + node * 2 ^ 128))
      ∧ (t.ctx ck).nextLaunch = c.nextLaunch + 1 ∧ (t.ctx ck).subPos = p + 1 ∧ t.nodes = s.nodes ∧ t.launches = s.launches ∧ t.warps = s.warps
    let stale := tb.desc.win ≠ 0 ∧ tb.desc.sink ≤ p ∧ p + tb.desc.win < tb.r
    (tb.c ≤ p → run s)
    ∧ (p < tb.c → tb.posSt p = some .void → run taken)
    ∧ (p < tb.c → tb.posSt p ≠ some .void → stale → rejected 0 0x0A 0)
    ∧ (p < tb.c → tb.posSt p ≠ some .void → ¬stale → taken.slotRuns c tb (tb.posOff p) 64 = none → rejected 0 1 0)
    ∧ ∀ rs, p < tb.c → tb.posSt p ≠ some .void → ¬stale → taken.slotRuns c tb (tb.posOff p) 64 = some rs →
        let g := Graph.ofNat (ofLe (taken.rdRuns rs))
        let lvl := getD 0 c.subLvl p
        (∀ r i, taken.readLaunch ck g = .error (r, i) → rejected g.tag r i)
        ∧ (g.nnodes = 0 ∨ 65536 < g.nnodes → rejected g.tag 1 0)
        ∧ ∀ x, taken.readLaunch ck g = .ok x →
            (∀ r i, taken.launchFault ck x lvl = some (r, i) → rejected g.tag r i)
            ∧ (taken.launchFault ck x lvl = none → ∃ t, run t
                ∧ (t.ctx ck).nextLaunch = c.nextLaunch + 1 ∧ (t.ctx ck).subPos = p + 1
                ∧ (∃ l, find s.nextId t.launches = some l ∧ l.ctx = ck ∧ l.id = c.nextLaunch ∧ l.tag = g.tag ∧ l.pdl = (if g.pdl = 0 then 65536 else g.pdl)
                    ∧ l.codesz = g.codesz ∧ l.codeOff = g.codea % 8192 ∧ l.groups = x.groups.map (·.group)
                    ∧ l.nodes = (List.range x.nodes.length).map fun i => s.nextId + 1 + i)
                ∧ (∀ i e, x.nodes[i]? = some e → find (s.nextId + 1 + i) t.nodes = some { ctx := ck, launch := s.nextId, idx := i, desc := e.desc, pending := e.desc.pred, st := if e.desc.pred = 0 then .ready else .waiting, level := if e.desc.pred = 0 then e.desc.prio else 0, entered := if e.desc.pred = 0 then s.hub else 0 })
                ∧ (∀ k, k ≤ s.nextId ∨ s.nextId + x.nodes.length < k → find k t.nodes = find k s.nodes) ∧ t.warps = s.warps
                ∧ ∀ b : Nat → Byte, (∀ k, k < g.codesz → ∀ m : Memory, (∀ a, a < 2 ^ 100 → memGet m a = memGet s.mem a) →
                      ∃ pa a, State.translate { taken with mem := m } ck none 0 (g.codea + k) = .ok pa a ∧ State.rdByte { taken with mem := m } a.tag pa = b k) →
                    ∀ k, k < g.codesz → memGet t.mem (codeBase s.nextId + k) = b k))
  ∧ (∀ (s : State) (ck : Nat) (x : LaunchIn) (lvl : Nat),
      let ns := x.nodes
      let g := x.g
      let at_ := fun (q : NodeIn → Prop) (i : Nat) => ∃ n, ns[i]? = some n ∧ q n
      let edge := fun a b => ∃ n, ns[a]? = some n ∧ b ∈ n.desc.succ
      let graph := fun (q : Prop) (i : Nat) => i = 0 ∧ q
      let checks : List (Nat × (Nat → Prop)) :=
        [(1, graph (g.codesz % 32 ≠ 0 ∨ g.codesz < 32 ∨ 2 ^ 32 - 32 < g.codesz ∨ g.pdl ≠ 0 ∧ (g.pdl < 1024 ∨ 2 ^ 24 < g.pdl))), (1, at_ fun n => n.limit = true),
         (2, graph (g.rsvd = true)), (2, at_ fun n => n.rsvd = true), (2, graph (∃ e ∈ x.groups, e.rsvd = true)),
         (3, at_ fun n => lvl < n.desc.lvl),
         (4, fun i => at_ (fun n => n.desc.pred ≠ (ns.map fun m => (m.desc.succ.filter (· == i)).length).sum) i),
         (5, fun i => at_ (fun _ => True) i ∧ Relation.TransGen edge i i),
         (6, fun i => ∃ a e b, x.groups = a ++ e :: b ∧ (∀ d ∈ a, groupBad ns x.groups d = false) ∧ groupBad ns x.groups e = true
            ∧ i = (e.group.members.map (·.1)).foldl min ((e.group.members.map (·.1)).headD 0)),
         (7, at_ fun n => castBad n.desc = true),
         (8, fun i => at_ (fun _ => True) i ∧ s.noFit ck ns (x.groups.map (·.group)) i = true),
         (9, fun i => g.dbg = true ∧ ∃ a b j, ns[i]? = some a ∧ ns[j]? = some b ∧ i < j ∧ races a.desc b.desc = true ∧ ¬Relation.TransGen edge i j ∧ ¬Relation.TransGen edge j i)]
      (∀ (k code : Nat) (bad : Nat → Prop) (i : Nat), checks[k]? = some (code, bad) → (∀ (j : Nat) (q : Nat × (Nat → Prop)), j < k → checks[j]? = some q → ∀ i, ¬q.2 i) → bad i → (∀ j, j < i → ¬bad j) →
        s.launchFault ck x lvl = some (code, i))
      ∧ ((∀ q : Nat × (Nat → Prop), q ∈ checks → ∀ i, ¬q.2 i) → s.launchFault ck x lvl = none))
  ∧ (∀ (s : State) (d : Nat), exec (.resourceReport d) s = .next { s with views := insert d ((s.dieCounts d).map (·.1)) s.views }
      ∧ (s.nodes = [] → ∀ c ∈ s.dieCounts d, c.1 = c.2))
  ∧ (∀ (s : State) (n : Nat), let find_ := s.pool.find? fun e => e.keys.contains n
      (∀ e, find_ = some e → e.level < 7 → e.entered + s.settings.starve ≤ s.hub → exec (.starvePromotion n) s = .next { s with
        nodes := s.nodes.map fun q => if q.1 ∈ e.keys then (q.1, { q.2 with level := e.level + 1, entered := s.hub }) else q })
      ∧ (∀ e, find_ = some e → 7 ≤ e.level ∨ s.hub < e.entered + s.settings.starve → exec (.starvePromotion n) s = .next s))
  ∧ (∀ (s u : State) (gs : List Group) (k : Nat) (n : Node), s.placeEntry true gs [k] = some u → find k s.nodes = some n → n.desc.red = false → (∀ g ∈ gs, g.win = false) →
      let free := fun v b => n.desc.scr = 0 ∨ s.runsFree v b n.desc.scr = true
      (∀ v, s.fits true n v = true ↔ s.roomOn n v = true ∧ s.worldOk n.ctx v = true ∧ ∃ b, free v b)
      ∧ ∃ (c : Nat) (bank : Nat → Nat), let us := ((if n.desc.pan then stackUnits c else clusterUnits c).filter (s.fits true n)).take n.desc.c
          (if n.desc.pan then c < 8 else c < 96) ∧ us.length = n.desc.c ∧ (∀ v ∈ us, free v (bank v) ∧ ∀ j, j < bank v → ¬free v j)
          ∧ u = { s with nodes := insert k { n with units := us, units2 := [], units3 := [], banks := us.map fun v => (v, bank v), st := .running } s.nodes })
  ∧ (∀ (s u : State) (back : Bool) (e : PoolEntry) (k : Nat) (n m : Node) (l : Launch),
      (s.hub < s.nextDispatch → exec (.nodeDispatch back) s = .next s)
      ∧ (s.nextDispatch ≤ s.hub → s.dispatchable back = none → exec (.nodeDispatch back) s = .next s)
      ∧ (s.nextDispatch ≤ s.hub → s.dispatchable back = some (e, u) → e.keys = [k] → find k s.nodes = some n → n.st = .ready → find k u.nodes = some m → m.ctx = n.ctx →
          find m.launch s.launches = some l → m.desc.red = false → m.units2 = [] → m.units3 = [] → m.units.Nodup →
          (∀ v ∈ m.units, m.bankOn v + m.desc.scr ≤ 16 ∧ (m.desc.pan = true ↔ Config.cores ≤ v)) →
          ∃ t n', exec (.nodeDispatch back) s = .next t ∧ find k t.nodes = some n' ∧ n' = { m with
              st := .running, blocked := false, slots := n'.slots, tiles := [], tcfg := [], decomp := [], pairs := [], pre := none, slack := s.settings.rslack }
            ∧ t.nextDispatch = s.hub + 1 ∧ (t.ctx n.ctx).dispatched = true
            ∧ (∀ i, i < ceilDiv m.desc.l 32 → ∃ wk w, find wk t.warps = some w ∧ w.node = k ∧ w.idx = i ∧ w.unit = m.units.getD (i / max 1 m.desc.w) 0 ∧ w.role = .warp ∧ w.copy = 0
                ∧ w.agelim = m.desc.age ∧ w.stop = .running ∧ w.frags = [] ∧ w.utvec = 0
                ∧ (∀ j, j < 32 → w.lane j = if 32 * i + j < m.desc.l then { pc := m.desc.entry } else { st := .never })
                ∧ (∀ r, w.sreg r = if 1 ≤ r then (m.desc.params.getD (r - 1) 0).toNat else 0) ∧ (∀ r j, w.vreg r j = 0) ∧ ∀ r, w.mreg r = 0)
            ∧ ∀ v ∈ m.units, ∀ o, m.partBase v ≤ o → o < m.partBase v + m.partSize → t.feBit v o = false
                ∧ t.spByte v o = (if find (v * 16 + o / runBytes v) s.runOwner = some n.ctx then s.spByte v o else 0)
                ∧ find (v * 16 + o / runBytes v) t.runOwner = some n.ctx))
  ∧ (∀ (s : State) (h : PoolEntry),
      let placed := (s.headPlaced h).nodes
      let saved := ∀ k ∈ h.keys, ∀ n, find k s.nodes = some n → n.st = .saved
      let alone : State := { s with nodes := s.nodes.filter fun e => h.keys.contains e.1 }
      (s.headStarved = none → exec .headBlocked s = .next s)
      ∧ (s.headStarved = some h → s.headVictims h = [] → exec .headBlocked s = .next { s with nodes := placed })
      ∧ (∀ v n, s.headStarved = some h → s.headVictims h = [v] → s.entryOf v = [v] → v ∉ h.keys → find v s.nodes = some n → n.st = .running → n.pre = none →
          ∃ t, exec .headBlocked s = .next t ∧ Asked s t v n {} ∧ ∀ k, k ∈ h.keys → find k t.nodes = find k placed)
      ∧ (∀ k, k ∉ h.keys → find k placed = find k s.nodes)
      ∧ ∀ k n, k ∈ h.keys → find k s.nodes = some n → ∃ m, find k placed = some m ∧ m.blocked = true ∧ m.st = n.st ∧ (saved → m = { n with blocked := true })
          ∧ ∀ u q, ¬saved → alone.placeEntry true (s.entryGroups h) h.keys = some u → find k u.nodes = some q → m = { q with st := n.st, blocked := true })
  ∧ (∀ (s : State) (k : Nat) (n : Node) (l : Launch), find k s.nodes = some n → find n.launch s.launches = some l → n.st = .running → n.pre = none →
      let mine := (∀ e ∈ s.warps, e.2.node ≠ k) ∧ (∀ e ∈ s.deques, ∀ t ∈ e.2, t.node ≠ k) ∧ (∀ c ∈ s.cmds, c.node ≠ k)
        ∧ (∀ r ∈ s.held ++ s.atomQ ++ s.rakeQ, r.node ≠ k) ∧ n.openForks = 0
      (¬mine → exec (.nodeRetire k) s = .next s)
      ∧ (mine → n.desc.succ.Nodup → l.nodes.Nodup → n.idx ∉ n.desc.succ → l.nodes[n.idx]? = some k → ∃ t l', exec (.nodeRetire k) s = .next t ∧ find k t.nodes = some { n with st := .done, savedCmds := [], savedTasks := [], pairs := [] }
          ∧ find n.launch t.launches = some l' ∧ l' = { l with doneN := l.doneN + 1, closed := l'.closed }
          ∧ (∀ i j m, i ∈ n.desc.succ → l.nodes[i]? = some j → find j s.nodes = some m → find j t.nodes = some (
              if m.pending ≤ 1 ∧ m.st = .waiting then { m with pending := m.pending - 1, st := .ready, level := m.desc.prio, entered := s.hub, blocked := false }
              else { m with pending := m.pending - 1 }))
          ∧ ((∀ j ∈ l.nodes, ∀ m, find j s.nodes = some m → j = k ∨ m.st.final = true) → l.failN = 0 → l.ctx = n.ctx → l.closed = false → n.savedCmds = [] →
              s.launchOut n.launch l = false → l'.closed = true ∧ Recorded s t l.ctx (completionRec l' 0 l.reason (l.firstFail.getD 0)))))
  ∧ (∀ (s : State) (lk : Nat) (l : Launch), find lk s.launches = some l →
      let out := (∃ r ∈ s.held ++ s.atomQ ++ s.rakeQ, r.node ∈ l.nodes) ∨ ∃ c ∈ s.cmds, c.launch = lk
      let final := ∀ k ∈ l.nodes, ∀ m, find k s.nodes = some m → m.st.final = true
      (l.closed = true ∨ ¬final ∨ out → s.closeLaunch lk = s)
      ∧ (l.closed = false → final → ¬out → find lk (s.closeLaunch lk).launches = some { l with closed := true }
          ∧ Recorded s (s.closeLaunch lk) l.ctx (completionRec l (if l.failN = 0 then 0 else 1) l.reason (l.firstFail.getD 0))))
  ∧ ∀ (s : State) (k r c b : Nat) (n : Node) (l : Launch), find k s.nodes = some n → n.st.final = false → find n.launch s.launches = some l → n.pre = none → l.firstFail = none →
      let t := s.killNode k r c b
      find k t.nodes = some { n with st := .failed, savedCmds := [], savedTasks := [], pairs := [] } ∧ (∀ e ∈ t.warps, e.2.node ≠ k)
      ∧ (∃ l', find n.launch t.launches = some l' ∧ l'.failN = l.failN + 1 ∧ l'.firstFail = some n.idx ∧ l'.reason = r ∧ l'.cause = c ∧ l'.sub = b)
      ∧ ∀ i j m, i ∈ n.desc.succ → l.nodes[i]? = some j → j ≠ k → find j s.nodes = some m → m.st.final = false →
          ∃ m', find j t.nodes = some m' ∧ m'.st = .cancelled

/-- 17 R342–R347, 16 R317–R319, R322, 12 R304: pre-emption: a request reaches a node's warps; warps whose count is 0 stop; the area of a stopped node is written, in the layout of the save area; the save is
committed and recorded; a saved node resumes, or its partition moves; and what `CTXS` and `CTXL` do.
(The model's choices here are log entries 22, 56 to 59 and 62.) -/
def Obligations.PreemptionAndSaving : Prop :=
  (∀ (s : State) (k : Nat) (n : Node), s.entryOf k = [k] → find k s.nodes = some n →
    (n.st = .running → n.pre = none → ∃ t, exec (.preemptRequest k none) s = .next t ∧ Asked s t k n {} ∧ t = { s with nodes := t.nodes, warps := t.warps })
    ∧ (n.st ≠ .running ∨ n.pre ≠ none → exec (.preemptRequest k none) s = .next s))
  ∧ (∀ (s : State) (c : Cmd) (f : SysF) (m : Nat), Served s c → c.instr = .ctxs f → c.ready = false → (∀ q ∈ s.cmds, isCtxs q.instr = true → q.a = c.a → q = c) →
      let run := fun t => exec (.preemptRequest m (some c.a)) s = .next t
      let node := s.selNode c.ctx c.b
      (c.aborted = true → ∃ t, run t ∧ Completes s c 8 t)
      ∧ (c.aborted = false → node = none → ∃ t, run t ∧ Completes s c 3 t)
      ∧ (∀ k n, c.aborted = false → node = some (k, n) → s.rangeOk c true c.a (areaSize n) = false → ∃ t, run t ∧ Completes s c 3 t)
      ∧ (∀ k n, c.aborted = false → node = some (k, n) → s.rangeOk c true c.a (areaSize n) = true → n.st = .running → n.pre = none → s.entryOf k = [k] →
          ∃ t, run t ∧ Asked s t k n { area := some c.a, ctx := c.ctx, done := some c.donePa, doneTag := c.doneTag }
            ∧ t.cmds = s.cmds.map fun q => if q.id = c.id then { c with ready := true } else q)
      ∧ (∀ k n, c.aborted = false → node = some (k, n) → s.rangeOk c true c.a (areaSize n) = true → n.st = .saved →
          ∃ t, run t ∧ (∃ u : State, u.cmds = s.cmds ∧ Completes u c 0 t) ∧ find k t.nodes = some { n with areaWord := some n.placeWord, area := some (c.a, c.ctx) }))
  ∧ (∀ (s : State) (u : Nat), (s.warps.map (·.1)).Nodup → ∃ t, exec (.forcedStop u) s = .next t
      ∧ ∀ k w, find k s.warps = some w →
        let halted := ∃ kind q v, w.role = .seq kind q ∧ find q s.warps = some v ∧ v.stop ≠ .running
        let stops := w.unit = u ∧ (w.preq = true ∧ w.pdleft = 0 ∨ halted) ∧ w.stop = .running
          ∧ ∀ here others, s.copyPlaces w = some (here, others) → ∀ o ∈ others, o ≤ here
        (¬stops → find k t.warps = some w)
        ∧ (stops → (∀ p ∈ s.fePend, p.who.warp = k → p.got ≠ none) → find k t.warps = some { w with stop := .forced })
        ∧ (stops → w.lanes.length = 32 → ∃ w', find k t.warps = some w' ∧ w' = { w with stop := .forced, lanes := w'.lanes, pend := w'.pend }
            ∧ (∀ p, p ∈ t.fePend → p.who.warp = k → p ∈ s.fePend ∧ p.got ≠ none)
            ∧ ∀ a p b, s.fePend = a ++ p :: b → p.who.warp = k → p.got = none → (∀ q ∈ a, q.who = p.who → q.got ≠ none) → p.who.lane < 32 →
                let y := w.lane p.who.lane
                y.st ≠ .exited → y.st ≠ .never → w'.lane p.who.lane = if y.st = .waiting then { y with st := .running, wait := .none, pc := p.at_ } else { y with pc := p.at_ }))
  ∧ (∀ (s : State) (k : Nat) (n : Node) (p : Preempt), find k s.nodes = some n → n.pre = some p → n.desc.red = false →
      (p.written = true ∨ n.st ≠ .running ∨ s.stoppedNode k = false → exec (.sumpSave k) s = .next s)
      ∧ (p.written = false → n.st = .running → s.stoppedNode k = true → s.savesPoison k = true → ∃ t, exec (.sumpSave k) s = .next t ∧ Killed s t k 0x12 0)
      ∧ (p.written = false → n.st = .running → s.stoppedNode k = true → s.savesPoison k = false →
          (∀ c ∈ s.cmds, c.node = k → c.started = false → s.poisonedEntry c.id = false) →
          let at_ := match p.area with | some a => (a, p.ctx) | none => (s.freeArea n.ctx, n.ctx)
          let queued := fun (c : Cmd) => c.node == k && !c.started && !isCtxs c.instr && !isCtxl c.instr
          exec (.sumpSave k) s = .next { s.wrVirt at_.2 at_.1 (s.areaBytes k { n with areaWord := some n.placeWord }) with
            cmds := s.cmds.filter fun c => !queued c
            deques := s.deques.map fun (e : Nat × List Task) => (e.1, e.2.filter fun t => t.node != k)
            nodes := insert k { n with
              areaWord := some n.placeWord, area := some at_
              pre := some { p with written := true, forced := (s.warpsOf k).any fun e => !e.2.isSeq && e.2.stop == .forced }
              savedCmds := s.cmds.filter queued
              savedTasks := s.deques.flatMap fun (e : Nat × List Task) => (e.2.filter fun t => t.node == k).map fun t => (e.1, t) } s.nodes }))
  ∧ (∀ (s : State) (k i wk : Nat) (n : Node) (w : Warp), n.units.length = n.desc.c →
      let bs := s.areaBytes k n
      let rec_ := 256 + n.desc.c * (0x4000 + n.desc.t * 16384) + i * (0x900 + (n.desc.n + 16) * 128)
      bs.length = areaSize n ∧ numAt bs 0 8 = 0x58465453 + 2 ^ 32 ∧ numAt bs 8 4 = ((find n.launch s.launches).elim 0 (·.id)) % 2 ^ 32
      ∧ (i < n.desc.c * n.desc.w → (wk, w) ∈ s.warpsOf k → w.idx = i → w.copy = 0 → w.isSeq = false →
          (∀ e ∈ s.warpsOf k, e.2.idx = i → e.2.copy = 0 → e.2.isSeq = false → e = (wk, w)) →
          numAt bs rec_ 4 = w.utvec.toNat ∧ (w.agelim < 256 → numAt bs (rec_ + 8) 1 = w.agelim) ∧ numAt bs (rec_ + 16) 8 = w.grps.toNat
          ∧ (∀ l, l < 32 → numAt bs (rec_ + 0x40 + 4 * l) 4 = (w.lane l).pc % 2 ^ 32)
          ∧ (∀ l, l < 32 → numAt bs (rec_ + 0xC0 + 8 * l) 1 % 8 = match (w.lane l).st with | .running => 0 | .waiting => 1 | .parked => 2 | .exited => 3 | .never => 4)
          ∧ (∀ r, r < 12 → numAt bs (rec_ + 0x1C0 + 4 * r) 4 = w.mreg r) ∧ (∀ r, r < 64 → numAt bs (rec_ + 0x200 + 8 * r) 8 = w.sreg r)
          ∧ (∀ r l, r < n.desc.n → l < 32 → numAt bs (rec_ + 0x900 + 128 * r + 4 * l) 4 = w.vreg r l)
          ∧ ∀ r l, r < 16 → l < 32 → numAt bs (rec_ + 0x900 + 128 * (n.desc.n + r) + 4 * l) 4 = w.vreg (224 + r) l))
  ∧ (∀ (s : State) (k : Nat) (n : Node) (p : Preempt) (l : Launch), s.entryOf k = [k] → find k s.nodes = some n → n.st = .running → n.pre = some p →
      find n.launch s.launches = some l →
      let saved := { n with st := .saved, pre := none, slots := [], level := n.desc.prio, entered := s.hub, blocked := false }
      let record := completionRec l (if p.forced then 4 else 3) 0 n.idx
      (p.written = false → exec (.saveCommit k) s = .next s)
      ∧ (p.written = true → p.done = none → ∃ t, exec (.saveCommit k) s = .next t ∧ find k t.nodes = some saved ∧ Recorded s t n.ctx record ∧ t.cmds = s.cmds ∧ t.warps = s.warps)
      ∧ ∀ c f, p.written = true → c ∈ s.cmds → c.instr = .ctxs f → c.ready = true → p.done = some c.donePa → p.doneTag = c.doneTag → c.donePa + 8 ≤ linkBase → c.donePa + 8 ≤ 2 ^ 52 →
          ∃ t, exec (.saveCommit k) s = .next t ∧ find k t.nodes = some saved ∧ c ∉ t.cmds ∧ t.rdBytes c.doneTag c.donePa 8 = leBytes 8 1)
  ∧ (∀ (s : State) (k : Nat) (n : Node), find k s.nodes = some n → (∀ c ∈ s.cmds, isCtxl c.instr = false) →
      let fits := ∀ v ∈ n.allUnits, s.roomOn n v = true ∧ s.worldOk n.ctx v = true
      (n.st ≠ .saved ∨ s.hub < s.nextDispatch ∨ (∀ b e u, s.dispatchable b = some (e, u) → k ∉ e.keys) → exec (.nodeResume k) s = .next s)
      ∧ (∀ h rest, s.pool = h :: rest → h.keys = [k] → n.st = .saved → (fits ↔ ∃ u, s.dispatchable false = some (h, u)))
      ∧ ∀ b e u, n.st = .saved → s.nextDispatch ≤ s.hub → s.dispatchable b = some (e, u) → e.keys = [k] → (∀ e ∈ s.warpsOf k, ∀ g ∈ e.2.frags, g.action = none) →
          ∃ t n', exec (.nodeResume k) s = .next t
          ∧ find k t.nodes = some n'
          ∧ n' = { n with st := .running, blocked := false, area := none, areaWord := none, savedCmds := [], savedTasks := [], slots := n'.slots }
          ∧ t = { s with nodes := t.nodes, warps := t.warps, deques := t.deques, cmds := s.cmds ++ n.savedCmds, nextDispatch := s.hub + 1 }
          ∧ (∀ v, getD [] t.deques v = getD [] s.deques v ++ (n.savedTasks.filter fun e => e.1 == v).map (·.2))
          ∧ ∀ wk w, find wk s.warps = some w →
            (w.node ≠ k → find wk t.warps = some w)
            ∧ (w.node = k → ∃ w', find wk t.warps = some w' ∧ w' = { w with stop := .running, preq := false, pdleft := 0, slot := w'.slot, agelim := w'.agelim, frags := w'.frags, lanes := w'.lanes }
                ∧ (∀ l, w'.lane l = { w.lane l with wait := (w'.lane l).wait })
                ∧ (∀ l, (∀ a b c e f g h d x, (w.lane l).wait ≠ .poll a b c e f g h d x) → (w'.lane l).wait = (w.lane l).wait)
                ∧ (∀ g, g ∈ w.frags → g.late = none → { g with park := g.park.map fun q => { q with d := 64, due := s.clock w.unit + 64 } } ∈ w'.frags)
                ∧ (w.isSeq = false → ∀ a bs, n.area = some a →
                    s.rdVirt a.2 ((a.1 + (areaOffsets n).2.1 + w.idx * (0x900 + (n.desc.n + 16) * 128) + 8) % 2 ^ 64) 1 = some bs →
                      w'.agelim = if ofLe bs = 0 then 64 else ofLe bs)))
  ∧ (∀ (s : State) (c : Cmd) (f : SysF) (m : Nat), Served s c → c.instr = .ctxl f → (∀ q ∈ s.cmds, isCtxl q.instr = true → q = c) →
      let run := fun t => exec (.nodeResume m) s = .next t
      let node := s.selNode c.ctx c.b
      (node = none → ∃ t, run t ∧ Completes s c (if c.aborted then 8 else 3) t)
      ∧ ∀ n, node = some (m, n) →
          (c.ready = true → n.st ≠ .saved → ∃ t, run t ∧ Completes s c 0 t)
          ∧ (c.ready = false → c.aborted = true → ∃ t, run t ∧ Completes s c 8 t)
          ∧ (c.ready = false → c.aborted = false → n.st ≠ .saved → ∃ t, run t ∧ Completes s c 3 t)
          ∧ (c.ready = false → c.aborted = false → n.st = .saved →
              (s.rdVirt c.ctx c.a (areaSize n) = none → ∃ t, run t ∧ Completes s c 3 t)
              ∧ ∀ bs, s.rdVirt c.ctx c.a (areaSize n) = some bs →
                  let size := 0x900 + (n.desc.n + 16) * 128
                  let agelim := fun j => (areaOffsets n).2.1 ≤ j ∧ j < (areaOffsets n).2.2 ∧ (j - (areaOffsets n).2.1) % size = 8
                  let same := bs.length = (s.areaBytes m n).length ∧ ∀ j, j < bs.length → bs[j]? = (s.areaBytes m n)[j]? ∨ agelim j
                  (¬same → ∃ t, run t ∧ Completes s c 3 t)
                  ∧ (same → run { s with
                      cmds := s.cmds.map fun q => if q.id = c.id then { c with ready := true } else q
                      nodes := insert m { n with area := some (c.a, c.ctx), level := n.desc.prio, entered := s.hub, blocked := false } s.nodes })))
  ∧ ∀ (s : State) (k bank u v : Nat) (n : Node), find k s.nodes = some n → s.movers k = [k] → n.st = .saved → n.desc.pan = false → n.units = [u] → n.desc.c = 1 →
      n.units2 = [] → n.units3 = [] → v < Config.cores → u < Config.cores → s.worldOk n.ctx v = true → 1 ≤ n.desc.scr → (∀ c ∈ s.cmds, c.node ≠ k) →
      (s.forMove [k]).runsFree v bank n.desc.scr = true → (s.forMove [k]).partReady (n.movedTo [(v, bank)]) = true → n.bankOn u + n.desc.scr ≤ 16 → u ≠ v →
      let goTo := fun w => if w = u then v else w
      ∃ t n', exec (.nodeMove k [(v, bank)] []) s = .next t ∧ find k t.nodes = some n'
        ∧ n' = { n with
            units := [v], banks := [(v, bank)], decomp := n.decomp.map fun e => (goTo e.1, e.2)
            savedCmds := n.savedCmds.map fun c => { c with unit := goTo c.unit }, savedTasks := n.savedTasks.map fun e => (goTo e.1, e.2) }
        ∧ (∀ o, o < n.partSize → t.spByte v (n'.partBase v + o) = s.spByte u (n.partBase u + o) ∧ t.feBit v (n'.partBase v + o) = s.feBit u (n.partBase u + o / 16 * 16)
            ∧ (.scratch v (n'.partBase v + o) ∈ t.poison ↔ .scratch u (n.partBase u + o) ∈ s.poison))
        ∧ (∀ wk w, find wk s.warps = some w → find wk t.warps = some (if w.node = k then { w with unit := goTo w.unit } else w)) ∧ t.mem = s.mem


/-- 18 R361, R362, R366, R372, R373, 16 R314, 17 R348, R349, 19 R375, R377–R381: a parked fragment and a stalled command retry; the SMC ends a second-stage fault; a page moves; the watchdogs fire; zones
take checkpoints; and what a strike and an uncorrectable error do.
(The model's choices here are log entries 13 and 72 to 76.) -/
def Obligations.FaultsAndRecovery : Prop :=
  (∀ (s : State) (r k : Nat) (w : Warp) (g : Frag) (n : Node), find r s.warps = some w → w.frag k = some g → find w.node s.nodes = some n →
      let here := w.stop = .running ∧ n.st = .running
      let run := exec (.parkRetry r k) s
      (¬here ∨ (g.esc = none ∧ ∀ p, g.park = some p → s.clock w.unit < p.due) ∨ (∃ e, g.esc = some e ∧ (e.ref ≠ none ∨ s.clock w.unit < e.due)) → run = .next s)
      ∧ (∀ p, here → g.esc = none → g.park = some p → p.due ≤ s.clock w.unit → (∃ l ∈ w.fragLanes k, (w.lane l).st = .parked) →
          ∃ v, run = .next { s with warps := insert r v s.warps } ∧ v = { w with lanes := v.lanes }
            ∧ ∀ l, v.lane l = if l ∈ w.fragLanes k ∧ (w.lane l).st = .parked then { w.lane l with st := .running } else w.lane l)
      ∧ (∀ e, here → g.esc = some e → e.ref = none → e.due ≤ s.clock w.unit →
          let x : Issue := { s := s, wk := r, w := w, nk := w.node, n := n, i := .pad, at_ := e.epc, act := [], ex := [] }
          let set := fun (u : State) (e' : Escalation) => run = .next { u with
            warps := insert r { w with frags := w.frags.map fun h => if h.id = g.id then { g with esc := some e' } else h } u.warps }
          match s.appendTrap n.ctx (if n.desc.lvl = 0 then 8 else 9) (x.trapRec g.id (w.fragLanes g.id) e.cause e.sub e.epc e.dbl e.args) with
          | some (u, ref) => set u { e with ref := some ref }
          | none => set s { e with d := min (2 * e.d) (s.ctx n.ctx).parkceil, due := s.clock w.unit + min (2 * e.d) (s.ctx n.ctx).parkceil }))
  ∧ (∀ (s : State) (c : Cmd) (f : EngF) (p : Park), Served s c → c.instr = .cpy f → c.coll = none → c.code = none → c.park = some p →
      let run := fun t => exec (.commandFaultRetry c.id) s = .next t
      let now := s.cmdCheck c true c.d c.b
      let parks := fun (q : Park) => run { s with cmds := s.cmds.map fun j => if j.id = c.id then { c with park := some q } else j }
      (s.clock c.unit < p.due ∨ c.aborted = true → run s)
      ∧ (p.due ≤ s.clock c.unit → c.aborted = false → c.ready = true → bitAt f.x 0 = false →
          (p.open_ = none → ∀ a b, now = .trap a b → ∃ t, run t ∧ Completes s c 3 t)
          ∧ (p.open_ = none → ∀ g ps, now = .fault g ps → g.noRoute = true → ∃ t, run t ∧ Completes s c 5 t)
          ∧ (∀ g ps, now = .fault g ps → g.noRoute = false → p.open_ ≠ none ∨ 0x18 ≤ g.code →
              let same := g.code = p.fault.code ∧ g.level = p.fault.level ∧ g.page = p.fault.page ∧ g.pageSize = p.fault.pageSize
              let d := min (2 * p.d) (s.ctx c.ctx).parkceil
              (same → parks { d := d, due := s.clock c.unit + d, fault := g, open_ := p.open_ })
              ∧ (¬same → p.open_ = none → parks { d := 64, due := s.clock c.unit + 64, fault := g }))
          ∧ ∀ ps, p.open_ = none → now = .ok ps → (piecesAddrs ps).length = c.b → c.data.length = c.b → Clear c ps →
              ∃ t, run t ∧ Completes s c 0 t ∧ t.bytesAt ps = c.data))
  ∧ (∀ (s : State) (t : FaultTarget) (act : SmcAct), s.faultOf t = none → (∀ ck ipa owner tables, t = .page ck ipa → act ≠ .surrender owner tables) →
      exec (.smcFaultService t act) s = .next s)
  ∧ (∀ (s : State) (ck ipa owner tables : Nat),
      let run := fun u => exec (.smcFaultService (.page ck ipa) (.surrender owner tables)) s = .next u
      let leaf := s.leafEntry ipa 4 (s.ctx ck).s2root 0
      let other := owner / 2 ^ 40 ≠ s.settings.devid ∧ s.routed (owner / 2 ^ 40) = true
      (leaf = none ∨ ¬other ∨ (∃ a level, leaf = some (a, level) ∧ (Pte.ofNat (s.rdEntry a)).rd = false) → run s)
      ∧ ∀ a level, leaf = some (a, level) → (Pte.ofNat (s.rdEntry a)).rd = true → other → owner % 2 ^ 16 = 0 → owner < 2 ^ 52 →
          ∃ u, run u ∧ s.Collapsed ipa a level (some owner) tables u)
  ∧ (∀ (s : State) (t : FaultTarget) (ck : Nat) (p : Park), s.faultOf t = some (ck, p) →
      let run := fun act u => exec (.smcFaultService t act) s = .next u
      0x18 ≤ p.fault.code
      ∧ (∀ es : List (Nat × W64), (es.Pairwise fun a b => a.1 + 8 ≤ b.1 ∨ b.1 + 8 ≤ a.1) → ∃ u, run (.repair es) u ∧ u = { s with mem := u.mem }
          ∧ (∀ e ∈ es, u.rdEntry e.1 = e.2.toNat) ∧ ∀ a, (∀ e ∈ es, a < e.1 ∨ e.1 + 8 ≤ a) → memGet u.mem a = memGet s.mem a)
      ∧ (∀ tables, p.fault.code ≠ 0x1C → run (.collapse tables) s)
      ∧ (∀ tables a level, p.fault.code = 0x1C → s.leafEntry p.fault.ipa 4 (s.ctx ck).s2root 0 = some (a, level) →
          ∃ u, run (.collapse tables) u ∧ s.Collapsed p.fault.ipa a level none tables u)
      ∧ (p.open_ ≠ none → run .forward s)
      ∧ (∀ wk k w n g, t = .frag wk k → p.open_ = none → find wk s.warps = some w → w.isSeq = false → find w.node s.nodes = some n → w.frag k = some g →
          let x : Issue := { s := s, wk := wk, w := w, nk := w.node, n := n, i := .pad, at_ := 0, act := [], ex := [] }
          let ls := w.fragLanes k
          (match s.appendTrap n.ctx 9 (x.trapRec k ls p.fault.code (p.fault.level + p.fault.kind * 4) ((ls.head?.map fun l => (w.lane l).pc).getD 0) false p.vas) with
            | none => run .forward s
            | some (u, ref) => run .forward { u with
                warps := insert wk { w with frags := w.frags.map fun h => if h.id = g.id then { g with park := some { p with open_ := some ref } } else h } u.warps })
          ∧ (n.st.final = false → n.pre = none → ∃ u, run .kill u ∧ Killed s u w.node 0x12 p.fault.code
              ∧ Noted s u 6 p.fault.code 0 (n.ctx % 2 ^ 16 + ((find n.launch s.launches).elim 0 (·.id)) * 2 ^ 16 + n.idx * 2 ^ 48)))
      ∧ ∀ c n, t = .command c.id → Served s c → p.open_ = none → find c.node s.nodes = some n → n.st.final = false → n.pre = none → c.donePa + 8 ≤ 2 ^ 52 →
          ∃ u, run .kill u ∧ c.id ∉ u.cmds.map (·.id) ∧ u.rdBytes c.doneTag c.donePa 8 = leBytes 8 (2 ^ 31 + if p.fault.code = 0x19 then 3 else 2)
            ∧ Killed s u c.node 0x12 p.fault.code)
  ∧ (∀ (s : State) (ck ipa pa a level : Nat), s.leafEntry ipa 4 (s.ctx ck).s2root 0 = some (a, level) →
      let old := Pte.ofNat (s.rdEntry a)
      let size := if level = 3 then (if old.s64 then 2 ^ 16 else 2 ^ 13) else if level = 2 then 2 ^ 21 else if level = 1 then 2 ^ 30 else 2 ^ 40
      let busy := (∃ r ∈ s.held ++ s.atomQ ++ s.rakeQ, r.ctx = ck) ∨ (∃ c ∈ s.cmds, c.ctx = ck) ∨ ∃ e ∈ s.nodes, e.2.ctx = ck ∧ ∃ p ∈ e.2.pairs, ∃ c ∈ p.copies, c.buf ≠ []
      let outside := fun q => (q < old.oa ∨ old.oa + size ≤ q) ∧ (q < pa ∨ pa + size ≤ q)
      let entry := a / 64 * 64
      let goes := fun q => if old.oa ≤ q ∧ q < old.oa + size then q - old.oa + pa else q
      (busy ∨ pa % size ≠ 0 ∨ pa = old.oa ∨ s.absentPa pa = true ∨ s.routed (pa / 2 ^ 40) = false → exec (.pageMove ck ipa pa) s = .next s)
      ∧ (¬busy → pa % size = 0 → pa ≠ old.oa → s.absentPa pa = false → s.routed (pa / 2 ^ 40) = true → pa < 2 ^ 52 → old.oa % size = 0 → 1 ≤ level → a % 8 = 0 →
          Canonical 0 s.mem → Canonical 0 s.keys → (∀ j, j < 64 → outside (entry + j)) →
          ∃ t, exec (.pageMove ck ipa pa) s = .next t
            ∧ (∀ o, o < size → memGet t.mem (pa + o) = memGet s.mem (old.oa + o)
              ∧ getD 0 t.keys ((pa + o) / 32) = if encrypted old.oa then getD 0 s.keys ((old.oa + o) / 32) else if encrypted pa then s.keyTag old.okey else 0)
            ∧ (old.ac = true → ∀ i, i < size / 8192 → find (pa + i * 8192) t.homes = some (s.homeAgent (old.oa + i * 8192)))
            ∧ Pte.ofNat (t.rdEntry a) = { old with oa := pa }
            ∧ (level = 3 → old.s64 = true → ∀ j, j < 8 → Pte.ofNat (t.rdEntry (entry + 8 * j)) = { old with oa := pa })
            ∧ (∀ q, outside q → q < entry ∨ entry + 64 ≤ q → memGet t.mem q = memGet s.mem q ∧ (q % 32 = 0 → getD 0 t.keys (q / 32) = getD 0 s.keys (q / 32)))
            ∧ (∀ q, old.oa ≤ q → q < old.oa + size → PoisonLoc.word q ∈ s.poison → PoisonLoc.word (q - old.oa + pa) ∈ t.poison) ∧ t.scratch = s.scratch
            ∧ ∀ k n, find k s.nodes = some n → find k t.nodes = some { n with
                savedCmds := n.savedCmds.map fun c => { c with donePa := goes c.donePa }
                savedTasks := n.savedTasks.map fun e => (e.1, { e.2 with counter := goes e.2.counter, home := e.2.home.map goes }) }))
  ∧ (∀ (s : State) (ck u : Nat),
      let idle := fun v => limitOf s.idleLim s.idle (idleKey ck v) (s.ctx ck).wdlim ≤ getD 0 s.idle (idleKey ck v)
      let ext := fun v => limitOf s.extLim s.ext (idleKey ck v) (s.ctx ck).extlim ≠ 0 ∧ limitOf s.extLim s.ext (idleKey ck v) (s.ctx ck).extlim ≤ getD 0 s.ext (idleKey ck v)
      let on := fun v => ∃ e ∈ s.nodes, e.2.ctx = ck ∧ e.2.st = .running ∧ v ∈ e.2.allUnits
      let quiet := (s.ctx ck).dispatched = true ∧ ∀ e ∈ s.nodes, e.2.ctx = ck → e.2.st ≠ .ready ∧ e.2.pre = none ∧ e.2.st ≠ .saved
      let kills := fun (i : Instr) (reason : Nat) => ∃ t, exec i s = .next t ∧ ∀ k n, find k s.nodes = some n → n.ctx = ck → n.st = .running ∨ n.st = .saved →
        (∀ e ∈ s.nodes, e.2.ctx = ck → e.2.st = .running ∨ e.2.st = .saved → e.2.desc.succ = [] ∨ e = (k, n)) →
        (∀ e ∈ t.warps, e.2.node ≠ k) ∧ (∃ m, find k t.nodes = some m ∧ m.st = .failed)
        ∧ ∀ l, find n.launch s.launches = some l → l.firstFail = none → ∃ l', find n.launch t.launches = some l' ∧ l'.firstFail ≠ none ∧ l'.reason = reason
      let dogs := idle u ∧ quiet ∧ (∃ v, on v) ∧ ∀ v, on v → idle v
      let exts := ext u ∧ quiet ∧ (∃ v, on v ∧ ext v) ∧ ∀ v, on v → idle v ∨ ext v
      (¬dogs → exec (.watchdogExpiry u ck) s = .next s) ∧ (dogs → kills (.watchdogExpiry u ck) 0x13)
      ∧ (¬exts → exec (.extwaitExpiry u ck) s = .next s) ∧ (exts → kills (.extwaitExpiry u ck) 0x14))
  ∧ (∀ (s : State) (z : Nat),
      let now := s.zoneClock z
      let k := (find z s.ckpts).getD { newer := now, older := now }
      let late := find z s.ckpts = none ∨ k.newer + 512 ≤ now
      (¬late → exec (.checkpoint z) s = .next s)
      ∧ (late → ∃ r l d, exec (.checkpoint z) s = .next { s with ckpts := insert z r s.ckpts }
          ∧ k.snaps ++ [s.snap z k.log.length] = d ++ l ∧ l.getLast? = some (s.snap z k.log.length)
          ∧ (d ≠ [] → ∃ p q, l = p :: q ∧ p.at_ ≤ k.newer) ∧ (∀ p q rest, l = p :: q :: rest → k.newer ≤ p.at_ ∨ k.newer < q.at_)
          ∧ let gone := (l.head?).elim 0 (·.logged)
            r = { newer := now, older := k.newer, snaps := l.map fun p => { p with logged := p.logged - gone }, ends := k.ends - d.length
                  log := k.log.drop gone, gen := k.gen + 1 }))
  ∧ (∀ (s : State) (u : Nat), u < Config.units →
      let rec_ := (find u s.ckpts).bind fun k => k.snaps[k.ends]?
      let out := fun ck => ∃ c, find (ck * 1024 + u) s.lastOut = some c ∧ s.clock u ≤ c + 512
      let exposed := fun (e : Nat × Node) => e.2.st = .running ∧ u ∈ e.2.allUnits ∧ (s.ctx e.2.ctx).hold = false ∧ out e.2.ctx
      let inZone := fun (c : Cmd) => c.started = true
        ∧ ((∃ f, c.instr = .cpy f ∨ c.instr = .dec f) ∧ c.unit = u ∨ (∃ f, c.instr = .attn f) ∧ Config.cores ≤ u ∧ s.onStack c ((u - Config.cores) / 16) = true)
      let met := fun (c : Cmd) => c.code = none ∧ (inZone c ∨ c.unit = u ∧ (find u s.ckpts).elim 0 (·.older) ≤ c.issued)
      let unrecorded := rec_ = none ∧ ∀ c ∈ s.cmds, c.id < s.nextId
      let safe := (∀ c ∈ s.cmds, ¬met c) ∧ ∀ e ∈ s.nodes, ¬exposed e
      (unrecorded → safe → exec (.strikeReport u) s = .next s)
      ∧ (∀ (k : ZoneCk) (r : State) (n : Nat), find u s.ckpts = some k → k.snaps[k.ends]? = some (r.snap u n) → safe → r.copiesOn u = [] →
          Canonical 0 r.scratch → Canonical false r.fe → (r.warps.map (·.1)).Nodup → (s.warps.map (·.1)).Nodup →
          (k.log.drop n = [] → ∃ t, exec (.strikeReport u) s = .next t
            ∧ (∀ o, o < 2 ^ 20 → t.spByte u o = r.spByte u o ∧ t.feBit u o = r.feBit u o ∧ ∀ v, v ≠ u → t.spByte v o = s.spByte v o ∧ t.feBit v o = s.feBit v o)
            ∧ (∀ wk w, find wk r.warps = some w → w.unit = u → ∃ w', find wk t.warps = some w' ∧ w' = { w with drain := w'.drain } ∧ ∀ id ∈ w'.drain, id ∈ w.drain)
            ∧ (∀ wk w, find wk s.warps = some w → (∀ q, find wk r.warps = some q → q.unit ≠ u) → find wk t.warps = if w.unit = u then none else some w)
            ∧ t.held = s.held.filter (fun q => !(q.unit == u && decide (r.nextId ≤ q.id)))
            ∧ t.cmds = s.cmds.filter (fun c => !(c.unit == u && decide (r.nextId ≤ c.id) && !c.acted))
            ∧ getD [] t.deques u = getD [] r.deques u ∧ find u t.ckpts = some { k with snaps := k.snaps.take (k.ends + 1), gen := k.gen + 1 }
            ∧ t.mem = s.mem ∧ t.keys = s.keys ∧ t.ctxs = s.ctxs ∧ t.atomQ = s.atomQ ∧ t.rakeQ = s.rakeQ ∧ t.launches = s.launches)
          ∧ ∀ wk w l req d size v fl, k.log.drop n = [.atom wk l req d size v fl] → req < r.nextId → find wk r.warps = some w → w.unit = u →
              ∃ (t : State) (w' : Warp), exec (.strikeReport u) s = .next t ∧ find wk t.warps = some (w'.land req l d size v fl) ∧ w' = { w with drain := w'.drain })
      ∧ (∀ c, unrecorded → Served s c → met c → c.park = none → (∀ q ∈ s.cmds, met q → q = c) → (∀ e ∈ s.nodes, ¬exposed e) →
          (c.wrote = true → ∃ t, exec (.strikeReport u) s = .next t ∧ Completes s c 4 t)
          ∧ (c.wrote = false → ¬inZone c → exec (.strikeReport u) s = .next s)
          ∧ (c.wrote = false → inZone c → exec (.strikeReport u) s = .next { s with
              cmds := s.cmds.map fun q => if q.id = c.id then { c with ready := false, data := [], vals := [] } else q }))
      ∧ ∀ nk n, unrecorded → (∀ c ∈ s.cmds, ¬met c) → (s.nodes.map (·.1)).Nodup → find nk s.nodes = some n → exposed (nk, n) → (∀ e ∈ s.nodes, exposed e → e = (nk, n)) →
          let here := fun (c : CopySt) => ∃ w, find c.warp s.warps = some w ∧ w.unit = u
          let known := ∀ p ∈ n.pairs, ∀ c ∈ p.copies, here c → c.ck ≠ none
          (n.desc.red = false ∨ ¬known → n.pre = none → ∃ t, exec (.strikeReport u) s = .next t ∧ Killed s t nk 0x12 0)
          ∧ (n.desc.red = true → known → ∃ m : Node, exec (.strikeReport u) s = .next { s with nodes := insert nk m s.nodes } ∧ m = { n with pairs := m.pairs }
              ∧ m.pairs.length = n.pairs.length ∧ ∀ (i : Nat) (p q : Pair), n.pairs[i]? = some p → m.pairs[i]? = some q → q = { p with copies := q.copies }
                ∧ q.copies.length = p.copies.length ∧ ∀ (j : Nat) (c d : CopySt), p.copies[j]? = some c → q.copies[j]? = some d → (here c → d = { c with struck := true }) ∧ (¬here c → d = c)))
  ∧ (∀ (s : State) (z : Nat), 896 ≤ z →
      let a := z - 896
      let seen := fun (e : Nat × Node) => e.2.st.final = false ∧ (s.ctx e.2.ctx).hold = false ∧ ∃ c, find (e.1 * 128 + a) s.lastServed = some c ∧ s.agentClock a ≤ c + 512
      let again := fun (r : Req) => match r.kind with
        | .atomic q => if q.served.any (fun e => e.1 == a) then { r with kind := .atomic { q with served := none } } else r
        | _ => r
      (992 ≤ z → exec (.strikeReport z) s = .next s)
      ∧ (z < 992 → (∀ e ∈ s.nodes, ¬seen e) → exec (.strikeReport z) s = .next { s with atomQ := s.atomQ.map again })
      ∧ ∀ k n, z < 992 → find k s.nodes = some n → seen (k, n) → n.pre = none → (∀ e ∈ s.nodes, seen e → e = (k, n)) →
          ∃ t, exec (.strikeReport z) s = .next t ∧ Killed s t k 0x12 0)
  ∧ ∀ (s : State) (loc : PoisonLoc),
      let marks := fun (p : PoisonLoc) (b pa : Nat) => ∃ t, exec (.uncorrectableError loc) s = .next t ∧ (p ∈ t.poison) ∧ Noted s t 1 0 b pa
        ∧ find b t.ecc = some (((find b s.ecc).getD (0, 0)).1, ((find b s.ecc).getD (0, 0)).2 + 1) ∧ t.warps = s.warps ∧ t.scratch = s.scratch
      (∀ pa, loc = .word pa → pa < 2 ^ 52 → pa / 2 ^ 40 = s.settings.devid → s.absentPa pa = false → encrypted pa = true →
          marks (.word (pa / 32 * 32)) (3 * 4096 + pa % 2 ^ 40 / 0x1800000000) (pa / 32 * 32))
      ∧ (∀ pa, loc = .word pa → pa / 2 ^ 40 ≠ s.settings.devid ∨ s.absentPa pa = true ∨ encrypted pa = false → exec (.uncorrectableError loc) s = .next s)
      ∧ (∀ u o, loc = .scratch u o → u < Config.cores → marks (.scratch u (o / 16 * 16)) u 0)
      ∧ (∀ u o, loc = .scratch u o → Config.units ≤ u → exec (.uncorrectableError loc) s = .next s)
      ∧ (∀ ck tb x, loc = .index ck tb → (s.ctx ck).table tb = some x → marks loc (2 * 4096 + x.desc.home) 0)
      ∧ (∀ wk cls num ls w, loc = .reg wk cls num ls → find wk s.warps = some w → w.unit < Config.cores → marks loc w.unit 0)
      ∧ (∀ b pa, loc = .line b pa → pa < 2 ^ 52 → b < 768 ∨ b / 4096 = 2 ∧ b % 4096 < 64 → marks (.line b (pa / 16 * 16)) b (pa / 16 * 16))
      ∧ (∀ b x, loc = .queue b x ∨ loc = .array b x → b < 768 ∨ b / 4096 = 1 ∧ b % 4096 < 96 → marks loc b 0)
      ∧ ∀ k core tile gr n u, loc = .tile k core tile gr → find k s.nodes = some n → n.units[core]? = some u → u < Config.cores → marks loc u 0


/-- 21 R401–R404, R406, 23 R430: a link comes up, goes down in the first three ways or by an update, and sends idle flits; an update that is newer is applied and forwarded; the drain round; and requests of
other devices are performed in number order, each once.
(What other devices bring is log entry 49, the codes of replies log entry 70.) -/
def Obligations.FabricEvents : Prop :=
  (∀ (s : State) (p dev pp : Nat),
      let bad := s.smc.stage < 5 ∨ s.smc.off = true ∨ 24 ≤ p ∨ (s.port p).up = true ∨ dev = s.settings.devid ∨ 4096 ≤ dev ∨ 24 ≤ pp
      (bad → exec (.linkUp p dev pp) s = .next s)
      ∧ (¬bad → ∃ t, exec (.linkUp p dev pp) s = .next t
          ∧ Applied s t (s.linkEntry p dev pp (s.stored (s.linkEntry p dev pp 0 true) + 1) true) ∧ Noted s t 4 0 (6 * 4096 + p) (dev + pp * 2 ^ 16)
          ∧ find p t.ports = some { up := true, peer := dev, peerPort := pp, heard := s.hub, lastSent := s.hub }
          ∧ ∀ q x, q ≠ p → find q s.ports = some x → find q t.ports = some (if x.up then { x with lastSent := s.hub } else x)))
  ∧ (∀ (s : State) (p way : Nat) (i : Instr), (i, way) ∈ [(Instr.linkRetransmitFail p, 1), (.linkIdleTimeout p, 2), (.portTakenDown p, 3)] →
      ((s.port p).up = false ∨ way = 2 ∧ s.hub < (s.port p).heard + 65536 → exec i s = .next s)
      ∧ ∀ x, find p s.ports = some x → x.up = true → (way = 2 → x.heard + 65536 ≤ s.hub) → ∃ t, exec i s = .next t
          ∧ Applied s t (s.linkEntry p x.peer x.peerPort (s.stored (s.linkEntry p x.peer x.peerPort 0 false) + 1) false) ∧ Noted s t 3 way (6 * 4096 + p) 0
          ∧ find p t.ports = some { x with up := false }
          ∧ ∀ q y, q ≠ p → find q s.ports = some y → find q t.ports = some (if y.up then { y with lastSent := s.hub } else y))
  ∧ (∀ (s : State) (p : Nat) (x : Port), s.port p = x → exec (.idleFlit p) s = .next
      (if x.up = true ∧ x.lastSent + 512 ≤ s.hub then { s with ports := insert p { x with lastSent := s.hub } s.ports } else s))
  ∧ (∀ (s : State) (p : Nat) (e : LinkEntry) (x : Port), s.port p = x →
      let heard := insert p { x with heard := s.hub } s.ports
      let newer := s.stored e < e.ver ∨ s.stored e = e.ver ∧ bitAt (getD 0 s.links (e.deva * 24 + e.porta)) 35 = true ∧ e.up = false
      let mine := fun (q : Nat × Port) => q.2.up = true ∧ s.linkEntry q.1 q.2.peer q.2.peerPort e.ver e.up = e
      let sent := fun (q : Nat) (y : Port) => if y.up ∧ q ≠ p then { y with lastSent := s.hub } else y
      let run := fun t => exec (.linkStateUpdate p e) s = .next t
      (x.up = false → run s)
      ∧ (x.up = true → ¬newer → run { s with ports := heard })
      ∧ (x.up = true → newer → (e.up = true ∨ ∀ q ∈ heard, ¬mine q) → ∃ t, run t ∧ Applied s t e
          ∧ t = { s with links := t.links, drainRound := t.drainRound, drainDue := t.drainDue, cmds := t.cmds, ports := heard.map fun q => (q.1, sent q.1 q.2) })
      ∧ ∀ k y, x.up = true → newer → e.up = false → find k heard = some y → mine (k, y) → (∀ q ∈ heard, q.1 = k ∨ ¬mine q) → (heard.map (·.1)).Nodup →
          ∃ t, run t ∧ Applied s t e ∧ Noted s t 3 4 (6 * 4096 + k) 0 ∧ find k t.ports = some { sent k y with up := false }
            ∧ ∀ q z, q ≠ k → find q heard = some z → find q t.ports = some (sent q z))
  ∧ (∀ s : State, exec .drainRound s = .next (if s.drainRound < 4 ∧ s.drainDue ≤ s.hub then { s with
      drainRound := s.drainRound + 1, drainDue := s.drainDue + 16384, settlings := if s.drainRound = 3 then s.settlings + 1 else s.settlings
      smc := { s.smc with stage := if s.drainRound = 3 ∧ s.smc.stage = 5 then 6 else s.smc.stage } } else s))
  ∧ (∀ (s : State) (q : RemoteReq),
      let next := getD 0 s.remoteNext q.src
      (q.num < next ∨ (∃ r ∈ s.remoteWait, r.src = q.src ∧ r.num = q.num) → exec (.remoteRequest q) s = .next s)
      ∧ (next < q.num → (∀ r ∈ s.remoteWait, r.src = q.src → r.num ≠ next ∧ r.num ≠ q.num) → exec (.remoteRequest q) s = .next { s with remoteWait := s.remoteWait ++ [q] })
      ∧ ∀ r t, next = q.num → s.remoteWait = [r] → r.src = q.src → r.num = q.num + 1 → exec (.remoteRequest q) { s with remoteWait := [] } = .next t →
          exec (.remoteRequest q) s = exec (.remoteRequest r) t)
  ∧ ∀ (s : State) (src num : Nat) (op : RemoteOp), num = getD 0 s.remoteNext src → (∀ r ∈ s.remoteWait, r.src ≠ src) →
      let answers := fun (u : State) (code : Nat) (data : List Byte) => exec (.remoteRequest ⟨src, num, op⟩) s = .next { u with
        replies := insert (16 + src) { code := code, data := data } s.replies, remoteNext := put 0 src (num + 1) s.remoteNext }
      let own := fun (pa n : Nat) => pa / 2 ^ 40 = s.settings.devid ∧ (pa + n - 1) / 2 ^ 40 = s.settings.devid ∧ s.absentPa pa = false ∧ s.absentPa (pa + n - 1) = false
      let bad := fun (pa n : Nat) => ∃ j, j < n ∧ (PoisonLoc.word ((pa + j) / 32 * 32) ∈ s.poison ∨ ∃ b, b / 4096 = 2 ∧ PoisonLoc.line b ((pa + j) / 16 * 16) ∈ s.poison)
      (∀ pa n k, op = .read pa n k → (¬own pa n → answers s 2 []) ∧ (own pa n → bad pa n → answers s 1 []) ∧ (own pa n → ¬bad pa n → answers s 0 (s.rdBytes (s.keyTag k) pa n)))
      ∧ (∀ pa bs k, op = .write pa bs k → (¬own pa bs.length → answers s 2 []) ∧ (own pa bs.length → pa + bs.length ≤ linkBase → ∃ u, answers u 0 [] ∧ u.rdBytes (s.keyTag k) pa bs.length = bs
          ∧ ∀ a, a < pa ∨ pa + bs.length ≤ a → u.rdByte (s.keyTag k) a = s.rdByte (s.keyTag k) a))
      ∧ (∀ pa size f b c k, op = .atomic pa size f b c k none → 1 ≤ size → (¬own pa size → answers s 2 []) ∧ (own pa size → bad pa size → answers s 1 [])
          ∧ (own pa size → ¬bad pa size → pa + size ≤ linkBase → let old := ofLe (s.rdBytes (s.keyTag k) pa size)
            ∃ u, answers u 0 (leBytes size old)
              ∧ u.rdBytes (s.keyTag k) pa size = leBytes size (if f = 10 ∧ old ≠ b then old else (atomicOp f size old b c).1)
              ∧ ∀ a, a < pa ∨ pa + size ≤ a → u.rdByte (s.keyTag k) a = s.rdByte (s.keyTag k) a))
      ∧ ∀ ck n key, (op = .lookup ck n key ∨ (∃ row, op = .insert ck n key row) ∨ op = .delete ck n key) →
          ((s.ctx ck).table n = none → answers s 2 [])
          ∧ ∀ tb, (s.ctx ck).table n = some tb →
            let addr := fun slot => leBytes 8 (n % 2 ^ 14 * 2 ^ 50 + slot * tb.desc.rowBytes)
            (op = .lookup ck n key →
              let u := s.updTable ck n fun x => { x with lookups := countLookup key src x.lookups }
              (∀ x, tb.lookup key = some x → answers u 0 (addr x.slot))
              ∧ (∀ j, tb.lookup key = none → find key tb.forward = some j → answers u 16 (leBytes 8 j))
              ∧ (find key tb.forward = none → tb.lookup key = none → answers u 2 []))
            ∧ (∀ row, op = .insert ck n key row →
              let kw := tb.desc.keyBytes
              let bs := leBytes kw key ++ ((row.drop kw ++ List.replicate tb.desc.rowBytes 0).take (tb.desc.rowBytes - kw))
              let goesIn := if tb.lookup key = none then find key tb.forward = none else tb.desc.uniq = false
              (∀ j, tb.lookup key = none → find key tb.forward = some j → answers s 16 (leBytes 8 j))
              ∧ (∀ x, tb.lookup key = some x → tb.desc.uniq = true → answers s 3 (addr x.slot))
              ∧ (goesIn → tb.freeSlot = none → answers s 4 [])
              ∧ ∀ slot, goesIn → tb.freeSlot = some slot →
                let row := s.rowPieces ck true (n % 2 ^ 14 * 2 ^ 50 + slot * tb.desc.rowBytes) bs.length
                (∀ ps, row = .ok ps → answers ((s.writeRow ps bs).updTable ck n fun x => x.addEntry ⟨key, slot⟩) 0 (addr slot))
                ∧ (∀ a b, row = .trap a b → answers s (a + b * 256) []) ∧ ∀ g ps, row = .fault g ps → answers s g.code [])
            ∧ (op = .delete ck n key →
              let there := if tb.desc.uniq then tb.lookup key else tb.index.find? fun x => x.slot == key
              (∀ x, there = some x → answers (s.updTable ck n fun y => y.delEntry x) 0 [])
              ∧ (∀ j, there = none → tb.desc.uniq = true → find key tb.forward = some j → answers s 16 (leBytes 8 j))
              ∧ (there = none → tb.desc.uniq = false ∨ find key tb.forward = none → answers s 2 []))


/-- 21 R398, R400, 23 R423, R425, R426, R433: the host's requests, its taking of a message, a run that changes owner, the bring-up with the checks of an image, and heat.
(The level of the host is log entry 52, descriptors in table 2 log entry 69, codes of replies log entry 70, the bring-up log entry 71.) -/
def Obligations.PlatformEvents : Prop :=
  (∀ (s : State) (ck v : Nat), ∃ t, exec (.interruptMessage ck v) s = .next t ∧ t = { s with interrupts := t.interrupts }
      ∧ ∀ e, e ∈ t.interrupts ↔ e ∈ s.interrupts ∧ e ≠ (ck, v))
  ∧ (∀ (s : State) (u r : Nat) (owner : Option Nat), r < 16 →
      let holds := fun (n : Node) => u ∈ n.allUnits ∧ n.bankOn u ≤ r ∧ r < n.bankOn u + n.desc.scr
      let busy := (∃ e ∈ s.nodes, (e.2.st = .running ∨ e.2.st = .saved ∨ s.lingers e.2 = true) ∧ holds e.2) ∨ ∃ c ∈ s.cmds, ∃ n, find c.node s.nodes = some n ∧ holds n
      let size := if u < 768 then 65536 else 16384
      let inside := fun o => r * size ≤ o ∧ o < (r + 1) * size
      let has := find (u * 16 + r) s.runOwner = owner
      (has → exec (.runReassign u r owner) s = .next { s with reassign := erase (u * 16 + r) s.reassign })
      ∧ (¬has → busy → exec (.runReassign u r owner) s = .next { s with reassign := insert (u * 16 + r) owner s.reassign })
      ∧ (¬has → ¬busy → ∃ t, exec (.runReassign u r owner) s = .next t ∧ find (u * 16 + r) t.runOwner = owner
          ∧ t = { s with reassign := erase (u * 16 + r) s.reassign, scratch := t.scratch, fe := t.fe, poison := t.poison, runOwner := t.runOwner }
          ∧ (∀ k, k ≠ u * 16 + r → find k t.runOwner = find k s.runOwner)
          ∧ (∀ o, inside o → t.spByte u o = 0 ∧ t.feBit u o = false)
          ∧ ∀ v o, o < 2 ^ 20 → v ≠ u ∨ ¬inside o → t.spByte v o = s.spByte v o ∧ t.feBit v o = s.feBit v o))
  ∧ (∀ (s : State) (q : HostReq),
      let size := match q.op with | .read _ n => n | .write _ bs => bs.length | _ => 1
      let up := s.smc.stage = 6 ∧ s.smc.off = false ∧ q.queue < 16 ∧ 1 ≤ size ∧ size ≤ 64
      let smc := ∃ svc a, q.op = .smc svc a
      let there := ∃ c, find q.ctx s.ctxs = some c ∧ c.dead = false
      let tb := s.tableOf q.ctx
      let check := fun wr va n => (s.setCtx q.ctx { s.ctx q.ctx with sec := s.smc.hostSec }).checkAccess q.ctx none 2 { write := wr } va n
      let fails := fun (e : Checked) => (∀ c b, e = .trap c b → Answered s q s (c + b * 256) []) ∧ (∀ f ps, e = .fault f ps → Answered s q s f.code [])
      (¬up → exec (.hostRequest q) s = .next s)
      ∧ (up → ¬smc → ¬there → Answered s q s (8 + 3 * 256) [])
      ∧ (up → there →
          (∀ va n, q.op = .read va n → fails (check false va n)
            ∧ ∀ ps, check false va n = .ok ps → ((∃ p ∈ ps, s.poisonedMem p.pa p.n = true) → Answered s q s 1 [])
              ∧ ((∀ p ∈ ps, s.poisonedMem p.pa p.n = false) → Answered s q s 0 (ps.flatMap fun p => s.rdBytes p.tag p.pa p.n)))
          ∧ (∀ va bs, q.op = .write va bs → va / 2 ^ 50 ≠ 2 → fails (check true va bs.length)
            ∧ ∀ ps g, check true va bs.length = .ok ps → (piecesAddrs ps).length = bs.length → (piecesAddrs ps).Nodup → (∀ a ∈ piecesAddrs ps, a.2 = g ∧ a.1 < linkBase) →
                ∃ u, Answered s q u 0 [] ∧ u.bytesAt ps = bs ∧ ∀ a, (a, g) ∉ piecesAddrs ps → u.rdByte g a = s.rdByte g a)
          ∧ (∀ va bs, q.op = .write va bs → va / 2 ^ 50 = 2 →
              let t := va % 2 ^ 50 / 128
              (va % 128 ≠ 0 ∨ bs.length ≠ 64 ∨ t < 16 ∨ 2 ^ 14 ≤ t → Answered s q s (3 + 0x26 * 256) [])
              ∧ (va % 128 = 0 → bs.length = 64 → 16 ≤ t → t < 2 ^ 14 → ∃ u, Answered s q u 0 [] ∧ (u.tableOf q.ctx t).desc = Desc.ofNat (ofLe bs)
                  ∧ (u.tableOf q.ctx t).r = 0 ∧ PoisonLoc.index q.ctx t ∉ u.poison))
          ∧ (∀ t n, q.op = .reserve t n → t = 7 ∨ t < 3 → Answered s q s (8 + 3 * 256) [])
          ∧ (∀ t p n, q.op = .commit t p n → t = 7 ∨ t < 3 → Answered s q s (8 + 3 * 256) [])
          ∧ (∀ t n, q.op = .reserve t n → t ≠ 7 → 3 ≤ t → (tb t).desc.kind = 4 → (tb t).desc.valid = true → (tb t).desc.pl = false → (s.ctx q.ctx).descOk (tb t).desc = true →
              (find t (s.ctx q.ctx).tables).isSome = true →
              (n = 0 ∨ 65536 < n → Answered s q s (7 + 5 * 256) [])
              ∧ (1 ≤ n → n ≤ 65536 → (∀ u p, s.reserveSeq q.ctx 0 t n = (u, some p) → Answered s q u 0 (leBytes 8 p))
                  ∧ ∀ u, s.reserveSeq q.ctx 0 t n = (u, none) → Answered s q u 4 []))
          ∧ ∀ t p n, q.op = .commit t p n → t ≠ 7 → 3 ≤ t → (tb t).desc.kind = 4 → (tb t).desc.valid = true → (find t (s.ctx q.ctx).tables).isSome = true →
              (n = 0 ∨ 65536 < n → Answered s q s (7 + 5 * 256) [])
              ∧ (1 ≤ n → n ≤ 65536 → (∀ b, (tb t).markTrap p n = some b → Answered s q s (7 + b * 256) [])
                  ∧ ((tb t).markTrap p n = none → Answered s q ((s.updTable q.ctx t fun x => x.mark p n .committed).noteSubmit q.ctx t p n 2) 0 [])))
      ∧ ∀ svc a, up → q.op = .smc svc a →
          let o := serviceOf svc { ck := q.ctx, lvl := 2, sec := s.smc.hostSec } a s
          (o.kills = [] → Answered s q o.s 0 (leBytes 8 o.res))
          ∧ (svc = 0x50 → 400 ≤ a → a ≤ 3200 → Answered s q { s with smc := { s.smc with powercap := a } } 0 (leBytes 8 0))
          ∧ (svc = 1 → Answered s q s 0 (leBytes 8 (s.smc.svn * 2 ^ 8))))
  ∧ (∀ (stage : Nat) (bs : List Byte), let len := field bs 8 4
      imageOk stage bs = true ↔ field bs 0 4 = 0x4D465853 ∧ 1 ≤ len ∧ len ≤ 2 ^ 24 ∧ 5632 + len ≤ bs.length
        ∧ (∀ j, 12 ≤ j → j < 64 → bs.getD j 0 = 0) ∧ (∀ j, 5389 ≤ j → j < 5632 → bs.getD j 0 = 0)
        ∧ Config.digest ((bs.drop 128).take 1952) = Config.fusedHash ∧ Config.fusedSvn ≤ field bs 6 2 ∧ Config.digest ((bs.drop 5632).take len) = (bs.drop 64).take 64
        ∧ Config.verifies ((bs.drop 128).take 1952) (bs.take 128) ((bs.drop 2080).take 3309) = true ∧ field bs 4 2 = stage)
  ∧ (∀ (s : State) (b : BootInput),
      let run := fun t => exec (.reset b) s = .next t
      let of := fun k => b.images.find? fun i => field i 4 2 == k
      let measured := fun (i : List Byte) => Config.digest (i.take (5632 + field i 8 4))
      let at1 : Smc := { stage := 1, svn := field b.smcImage 6 2, measurements := [measured b.smcImage] }
      (imageOk 0 b.smcImage = false → run (s.anew {}))
      ∧ (imageOk 0 b.smcImage = true →
          ((∃ k, 1 ≤ k ∧ k ≤ 3 ∧ ∀ i, of k = some i → imageOk k i = false) → run (s.anew at1))
          ∧ ∀ i1 i2 i3, of 1 = some i1 → of 2 = some i2 → of 3 = some i3 → imageOk 1 i1 = true → imageOk 2 i2 = true → imageOk 3 i3 = true →
              let at2 : Smc := { at1 with stage := 2, measurements := [measured b.smcImage, measured i1, measured i2, measured i3] }
              let out := (List.range 8).filter fun k => b.badStacks.contains k
              let fresh := fun (t : State) => t = { s.anew t.smc with
                mem := t.mem, events := t.events, blockRef := t.blockRef, blockIpas := t.blockIpas, nextId := t.nextId, interrupts := t.interrupts, settings := t.settings, world := t.world }
              (out.length = 8 → run (s.anew at2))
              ∧ (out.length ≠ 8 → ∃ t, run t ∧ fresh t ∧ t.events.r = out.length ∧ (out = [] → t.mem = [] ∧ t.interrupts = [])
                  ∧ (b.stage4 = false → t.smc = { at2 with stage := 3, stacksOut := out } ∧ t.settings = {} ∧ t.world = [])
                  ∧ (b.stage4 = true → t.smc = { at2 with stage := if b.links then 5 else 6, stacksOut := out, hostSec := b.hostSec } ∧ t.settings = { devid := b.devid % 4096 }
                      ∧ ∀ k w, b.worlds = [(k, w)] → getD true t.world k = w ∧ ∀ j, j ≠ k → getD true t.world j = true))))
  ∧ ∀ (s : State) (st temp : Nat),
      let now : Smc := { s.smc with throttle := st % 256, temp := temp % 256 }
      (temp < 115 → s.smc.throttle = st % 256 → exec (.throttleChange st temp) s = .next { s with smc := now })
      ∧ (115 ≤ temp → exec (.throttleChange st temp) s = .next (s.anew { off := true }))
      ∧ (temp < 115 → s.smc.throttle ≠ st % 256 → ∃ t, exec (.throttleChange st temp) s = .next t ∧ Noted s t 5 (st % 256) 0 (temp % 256) ∧ t.smc = now ∧ t.warps = s.warps ∧ t.nodes = s.nodes)
      ∧ exec (.thermalTrip temp) s = .next (if temp < 115 then s else s.anew { off := true })


/-- 00 R5, 02 R50, R61, R62, 17 R341: what a step is. With an input, the input takes place; else the first event that is due; else the warp that is chosen issues the instruction that the bytes at its issue
address decode to, and its slot's pointer moves to it; where no warp can issue any more, the cycle ends. Bits that decode to nothing trap the active path. The zones' records follow.
(Inputs, the clocks, the order of events and the zones' records are log entries 1, 2, 4 and 72.) -/
def Obligations.StepRunsDecoded : Prop :=
  (∀ (s : State) (i : Instr) (rest : List Instr), s.inputs = i :: rest →
      (∀ t, exec i { s with inputs := rest, cur := none } = .next t → step s = .next (s.track t))
      ∧ (∀ f, exec i { s with inputs := rest, cur := none } = .fault f → step s = .next (s.track { s with inputs := rest })))
  ∧ (∀ (s : State) o, s.inputs = [] → s.dueEvent = some o → step s = s.tracked o)
  ∧ (∀ (s : State), s.inputs = [] → s.dueEvent = none → s.order = [] → step s = .next s.tick)
  ∧ (∀ (s : State), s.tick = { s with
      now := s.now + 1, hub := s.hub + 1, pan := s.pan + 1, acted := [], idle := s.tick.idle, ext := s.tick.ext, idleLim := s.tick.idleLim, extLim := s.tick.extLim
      warps := s.warps.map fun e => if e.2.preq then (e.1, { e.2 with pdleft := e.2.pdleft - 1 }) else e })
  ∧ (∀ (s : State) (wk : Nat) (rest : List Nat) (w : Warp) (n : Node) (pc : Nat) (i : Instr), Chosen s wk rest w n pc → w.isSeq = false → s.fetchable n pc i.len →
      decodeBytes n.desc.pan pc (s.rdBytes 0 (codeBase n.launch + pc) 16) = .ok i → declCheck n.desc.n n.desc.t n.desc.cast i = none →
      ∀ t, exec i { s with cur := some wk } = .next t →
        (t.issues ≠ s.issues → step s = .next (s.track (s.issued t wk w)))
        ∧ (t.issues = s.issues → t.meets ≠ s.meets → step s = .next (s.track t))
        ∧ (t.issues = s.issues → t.meets = s.meets → rest = [] → step s = .next s.tick))
  ∧ (∀ (s : State) (wk : Nat) (rest : List Nat) (w : Warp) (n : Node) (pc : Nat) (e : Illegal),
      let bytes := s.rdBytes 0 (codeBase n.launch + pc) 16
      let found := decodeBytes n.desc.pan pc bytes
      Chosen s wk rest w n pc → w.isSeq = false → s.fetchable n pc (lenOfWord (ofLe bytes)) →
      found = .illegal e ∨ (∃ i, found = .ok i ∧ i.len = lenOfWord (ofLe bytes) ∧ declCheck n.desc.n n.desc.t n.desc.cast i = some e) →
      FragsOk w → w.utvec ≠ 0 → (∀ l ∈ w.activeAt pc, (w.lane l).inHandler = false ∧ ((w.frag (w.lane l).frag).bind (·.park)).isNone = true) →
      ∃ t v, step s = .next t ∧ find wk t.warps = some v ∧ t.now = s.now ∧ t.mem = s.mem ∧ t.scratch = s.scratch
        ∧ ∀ l ∈ w.activeAt pc, (v.lane l).st = .running ∧ (v.lane l).inHandler = true ∧ (v.lane l).pc = w.utvec.toNat ∧ (v.lane l).ucause = 1 + e.code * 2 ^ 8
            ∧ (v.lane l).uepc = BitVec.ofNat 32 pc)


/-- 23 R426, R427, R430, 21 R402: the state at reset. Every block is idle, in the secure world; no context, launch, node or warp exists; the ports are down, the link table is empty and the settings hold
their reset values; memory has its canonical form. Until a `RESET` only the clocks count.
(Values that the spec does not give are log entry 20, bytes that nothing has written log entry 5.) -/
def Obligations.ResetState : Prop :=
  Inv State.reset
  ∧ State.reset.ctxs = [] ∧ State.reset.launches = [] ∧ State.reset.nodes = [] ∧ State.reset.warps = [] ∧ State.reset.cmds = []
  ∧ (∀ p, (State.reset.port p).up = false) ∧ (∀ u, getD true State.reset.world u = true) ∧ (∀ row, getD 0 State.reset.links row = 0)
  ∧ State.reset.settings = { repstep := 4, starve := 262144, acth := 4096, rslack := 1024, devid := 0 }
  ∧ State.reset.smc.stage = 0 ∧ State.reset.events.r = 0 ∧ State.reset.poison = []
  ∧ step State.reset = .next { State.reset with now := 1, hub := 1, pan := 1 }

/-- 02 R46, R51–R59: words written out from the encoding tables decode to the instructions that they stand for. -/
def Obligations.DecodeWords : Prop :=
  let always : Pred := ⟨12, false⟩
  let words : List (Nat × Nat × Instr) :=
    [(32, 0x00000003, .pad),
     (64, 0x00000605040204C8, .icmp8 { p := ⟨1, false⟩, d := 2, a := 4, b := 5, fn := 6 }),
     (96, 0x00000001000302000B0A30E5, .shflDown12 { p := always, x := 3, d := 10, a := 11, imm := 1 }),
     (64, 0x000000030000302C, .bar always 3),
     (128, 0x0000000000000004000200030201314A, .ffma { p := always, nc := true, d := 1, a := 2, b := 3, c := 4 }),
     (96, 0x3FC000000000000006053141, .fadd12 { p := always, d := 5, a := 6, imm := 0x3FC00000 }),
     (64, 0x160000000807315C, .fcvtScalar { p := always, rm := .rz, fmt := .i8, d := 7, a := 8 }),
     (128, 0x00000014000900000000000006043246, .kget { p := always, d := 4, a := 6, tbl := 20, sr := 9 }),
     (128, 0x00000000050000000000000302003272, .sqcmt { p := always, a := 2, b := 3, th := 5 }),
     (64, 0x000000030C043254, .knext { p := always, d := 4, a := 12, b := 3 }),
     (96, 0x0008000600000000000332A1, .tcfg12 { p := always, d := 3, imm := 0x00080006 }),
     (128, 0x000000000000000B00E0000A080232AA, .tld { p := always, ord := .acq, scp := .device, d := 2, a := 8, b := 10, c := 11 }),
     (64, 0x00000006050032B8, .mma { p := always, a := 5, b := 6 }),
     (128, 0x000000000000000A02C1000806043302, .cpy { p := always, acq := true, scp := .device, x := 1, d := 4, a := 6, b := 8, c := 10 }),
     (96, 0x000000140000000C08053325, .tfork { p := always, d := 5, a := 8, b := 12, imm := 0x14 }),
     (64, 0x0001000004033380, .eretSkip { p := always, d := 3, a := 4 }),
     (64, 0x000000000402338C, .gcall { p := always, d := 2, a := 4 }),
     (64, 0x0000020006003384, .tlbiVa { p := always, a := 6 }),
     (64, 0x0000000604023388, .smcall { p := always, d := 2, a := 4, b := 6 })]
  ∀ e ∈ words, decodeTableWord e.1 e.2.1 = some e.2.2

/-- 02 R46, R51–R62: decoding and encoding agree. The words of a well-formed instruction decode to it at every address where it crosses no fetch line and its displacement is legal, whatever follows them; and
what decodes is well-formed and has those words alone. -/
def Obligations.DecodeEncode : Prop :=
  (∀ i : Instr, i.wellFormed = true → ∃ w, encode i = some w ∧ w < 2 ^ (8 * i.len) ∧ ∀ (pan : Bool) (addr k : Nat),
      addr % 32 + i.len ≤ 32 → dispOk addr i = true → (pan = true → ∀ r, i.toRaw = some r → panLacks r.maj = false) →
      decode pan addr (w + k * 2 ^ (8 * i.len)) = .ok i)
  ∧ ∀ (pan : Bool) (addr w : Nat) (i : Instr), decode pan addr w = .ok i → i.wellFormed = true ∧ dispOk addr i = true ∧ encode i = some (w % 2 ^ (8 * i.len))

/-- The machine never stops, and memory keeps its canonical form: from every state whose memory has it, a step answers a next state whose memory has it. (The model's own invariant; that there is a next
state rests on log entry 4 for the order of events.) -/
def Obligations.StepKeepsInv : Prop := ∀ s : State, Inv s → ∃ t, step s = .next t ∧ Inv t
end

