-- ==== Sys2Proof/Laws/Sparse.lean ====
section
/-! SUPPORT. Laws of the finite maps: reading after a write, and the canonical form. -/

namespace Sys2Proof.Machine

variable {α : Type}

theorem find_insert (k j : Nat) (x : α) (m : List (Nat × α)) :
    find j (insert k x m) = if j = k then some x else find j m := by
  induction m with
  | nil => simp [insert, find]
  | cons e t ih =>
    obtain ⟨i, y⟩ := e
    simp only [insert]
    split
    · simp [find]
    · split
      · next h => subst h; simp only [find]; split <;> rfl
      · next h1 h2 =>
        simp only [find, ih]
        split
        · next h => subst h; rw [if_neg (fun h => h2 h.symm)]
        · rfl

@[simp] theorem find_insert_self (k : Nat) (x : α) (m : List (Nat × α)) : find k (insert k x m) = some x := by
  simp [find_insert]

theorem find_insert_ne {k j : Nat} (h : j ≠ k) (x : α) (m : List (Nat × α)) : find j (insert k x m) = find j m := by
  simp [find_insert, h]

theorem find_filter_key (k : Nat) (p : Nat → Bool) (m : List (Nat × α)) :
    find k (m.filter fun e => p e.1) = if p k then find k m else none := by
  induction m with
  | nil => simp [find]
  | cons e t ih =>
    obtain ⟨i, y⟩ := e
    simp only [List.filter_cons]
    split
    · next h =>
      simp only [find, ih]
      split
      · next hk => subst hk; simp [h]
      · rfl
    · next h =>
      simp only [find, ih]
      split
      · rw [if_neg]; rintro rfl; contradiction
      · rfl

theorem find_erase (k j : Nat) (m : List (Nat × α)) : find j (erase k m) = if j = k then none else find j m := by
  unfold erase
  rw [find_filter_key j (fun i => i != k)]
  by_cases h : j = k <;> simp [h]

theorem find_adjust (k j : Nat) (f : α → α) (m : List (Nat × α)) :
    find j (adjust k f m) = if j = k then (find j m).map f else find j m := by
  induction m with
  | nil => simp [adjust, find]
  | cons e t ih =>
    obtain ⟨i, y⟩ := e
    simp only [adjust, List.map_cons] at ih ⊢
    by_cases hk : i = k
    · subst hk
      simp only [if_true, find, ih]
      split <;> simp_all
    · simp only [if_neg hk, find, ih]
      split
      · next h => subst h; simp [hk]
      · rfl

theorem find_map_snd (f : Nat → α → α) (j : Nat) (m : List (Nat × α)) :
    find j (m.map fun e => (e.1, f e.1 e.2)) = (find j m).map (f j) := by
  induction m with
  | nil => simp [find]
  | cons e t ih =>
    obtain ⟨i, y⟩ := e
    simp only [List.map_cons, find, ih]
    split
    · next h => subst h; rfl
    · rfl

theorem mem_insert {k : Nat} {x : α} {m : List (Nat × α)} {e : Nat × α} (h : e ∈ insert k x m) : e = (k, x) ∨ e ∈ m := by
  induction m with
  | nil => simpa [insert] using h
  | cons f t ih =>
    obtain ⟨i, y⟩ := f
    simp only [insert] at h
    split at h
    · simpa using h
    · split at h
      · rcases List.mem_cons.1 h with h | h
        · exact .inl h
        · exact .inr (List.mem_cons_of_mem _ h)
      · rcases List.mem_cons.1 h with h | h
        · exact .inr (h ▸ List.mem_cons_self ..)
        · exact (ih h).imp_right (List.mem_cons_of_mem _)

theorem rising_insert {k : Nat} {x : α} {m : List (Nat × α)} (h : m.Pairwise fun a b => a.1 < b.1) :
    (insert k x m).Pairwise fun a b => a.1 < b.1 := by
  induction m with
  | nil => simp [insert]
  | cons f t ih =>
    obtain ⟨i, y⟩ := f
    rw [List.pairwise_cons] at h
    simp only [insert]
    split
    · next hk =>
      refine List.pairwise_cons.2 ⟨fun e he => ?_, List.pairwise_cons.2 h⟩
      rcases List.mem_cons.1 he with rfl | he
      · exact hk
      · exact Nat.lt_trans hk (h.1 e he)
    · split
      · next hk => subst hk; exact List.pairwise_cons.2 ⟨h.1, h.2⟩
      · next h1 h2 =>
        refine List.pairwise_cons.2 ⟨fun e he => ?_, ih h.2⟩
        rcases mem_insert he with rfl | he
        · exact Nat.lt_of_le_of_ne (Nat.le_of_not_lt h1) (fun h => h2 h.symm)
        · exact h.1 e he

variable [DecidableEq α]

theorem getD_put (d : α) (k j : Nat) (x : α) (m : List (Nat × α)) :
    getD d (put d k x m) j = if j = k then x else getD d m j := by
  unfold getD put
  split
  · next h =>
    rw [find_erase]
    split
    · exact h.symm
    · rfl
  · rw [find_insert]
    split <;> rfl

@[simp] theorem getD_put_self (d : α) (k : Nat) (x : α) (m : List (Nat × α)) : getD d (put d k x m) k = x := by
  simp [getD_put]

theorem getD_put_ne {k j : Nat} (h : j ≠ k) (d x : α) (m : List (Nat × α)) : getD d (put d k x m) j = getD d m j := by
  simp [getD_put, h]

/-- A write keeps the canonical form of a map. -/
theorem canonical_put {d : α} {m : List (Nat × α)} (h : Canonical d m) (k : Nat) (x : α) : Canonical d (put d k x m) := by
  unfold put
  split
  · exact ⟨h.1.filter _, fun e he => h.2 e (List.mem_filter.1 he).1⟩
  · next hx =>
    refine ⟨rising_insert h.1, fun e he => ?_⟩
    rcases mem_insert he with rfl | he
    · exact hx
    · exact h.2 e he

end Sys2Proof.Machine
end

