-- ==== Sys2Proof/Laws/Memory.lean ====
section
/-! SUPPORT. Laws of memory: reading after a write, the canonical form, and writes of more than one byte. -/

namespace Sys2Proof.Machine

theorem memGet_memSet (m : Memory) (a c : Nat) (b : Byte) : memGet (memSet m a b) c = if c = a then b else memGet m c :=
  getD_put ..

@[simp] theorem memGet_memSet_self (m : Memory) (a : Nat) (b : Byte) : memGet (memSet m a b) a = b := by simp [memGet_memSet]

theorem memGet_memSet_ne {a c : Nat} (h : c ≠ a) (m : Memory) (b : Byte) : memGet (memSet m a b) c = memGet m c := by
  simp [memGet_memSet, h]

/-- Writing a byte keeps the canonical form of memory. -/
theorem memSet_wf {m : Memory} (h : Memory.wf m) (a : Nat) (b : Byte) : Memory.wf (memSet m a b) := canonical_put h a b

theorem foldl_memSet_wf {β : Type} (f : Memory → β → Memory) (hf : ∀ m b, Memory.wf m → Memory.wf (f m b)) (l : List β) :
    ∀ m, Memory.wf m → Memory.wf (l.foldl f m) := by
  induction l with
  | nil => exact fun _ h => h
  | cons b t ih => exact fun m h => ih _ (hf m b h)

theorem wrByte_wf {s : State} (h : Memory.wf s.mem) (tag pa : Nat) (b : Byte) : Memory.wf (s.wrByte tag pa b).mem := by
  unfold State.wrByte
  split
  · exact memSet_wf (foldl_memSet_wf _ (fun m a hm => memSet_wf hm a _) _ _ h) _ _
  · exact memSet_wf h _ _

/-- A write of one byte changes memory and the owner keys only. -/
theorem wrByte_rest (s : State) (tag pa : Nat) (b : Byte) :
    s.wrByte tag pa b = { s with mem := (s.wrByte tag pa b).mem, keys := (s.wrByte tag pa b).keys } := by
  unfold State.wrByte
  split <;> rfl

/-- A write of one byte leaves every other sector alone. -/
theorem memGet_wrByte_ne {a pa : Nat} (h : a / 32 ≠ pa / 32) (s : State) (tag : Nat) (b : Byte) :
    memGet (s.wrByte tag pa b).mem a = memGet s.mem a := by
  have ha : a ≠ pa := by rintro rfl; exact h rfl
  unfold State.wrByte
  split
  · have key : ∀ (l : List Nat) (m : Memory), (∀ c ∈ l, a ≠ c) →
        memGet (l.foldl (fun m c => memSet m c (s.rdByte tag c)) m) a = memGet m a := by
      intro l
      induction l with
      | nil => exact fun _ _ => rfl
      | cons c t ih => exact fun m hc => (ih _ fun d hd => hc d (.tail _ hd)).trans (memGet_memSet_ne (hc c (.head _)) ..)
    rw [memGet_memSet_ne ha]
    refine key _ _ fun c hc => ?_
    simp only [sectorAddrs, List.mem_map, List.mem_range] at hc
    obtain ⟨i, hi, rfl⟩ := hc
    omega
  · exact memGet_memSet_ne ha ..

theorem wrAll_wf {s : State} (h : Memory.wf s.mem) (l : List (Nat × Nat × Byte)) : Memory.wf (s.wrAll l).mem := by
  have key : ∀ (l : List (Nat × Nat × Byte)) (s : State), Memory.wf s.mem →
      Memory.wf (l.foldl (fun s e => State.wrByte s e.1 e.2.1 e.2.2) s).mem := by
    intro l
    induction l with
    | nil => exact fun _ h => h
    | cons e t ih => exact fun s h => ih _ (wrByte_wf h ..)
  exact key l s h

theorem wrBytes_wf {s : State} (h : Memory.wf s.mem) (tag pa : Nat) (bs : List Byte) : Memory.wf (s.wrBytes tag pa bs).mem :=
  wrAll_wf h ..

end Sys2Proof.Machine
end

