-- ==== Sys2Proof/Laws/State.lean ====
section
/-! SUPPORT. What each update of a part of the state leaves in each field. -/

namespace Sys2Proof.Machine

variable (s : State)

@[simp] theorem State.setNode_mem (k : Nat) (n : Node) : (s.setNode k n).mem = s.mem := rfl
@[simp] theorem State.setNode_keys (k : Nat) (n : Node) : (s.setNode k n).keys = s.keys := rfl
@[simp] theorem State.setNode_scratch (k : Nat) (n : Node) : (s.setNode k n).scratch = s.scratch := rfl
@[simp] theorem State.setNode_fe (k : Nat) (n : Node) : (s.setNode k n).fe = s.fe := rfl
@[simp] theorem State.setNode_runOwner (k : Nat) (n : Node) : (s.setNode k n).runOwner = s.runOwner := rfl
@[simp] theorem State.setNode_reassign (k : Nat) (n : Node) : (s.setNode k n).reassign = s.reassign := rfl
@[simp] theorem State.setNode_retiring (k : Nat) (n : Node) : (s.setNode k n).retiring = s.retiring := rfl
@[simp] theorem State.setNode_world (k : Nat) (n : Node) : (s.setNode k n).world = s.world := rfl
@[simp] theorem State.setNode_poison (k : Nat) (n : Node) : (s.setNode k n).poison = s.poison := rfl
@[simp] theorem State.setNode_ctxs (k : Nat) (n : Node) : (s.setNode k n).ctxs = s.ctxs := rfl
@[simp] theorem State.setNode_launches (k : Nat) (n : Node) : (s.setNode k n).launches = s.launches := rfl
@[simp] theorem State.setNode_nodes (k : Nat) (n : Node) : (s.setNode k n).nodes = insert k n s.nodes := rfl
@[simp] theorem State.setNode_warps (k : Nat) (n : Node) : (s.setNode k n).warps = s.warps := rfl
@[simp] theorem State.setNode_held (k : Nat) (n : Node) : (s.setNode k n).held = s.held := rfl
@[simp] theorem State.setNode_atomQ (k : Nat) (n : Node) : (s.setNode k n).atomQ = s.atomQ := rfl
@[simp] theorem State.setNode_atomRes (k : Nat) (n : Node) : (s.setNode k n).atomRes = s.atomRes := rfl
@[simp] theorem State.setNode_rakeQ (k : Nat) (n : Node) : (s.setNode k n).rakeQ = s.rakeQ := rfl
@[simp] theorem State.setNode_tabRes (k : Nat) (n : Node) : (s.setNode k n).tabRes = s.tabRes := rfl
@[simp] theorem State.setNode_fePend (k : Nat) (n : Node) : (s.setNode k n).fePend = s.fePend := rfl
@[simp] theorem State.setNode_tileQ (k : Nat) (n : Node) : (s.setNode k n).tileQ = s.tileQ := rfl
@[simp] theorem State.setNode_cmds (k : Nat) (n : Node) : (s.setNode k n).cmds = s.cmds := rfl
@[simp] theorem State.setNode_deques (k : Nat) (n : Node) : (s.setNode k n).deques = s.deques := rfl
@[simp] theorem State.setNode_probeDue (k : Nat) (n : Node) : (s.setNode k n).probeDue = s.probeDue := rfl
@[simp] theorem State.setNode_casts (k : Nat) (n : Node) : (s.setNode k n).casts = s.casts := rfl
@[simp] theorem State.setNode_ptrs (k : Nat) (n : Node) : (s.setNode k n).ptrs = s.ptrs := rfl
@[simp] theorem State.setNode_idle (k : Nat) (n : Node) : (s.setNode k n).idle = s.idle := rfl
@[simp] theorem State.setNode_ext (k : Nat) (n : Node) : (s.setNode k n).ext = s.ext := rfl
@[simp] theorem State.setNode_idleLim (k : Nat) (n : Node) : (s.setNode k n).idleLim = s.idleLim := rfl
@[simp] theorem State.setNode_extLim (k : Nat) (n : Node) : (s.setNode k n).extLim = s.extLim := rfl
@[simp] theorem State.setNode_views (k : Nat) (n : Node) : (s.setNode k n).views = s.views := rfl
@[simp] theorem State.setNode_settings (k : Nat) (n : Node) : (s.setNode k n).settings = s.settings := rfl
@[simp] theorem State.setNode_links (k : Nat) (n : Node) : (s.setNode k n).links = s.links := rfl
@[simp] theorem State.setNode_ports (k : Nat) (n : Node) : (s.setNode k n).ports = s.ports := rfl
@[simp] theorem State.setNode_drainRound (k : Nat) (n : Node) : (s.setNode k n).drainRound = s.drainRound := rfl
@[simp] theorem State.setNode_drainDue (k : Nat) (n : Node) : (s.setNode k n).drainDue = s.drainDue := rfl
@[simp] theorem State.setNode_settlings (k : Nat) (n : Node) : (s.setNode k n).settlings = s.settlings := rfl
@[simp] theorem State.setNode_remoteNext (k : Nat) (n : Node) : (s.setNode k n).remoteNext = s.remoteNext := rfl
@[simp] theorem State.setNode_remoteWait (k : Nat) (n : Node) : (s.setNode k n).remoteWait = s.remoteWait := rfl
@[simp] theorem State.setNode_homes (k : Nat) (n : Node) : (s.setNode k n).homes = s.homes := rfl
@[simp] theorem State.setNode_access (k : Nat) (n : Node) : (s.setNode k n).access = s.access := rfl
@[simp] theorem State.setNode_hints (k : Nat) (n : Node) : (s.setNode k n).hints = s.hints := rfl
@[simp] theorem State.setNode_blockRef (k : Nat) (n : Node) : (s.setNode k n).blockRef = s.blockRef := rfl
@[simp] theorem State.setNode_blockIpas (k : Nat) (n : Node) : (s.setNode k n).blockIpas = s.blockIpas := rfl
@[simp] theorem State.setNode_lent (k : Nat) (n : Node) : (s.setNode k n).lent = s.lent := rfl
@[simp] theorem State.setNode_ecc (k : Nat) (n : Node) : (s.setNode k n).ecc = s.ecc := rfl
@[simp] theorem State.setNode_ckpts (k : Nat) (n : Node) : (s.setNode k n).ckpts = s.ckpts := rfl
@[simp] theorem State.setNode_interrupts (k : Nat) (n : Node) : (s.setNode k n).interrupts = s.interrupts := rfl
@[simp] theorem State.setNode_replies (k : Nat) (n : Node) : (s.setNode k n).replies = s.replies := rfl
@[simp] theorem State.setNode_events (k : Nat) (n : Node) : (s.setNode k n).events = s.events := rfl
@[simp] theorem State.setNode_smc (k : Nat) (n : Node) : (s.setNode k n).smc = s.smc := rfl
@[simp] theorem State.setNode_now (k : Nat) (n : Node) : (s.setNode k n).now = s.now := rfl
@[simp] theorem State.setNode_hub (k : Nat) (n : Node) : (s.setNode k n).hub = s.hub := rfl
@[simp] theorem State.setNode_pan (k : Nat) (n : Node) : (s.setNode k n).pan = s.pan := rfl
@[simp] theorem State.setNode_inputs (k : Nat) (n : Node) : (s.setNode k n).inputs = s.inputs := rfl
@[simp] theorem State.setNode_late (k : Nat) (n : Node) : (s.setNode k n).late = s.late := rfl
@[simp] theorem State.setNode_fresh (k : Nat) (n : Node) : (s.setNode k n).fresh = s.fresh := rfl
@[simp] theorem State.setNode_cur (k : Nat) (n : Node) : (s.setNode k n).cur = s.cur := rfl
@[simp] theorem State.setNode_acted (k : Nat) (n : Node) : (s.setNode k n).acted = s.acted := rfl
@[simp] theorem State.setNode_nextId (k : Nat) (n : Node) : (s.setNode k n).nextId = s.nextId := rfl
@[simp] theorem State.setNode_nextDispatch (k : Nat) (n : Node) : (s.setNode k n).nextDispatch = s.nextDispatch := rfl
@[simp] theorem State.setNode_lastOut (k : Nat) (n : Node) : (s.setNode k n).lastOut = s.lastOut := rfl
@[simp] theorem State.setNode_lastServed (k : Nat) (n : Node) : (s.setNode k n).lastServed = s.lastServed := rfl
@[simp] theorem State.setNode_issues (k : Nat) (n : Node) : (s.setNode k n).issues = s.issues := rfl
@[simp] theorem State.setNode_meets (k : Nat) (n : Node) : (s.setNode k n).meets = s.meets := rfl

@[simp] theorem State.setWarp_mem (k : Nat) (w : Warp) : (s.setWarp k w).mem = s.mem := rfl
@[simp] theorem State.setWarp_keys (k : Nat) (w : Warp) : (s.setWarp k w).keys = s.keys := rfl
@[simp] theorem State.setWarp_scratch (k : Nat) (w : Warp) : (s.setWarp k w).scratch = s.scratch := rfl
@[simp] theorem State.setWarp_fe (k : Nat) (w : Warp) : (s.setWarp k w).fe = s.fe := rfl
@[simp] theorem State.setWarp_runOwner (k : Nat) (w : Warp) : (s.setWarp k w).runOwner = s.runOwner := rfl
@[simp] theorem State.setWarp_reassign (k : Nat) (w : Warp) : (s.setWarp k w).reassign = s.reassign := rfl
@[simp] theorem State.setWarp_retiring (k : Nat) (w : Warp) : (s.setWarp k w).retiring = s.retiring := rfl
@[simp] theorem State.setWarp_world (k : Nat) (w : Warp) : (s.setWarp k w).world = s.world := rfl
@[simp] theorem State.setWarp_poison (k : Nat) (w : Warp) : (s.setWarp k w).poison = s.poison := rfl
@[simp] theorem State.setWarp_ctxs (k : Nat) (w : Warp) : (s.setWarp k w).ctxs = s.ctxs := rfl
@[simp] theorem State.setWarp_launches (k : Nat) (w : Warp) : (s.setWarp k w).launches = s.launches := rfl
@[simp] theorem State.setWarp_nodes (k : Nat) (w : Warp) : (s.setWarp k w).nodes = s.nodes := rfl
@[simp] theorem State.setWarp_warps (k : Nat) (w : Warp) : (s.setWarp k w).warps = insert k w s.warps := rfl
@[simp] theorem State.setWarp_held (k : Nat) (w : Warp) : (s.setWarp k w).held = s.held := rfl
@[simp] theorem State.setWarp_atomQ (k : Nat) (w : Warp) : (s.setWarp k w).atomQ = s.atomQ := rfl
@[simp] theorem State.setWarp_atomRes (k : Nat) (w : Warp) : (s.setWarp k w).atomRes = s.atomRes := rfl
@[simp] theorem State.setWarp_rakeQ (k : Nat) (w : Warp) : (s.setWarp k w).rakeQ = s.rakeQ := rfl
@[simp] theorem State.setWarp_tabRes (k : Nat) (w : Warp) : (s.setWarp k w).tabRes = s.tabRes := rfl
@[simp] theorem State.setWarp_fePend (k : Nat) (w : Warp) : (s.setWarp k w).fePend = s.fePend := rfl
@[simp] theorem State.setWarp_tileQ (k : Nat) (w : Warp) : (s.setWarp k w).tileQ = s.tileQ := rfl
@[simp] theorem State.setWarp_cmds (k : Nat) (w : Warp) : (s.setWarp k w).cmds = s.cmds := rfl
@[simp] theorem State.setWarp_deques (k : Nat) (w : Warp) : (s.setWarp k w).deques = s.deques := rfl
@[simp] theorem State.setWarp_probeDue (k : Nat) (w : Warp) : (s.setWarp k w).probeDue = s.probeDue := rfl
@[simp] theorem State.setWarp_casts (k : Nat) (w : Warp) : (s.setWarp k w).casts = s.casts := rfl
@[simp] theorem State.setWarp_ptrs (k : Nat) (w : Warp) : (s.setWarp k w).ptrs = s.ptrs := rfl
@[simp] theorem State.setWarp_idle (k : Nat) (w : Warp) : (s.setWarp k w).idle = s.idle := rfl
@[simp] theorem State.setWarp_ext (k : Nat) (w : Warp) : (s.setWarp k w).ext = s.ext := rfl
@[simp] theorem State.setWarp_idleLim (k : Nat) (w : Warp) : (s.setWarp k w).idleLim = s.idleLim := rfl
@[simp] theorem State.setWarp_extLim (k : Nat) (w : Warp) : (s.setWarp k w).extLim = s.extLim := rfl
@[simp] theorem State.setWarp_views (k : Nat) (w : Warp) : (s.setWarp k w).views = s.views := rfl
@[simp] theorem State.setWarp_settings (k : Nat) (w : Warp) : (s.setWarp k w).settings = s.settings := rfl
@[simp] theorem State.setWarp_links (k : Nat) (w : Warp) : (s.setWarp k w).links = s.links := rfl
@[simp] theorem State.setWarp_ports (k : Nat) (w : Warp) : (s.setWarp k w).ports = s.ports := rfl
@[simp] theorem State.setWarp_drainRound (k : Nat) (w : Warp) : (s.setWarp k w).drainRound = s.drainRound := rfl
@[simp] theorem State.setWarp_drainDue (k : Nat) (w : Warp) : (s.setWarp k w).drainDue = s.drainDue := rfl
@[simp] theorem State.setWarp_settlings (k : Nat) (w : Warp) : (s.setWarp k w).settlings = s.settlings := rfl
@[simp] theorem State.setWarp_remoteNext (k : Nat) (w : Warp) : (s.setWarp k w).remoteNext = s.remoteNext := rfl
@[simp] theorem State.setWarp_remoteWait (k : Nat) (w : Warp) : (s.setWarp k w).remoteWait = s.remoteWait := rfl
@[simp] theorem State.setWarp_homes (k : Nat) (w : Warp) : (s.setWarp k w).homes = s.homes := rfl
@[simp] theorem State.setWarp_access (k : Nat) (w : Warp) : (s.setWarp k w).access = s.access := rfl
@[simp] theorem State.setWarp_hints (k : Nat) (w : Warp) : (s.setWarp k w).hints = s.hints := rfl
@[simp] theorem State.setWarp_blockRef (k : Nat) (w : Warp) : (s.setWarp k w).blockRef = s.blockRef := rfl
@[simp] theorem State.setWarp_blockIpas (k : Nat) (w : Warp) : (s.setWarp k w).blockIpas = s.blockIpas := rfl
@[simp] theorem State.setWarp_lent (k : Nat) (w : Warp) : (s.setWarp k w).lent = s.lent := rfl
@[simp] theorem State.setWarp_ecc (k : Nat) (w : Warp) : (s.setWarp k w).ecc = s.ecc := rfl
@[simp] theorem State.setWarp_ckpts (k : Nat) (w : Warp) : (s.setWarp k w).ckpts = s.ckpts := rfl
@[simp] theorem State.setWarp_interrupts (k : Nat) (w : Warp) : (s.setWarp k w).interrupts = s.interrupts := rfl
@[simp] theorem State.setWarp_replies (k : Nat) (w : Warp) : (s.setWarp k w).replies = s.replies := rfl
@[simp] theorem State.setWarp_events (k : Nat) (w : Warp) : (s.setWarp k w).events = s.events := rfl
@[simp] theorem State.setWarp_smc (k : Nat) (w : Warp) : (s.setWarp k w).smc = s.smc := rfl
@[simp] theorem State.setWarp_now (k : Nat) (w : Warp) : (s.setWarp k w).now = s.now := rfl
@[simp] theorem State.setWarp_hub (k : Nat) (w : Warp) : (s.setWarp k w).hub = s.hub := rfl
@[simp] theorem State.setWarp_pan (k : Nat) (w : Warp) : (s.setWarp k w).pan = s.pan := rfl
@[simp] theorem State.setWarp_inputs (k : Nat) (w : Warp) : (s.setWarp k w).inputs = s.inputs := rfl
@[simp] theorem State.setWarp_late (k : Nat) (w : Warp) : (s.setWarp k w).late = s.late := rfl
@[simp] theorem State.setWarp_fresh (k : Nat) (w : Warp) : (s.setWarp k w).fresh = s.fresh := rfl
@[simp] theorem State.setWarp_cur (k : Nat) (w : Warp) : (s.setWarp k w).cur = s.cur := rfl
@[simp] theorem State.setWarp_acted (k : Nat) (w : Warp) : (s.setWarp k w).acted = s.acted := rfl
@[simp] theorem State.setWarp_nextId (k : Nat) (w : Warp) : (s.setWarp k w).nextId = s.nextId := rfl
@[simp] theorem State.setWarp_nextDispatch (k : Nat) (w : Warp) : (s.setWarp k w).nextDispatch = s.nextDispatch := rfl
@[simp] theorem State.setWarp_lastOut (k : Nat) (w : Warp) : (s.setWarp k w).lastOut = s.lastOut := rfl
@[simp] theorem State.setWarp_lastServed (k : Nat) (w : Warp) : (s.setWarp k w).lastServed = s.lastServed := rfl
@[simp] theorem State.setWarp_issues (k : Nat) (w : Warp) : (s.setWarp k w).issues = s.issues := rfl
@[simp] theorem State.setWarp_meets (k : Nat) (w : Warp) : (s.setWarp k w).meets = s.meets := rfl

@[simp] theorem State.setLaunch_mem (k : Nat) (l : Launch) : (s.setLaunch k l).mem = s.mem := rfl
@[simp] theorem State.setLaunch_keys (k : Nat) (l : Launch) : (s.setLaunch k l).keys = s.keys := rfl
@[simp] theorem State.setLaunch_scratch (k : Nat) (l : Launch) : (s.setLaunch k l).scratch = s.scratch := rfl
@[simp] theorem State.setLaunch_fe (k : Nat) (l : Launch) : (s.setLaunch k l).fe = s.fe := rfl
@[simp] theorem State.setLaunch_runOwner (k : Nat) (l : Launch) : (s.setLaunch k l).runOwner = s.runOwner := rfl
@[simp] theorem State.setLaunch_reassign (k : Nat) (l : Launch) : (s.setLaunch k l).reassign = s.reassign := rfl
@[simp] theorem State.setLaunch_retiring (k : Nat) (l : Launch) : (s.setLaunch k l).retiring = s.retiring := rfl
@[simp] theorem State.setLaunch_world (k : Nat) (l : Launch) : (s.setLaunch k l).world = s.world := rfl
@[simp] theorem State.setLaunch_poison (k : Nat) (l : Launch) : (s.setLaunch k l).poison = s.poison := rfl
@[simp] theorem State.setLaunch_ctxs (k : Nat) (l : Launch) : (s.setLaunch k l).ctxs = s.ctxs := rfl
@[simp] theorem State.setLaunch_launches (k : Nat) (l : Launch) : (s.setLaunch k l).launches = insert k l s.launches := rfl
@[simp] theorem State.setLaunch_nodes (k : Nat) (l : Launch) : (s.setLaunch k l).nodes = s.nodes := rfl
@[simp] theorem State.setLaunch_warps (k : Nat) (l : Launch) : (s.setLaunch k l).warps = s.warps := rfl
@[simp] theorem State.setLaunch_held (k : Nat) (l : Launch) : (s.setLaunch k l).held = s.held := rfl
@[simp] theorem State.setLaunch_atomQ (k : Nat) (l : Launch) : (s.setLaunch k l).atomQ = s.atomQ := rfl
@[simp] theorem State.setLaunch_atomRes (k : Nat) (l : Launch) : (s.setLaunch k l).atomRes = s.atomRes := rfl
@[simp] theorem State.setLaunch_rakeQ (k : Nat) (l : Launch) : (s.setLaunch k l).rakeQ = s.rakeQ := rfl
@[simp] theorem State.setLaunch_tabRes (k : Nat) (l : Launch) : (s.setLaunch k l).tabRes = s.tabRes := rfl
@[simp] theorem State.setLaunch_fePend (k : Nat) (l : Launch) : (s.setLaunch k l).fePend = s.fePend := rfl
@[simp] theorem State.setLaunch_tileQ (k : Nat) (l : Launch) : (s.setLaunch k l).tileQ = s.tileQ := rfl
@[simp] theorem State.setLaunch_cmds (k : Nat) (l : Launch) : (s.setLaunch k l).cmds = s.cmds := rfl
@[simp] theorem State.setLaunch_deques (k : Nat) (l : Launch) : (s.setLaunch k l).deques = s.deques := rfl
@[simp] theorem State.setLaunch_probeDue (k : Nat) (l : Launch) : (s.setLaunch k l).probeDue = s.probeDue := rfl
@[simp] theorem State.setLaunch_casts (k : Nat) (l : Launch) : (s.setLaunch k l).casts = s.casts := rfl
@[simp] theorem State.setLaunch_ptrs (k : Nat) (l : Launch) : (s.setLaunch k l).ptrs = s.ptrs := rfl
@[simp] theorem State.setLaunch_idle (k : Nat) (l : Launch) : (s.setLaunch k l).idle = s.idle := rfl
@[simp] theorem State.setLaunch_ext (k : Nat) (l : Launch) : (s.setLaunch k l).ext = s.ext := rfl
@[simp] theorem State.setLaunch_idleLim (k : Nat) (l : Launch) : (s.setLaunch k l).idleLim = s.idleLim := rfl
@[simp] theorem State.setLaunch_extLim (k : Nat) (l : Launch) : (s.setLaunch k l).extLim = s.extLim := rfl
@[simp] theorem State.setLaunch_views (k : Nat) (l : Launch) : (s.setLaunch k l).views = s.views := rfl
@[simp] theorem State.setLaunch_settings (k : Nat) (l : Launch) : (s.setLaunch k l).settings = s.settings := rfl
@[simp] theorem State.setLaunch_links (k : Nat) (l : Launch) : (s.setLaunch k l).links = s.links := rfl
@[simp] theorem State.setLaunch_ports (k : Nat) (l : Launch) : (s.setLaunch k l).ports = s.ports := rfl
@[simp] theorem State.setLaunch_drainRound (k : Nat) (l : Launch) : (s.setLaunch k l).drainRound = s.drainRound := rfl
@[simp] theorem State.setLaunch_drainDue (k : Nat) (l : Launch) : (s.setLaunch k l).drainDue = s.drainDue := rfl
@[simp] theorem State.setLaunch_settlings (k : Nat) (l : Launch) : (s.setLaunch k l).settlings = s.settlings := rfl
@[simp] theorem State.setLaunch_remoteNext (k : Nat) (l : Launch) : (s.setLaunch k l).remoteNext = s.remoteNext := rfl
@[simp] theorem State.setLaunch_remoteWait (k : Nat) (l : Launch) : (s.setLaunch k l).remoteWait = s.remoteWait := rfl
@[simp] theorem State.setLaunch_homes (k : Nat) (l : Launch) : (s.setLaunch k l).homes = s.homes := rfl
@[simp] theorem State.setLaunch_access (k : Nat) (l : Launch) : (s.setLaunch k l).access = s.access := rfl
@[simp] theorem State.setLaunch_hints (k : Nat) (l : Launch) : (s.setLaunch k l).hints = s.hints := rfl
@[simp] theorem State.setLaunch_blockRef (k : Nat) (l : Launch) : (s.setLaunch k l).blockRef = s.blockRef := rfl
@[simp] theorem State.setLaunch_blockIpas (k : Nat) (l : Launch) : (s.setLaunch k l).blockIpas = s.blockIpas := rfl
@[simp] theorem State.setLaunch_lent (k : Nat) (l : Launch) : (s.setLaunch k l).lent = s.lent := rfl
@[simp] theorem State.setLaunch_ecc (k : Nat) (l : Launch) : (s.setLaunch k l).ecc = s.ecc := rfl
@[simp] theorem State.setLaunch_ckpts (k : Nat) (l : Launch) : (s.setLaunch k l).ckpts = s.ckpts := rfl
@[simp] theorem State.setLaunch_interrupts (k : Nat) (l : Launch) : (s.setLaunch k l).interrupts = s.interrupts := rfl
@[simp] theorem State.setLaunch_replies (k : Nat) (l : Launch) : (s.setLaunch k l).replies = s.replies := rfl
@[simp] theorem State.setLaunch_events (k : Nat) (l : Launch) : (s.setLaunch k l).events = s.events := rfl
@[simp] theorem State.setLaunch_smc (k : Nat) (l : Launch) : (s.setLaunch k l).smc = s.smc := rfl
@[simp] theorem State.setLaunch_now (k : Nat) (l : Launch) : (s.setLaunch k l).now = s.now := rfl
@[simp] theorem State.setLaunch_hub (k : Nat) (l : Launch) : (s.setLaunch k l).hub = s.hub := rfl
@[simp] theorem State.setLaunch_pan (k : Nat) (l : Launch) : (s.setLaunch k l).pan = s.pan := rfl
@[simp] theorem State.setLaunch_inputs (k : Nat) (l : Launch) : (s.setLaunch k l).inputs = s.inputs := rfl
@[simp] theorem State.setLaunch_late (k : Nat) (l : Launch) : (s.setLaunch k l).late = s.late := rfl
@[simp] theorem State.setLaunch_fresh (k : Nat) (l : Launch) : (s.setLaunch k l).fresh = s.fresh := rfl
@[simp] theorem State.setLaunch_cur (k : Nat) (l : Launch) : (s.setLaunch k l).cur = s.cur := rfl
@[simp] theorem State.setLaunch_acted (k : Nat) (l : Launch) : (s.setLaunch k l).acted = s.acted := rfl
@[simp] theorem State.setLaunch_nextId (k : Nat) (l : Launch) : (s.setLaunch k l).nextId = s.nextId := rfl
@[simp] theorem State.setLaunch_nextDispatch (k : Nat) (l : Launch) : (s.setLaunch k l).nextDispatch = s.nextDispatch := rfl
@[simp] theorem State.setLaunch_lastOut (k : Nat) (l : Launch) : (s.setLaunch k l).lastOut = s.lastOut := rfl
@[simp] theorem State.setLaunch_lastServed (k : Nat) (l : Launch) : (s.setLaunch k l).lastServed = s.lastServed := rfl
@[simp] theorem State.setLaunch_issues (k : Nat) (l : Launch) : (s.setLaunch k l).issues = s.issues := rfl
@[simp] theorem State.setLaunch_meets (k : Nat) (l : Launch) : (s.setLaunch k l).meets = s.meets := rfl

@[simp] theorem State.setCtx_mem (k : Nat) (c : Ctx) : (s.setCtx k c).mem = s.mem := rfl
@[simp] theorem State.setCtx_keys (k : Nat) (c : Ctx) : (s.setCtx k c).keys = s.keys := rfl
@[simp] theorem State.setCtx_scratch (k : Nat) (c : Ctx) : (s.setCtx k c).scratch = s.scratch := rfl
@[simp] theorem State.setCtx_fe (k : Nat) (c : Ctx) : (s.setCtx k c).fe = s.fe := rfl
@[simp] theorem State.setCtx_runOwner (k : Nat) (c : Ctx) : (s.setCtx k c).runOwner = s.runOwner := rfl
@[simp] theorem State.setCtx_reassign (k : Nat) (c : Ctx) : (s.setCtx k c).reassign = s.reassign := rfl
@[simp] theorem State.setCtx_retiring (k : Nat) (c : Ctx) : (s.setCtx k c).retiring = s.retiring := rfl
@[simp] theorem State.setCtx_world (k : Nat) (c : Ctx) : (s.setCtx k c).world = s.world := rfl
@[simp] theorem State.setCtx_poison (k : Nat) (c : Ctx) : (s.setCtx k c).poison = s.poison := rfl
@[simp] theorem State.setCtx_ctxs (k : Nat) (c : Ctx) : (s.setCtx k c).ctxs = insert k c s.ctxs := rfl
@[simp] theorem State.setCtx_launches (k : Nat) (c : Ctx) : (s.setCtx k c).launches = s.launches := rfl
@[simp] theorem State.setCtx_nodes (k : Nat) (c : Ctx) : (s.setCtx k c).nodes = s.nodes := rfl
@[simp] theorem State.setCtx_warps (k : Nat) (c : Ctx) : (s.setCtx k c).warps = s.warps := rfl
@[simp] theorem State.setCtx_held (k : Nat) (c : Ctx) : (s.setCtx k c).held = s.held := rfl
@[simp] theorem State.setCtx_atomQ (k : Nat) (c : Ctx) : (s.setCtx k c).atomQ = s.atomQ := rfl
@[simp] theorem State.setCtx_atomRes (k : Nat) (c : Ctx) : (s.setCtx k c).atomRes = s.atomRes := rfl
@[simp] theorem State.setCtx_rakeQ (k : Nat) (c : Ctx) : (s.setCtx k c).rakeQ = s.rakeQ := rfl
@[simp] theorem State.setCtx_tabRes (k : Nat) (c : Ctx) : (s.setCtx k c).tabRes = s.tabRes := rfl
@[simp] theorem State.setCtx_fePend (k : Nat) (c : Ctx) : (s.setCtx k c).fePend = s.fePend := rfl
@[simp] theorem State.setCtx_tileQ (k : Nat) (c : Ctx) : (s.setCtx k c).tileQ = s.tileQ := rfl
@[simp] theorem State.setCtx_cmds (k : Nat) (c : Ctx) : (s.setCtx k c).cmds = s.cmds := rfl
@[simp] theorem State.setCtx_deques (k : Nat) (c : Ctx) : (s.setCtx k c).deques = s.deques := rfl
@[simp] theorem State.setCtx_probeDue (k : Nat) (c : Ctx) : (s.setCtx k c).probeDue = s.probeDue := rfl
@[simp] theorem State.setCtx_casts (k : Nat) (c : Ctx) : (s.setCtx k c).casts = s.casts := rfl
@[simp] theorem State.setCtx_ptrs (k : Nat) (c : Ctx) : (s.setCtx k c).ptrs = s.ptrs := rfl
@[simp] theorem State.setCtx_idle (k : Nat) (c : Ctx) : (s.setCtx k c).idle = s.idle := rfl
@[simp] theorem State.setCtx_ext (k : Nat) (c : Ctx) : (s.setCtx k c).ext = s.ext := rfl
@[simp] theorem State.setCtx_idleLim (k : Nat) (c : Ctx) : (s.setCtx k c).idleLim = s.idleLim := rfl
@[simp] theorem State.setCtx_extLim (k : Nat) (c : Ctx) : (s.setCtx k c).extLim = s.extLim := rfl
@[simp] theorem State.setCtx_views (k : Nat) (c : Ctx) : (s.setCtx k c).views = s.views := rfl
@[simp] theorem State.setCtx_settings (k : Nat) (c : Ctx) : (s.setCtx k c).settings = s.settings := rfl
@[simp] theorem State.setCtx_links (k : Nat) (c : Ctx) : (s.setCtx k c).links = s.links := rfl
@[simp] theorem State.setCtx_ports (k : Nat) (c : Ctx) : (s.setCtx k c).ports = s.ports := rfl
@[simp] theorem State.setCtx_drainRound (k : Nat) (c : Ctx) : (s.setCtx k c).drainRound = s.drainRound := rfl
@[simp] theorem State.setCtx_drainDue (k : Nat) (c : Ctx) : (s.setCtx k c).drainDue = s.drainDue := rfl
@[simp] theorem State.setCtx_settlings (k : Nat) (c : Ctx) : (s.setCtx k c).settlings = s.settlings := rfl
@[simp] theorem State.setCtx_remoteNext (k : Nat) (c : Ctx) : (s.setCtx k c).remoteNext = s.remoteNext := rfl
@[simp] theorem State.setCtx_remoteWait (k : Nat) (c : Ctx) : (s.setCtx k c).remoteWait = s.remoteWait := rfl
@[simp] theorem State.setCtx_homes (k : Nat) (c : Ctx) : (s.setCtx k c).homes = s.homes := rfl
@[simp] theorem State.setCtx_access (k : Nat) (c : Ctx) : (s.setCtx k c).access = s.access := rfl
@[simp] theorem State.setCtx_hints (k : Nat) (c : Ctx) : (s.setCtx k c).hints = s.hints := rfl
@[simp] theorem State.setCtx_blockRef (k : Nat) (c : Ctx) : (s.setCtx k c).blockRef = s.blockRef := rfl
@[simp] theorem State.setCtx_blockIpas (k : Nat) (c : Ctx) : (s.setCtx k c).blockIpas = s.blockIpas := rfl
@[simp] theorem State.setCtx_lent (k : Nat) (c : Ctx) : (s.setCtx k c).lent = s.lent := rfl
@[simp] theorem State.setCtx_ecc (k : Nat) (c : Ctx) : (s.setCtx k c).ecc = s.ecc := rfl
@[simp] theorem State.setCtx_ckpts (k : Nat) (c : Ctx) : (s.setCtx k c).ckpts = s.ckpts := rfl
@[simp] theorem State.setCtx_interrupts (k : Nat) (c : Ctx) : (s.setCtx k c).interrupts = s.interrupts := rfl
@[simp] theorem State.setCtx_replies (k : Nat) (c : Ctx) : (s.setCtx k c).replies = s.replies := rfl
@[simp] theorem State.setCtx_events (k : Nat) (c : Ctx) : (s.setCtx k c).events = s.events := rfl
@[simp] theorem State.setCtx_smc (k : Nat) (c : Ctx) : (s.setCtx k c).smc = s.smc := rfl
@[simp] theorem State.setCtx_now (k : Nat) (c : Ctx) : (s.setCtx k c).now = s.now := rfl
@[simp] theorem State.setCtx_hub (k : Nat) (c : Ctx) : (s.setCtx k c).hub = s.hub := rfl
@[simp] theorem State.setCtx_pan (k : Nat) (c : Ctx) : (s.setCtx k c).pan = s.pan := rfl
@[simp] theorem State.setCtx_inputs (k : Nat) (c : Ctx) : (s.setCtx k c).inputs = s.inputs := rfl
@[simp] theorem State.setCtx_late (k : Nat) (c : Ctx) : (s.setCtx k c).late = s.late := rfl
@[simp] theorem State.setCtx_fresh (k : Nat) (c : Ctx) : (s.setCtx k c).fresh = s.fresh := rfl
@[simp] theorem State.setCtx_cur (k : Nat) (c : Ctx) : (s.setCtx k c).cur = s.cur := rfl
@[simp] theorem State.setCtx_acted (k : Nat) (c : Ctx) : (s.setCtx k c).acted = s.acted := rfl
@[simp] theorem State.setCtx_nextId (k : Nat) (c : Ctx) : (s.setCtx k c).nextId = s.nextId := rfl
@[simp] theorem State.setCtx_nextDispatch (k : Nat) (c : Ctx) : (s.setCtx k c).nextDispatch = s.nextDispatch := rfl
@[simp] theorem State.setCtx_lastOut (k : Nat) (c : Ctx) : (s.setCtx k c).lastOut = s.lastOut := rfl
@[simp] theorem State.setCtx_lastServed (k : Nat) (c : Ctx) : (s.setCtx k c).lastServed = s.lastServed := rfl
@[simp] theorem State.setCtx_issues (k : Nat) (c : Ctx) : (s.setCtx k c).issues = s.issues := rfl
@[simp] theorem State.setCtx_meets (k : Nat) (c : Ctx) : (s.setCtx k c).meets = s.meets := rfl

@[simp] theorem State.setChan_mem (lk c : Nat) (es : List (List W32)) : (s.setChan lk c es).mem = s.mem := rfl
@[simp] theorem State.setChan_keys (lk c : Nat) (es : List (List W32)) : (s.setChan lk c es).keys = s.keys := rfl
@[simp] theorem State.setChan_scratch (lk c : Nat) (es : List (List W32)) : (s.setChan lk c es).scratch = s.scratch := rfl
@[simp] theorem State.setChan_fe (lk c : Nat) (es : List (List W32)) : (s.setChan lk c es).fe = s.fe := rfl
@[simp] theorem State.setChan_runOwner (lk c : Nat) (es : List (List W32)) : (s.setChan lk c es).runOwner = s.runOwner := rfl
@[simp] theorem State.setChan_reassign (lk c : Nat) (es : List (List W32)) : (s.setChan lk c es).reassign = s.reassign := rfl
@[simp] theorem State.setChan_retiring (lk c : Nat) (es : List (List W32)) : (s.setChan lk c es).retiring = s.retiring := rfl
@[simp] theorem State.setChan_world (lk c : Nat) (es : List (List W32)) : (s.setChan lk c es).world = s.world := rfl
@[simp] theorem State.setChan_poison (lk c : Nat) (es : List (List W32)) : (s.setChan lk c es).poison = s.poison := rfl
@[simp] theorem State.setChan_ctxs (lk c : Nat) (es : List (List W32)) : (s.setChan lk c es).ctxs = s.ctxs := rfl
@[simp] theorem State.setChan_launches (lk c : Nat) (es : List (List W32)) : (s.setChan lk c es).launches = adjust lk (fun l => { l with channels := insert c { entries := es } l.channels }) s.launches := rfl
@[simp] theorem State.setChan_nodes (lk c : Nat) (es : List (List W32)) : (s.setChan lk c es).nodes = s.nodes := rfl
@[simp] theorem State.setChan_warps (lk c : Nat) (es : List (List W32)) : (s.setChan lk c es).warps = s.warps := rfl
@[simp] theorem State.setChan_held (lk c : Nat) (es : List (List W32)) : (s.setChan lk c es).held = s.held := rfl
@[simp] theorem State.setChan_atomQ (lk c : Nat) (es : List (List W32)) : (s.setChan lk c es).atomQ = s.atomQ := rfl
@[simp] theorem State.setChan_atomRes (lk c : Nat) (es : List (List W32)) : (s.setChan lk c es).atomRes = s.atomRes := rfl
@[simp] theorem State.setChan_rakeQ (lk c : Nat) (es : List (List W32)) : (s.setChan lk c es).rakeQ = s.rakeQ := rfl
@[simp] theorem State.setChan_tabRes (lk c : Nat) (es : List (List W32)) : (s.setChan lk c es).tabRes = s.tabRes := rfl
@[simp] theorem State.setChan_fePend (lk c : Nat) (es : List (List W32)) : (s.setChan lk c es).fePend = s.fePend := rfl
@[simp] theorem State.setChan_tileQ (lk c : Nat) (es : List (List W32)) : (s.setChan lk c es).tileQ = s.tileQ := rfl
@[simp] theorem State.setChan_cmds (lk c : Nat) (es : List (List W32)) : (s.setChan lk c es).cmds = s.cmds := rfl
@[simp] theorem State.setChan_deques (lk c : Nat) (es : List (List W32)) : (s.setChan lk c es).deques = s.deques := rfl
@[simp] theorem State.setChan_probeDue (lk c : Nat) (es : List (List W32)) : (s.setChan lk c es).probeDue = s.probeDue := rfl
@[simp] theorem State.setChan_casts (lk c : Nat) (es : List (List W32)) : (s.setChan lk c es).casts = s.casts := rfl
@[simp] theorem State.setChan_ptrs (lk c : Nat) (es : List (List W32)) : (s.setChan lk c es).ptrs = s.ptrs := rfl
@[simp] theorem State.setChan_idle (lk c : Nat) (es : List (List W32)) : (s.setChan lk c es).idle = s.idle := rfl
@[simp] theorem State.setChan_ext (lk c : Nat) (es : List (List W32)) : (s.setChan lk c es).ext = s.ext := rfl
@[simp] theorem State.setChan_idleLim (lk c : Nat) (es : List (List W32)) : (s.setChan lk c es).idleLim = s.idleLim := rfl
@[simp] theorem State.setChan_extLim (lk c : Nat) (es : List (List W32)) : (s.setChan lk c es).extLim = s.extLim := rfl
@[simp] theorem State.setChan_views (lk c : Nat) (es : List (List W32)) : (s.setChan lk c es).views = s.views := rfl
@[simp] theorem State.setChan_settings (lk c : Nat) (es : List (List W32)) : (s.setChan lk c es).settings = s.settings := rfl
@[simp] theorem State.setChan_links (lk c : Nat) (es : List (List W32)) : (s.setChan lk c es).links = s.links := rfl
@[simp] theorem State.setChan_ports (lk c : Nat) (es : List (List W32)) : (s.setChan lk c es).ports = s.ports := rfl
@[simp] theorem State.setChan_drainRound (lk c : Nat) (es : List (List W32)) : (s.setChan lk c es).drainRound = s.drainRound := rfl
@[simp] theorem State.setChan_drainDue (lk c : Nat) (es : List (List W32)) : (s.setChan lk c es).drainDue = s.drainDue := rfl
@[simp] theorem State.setChan_settlings (lk c : Nat) (es : List (List W32)) : (s.setChan lk c es).settlings = s.settlings := rfl
@[simp] theorem State.setChan_remoteNext (lk c : Nat) (es : List (List W32)) : (s.setChan lk c es).remoteNext = s.remoteNext := rfl
@[simp] theorem State.setChan_remoteWait (lk c : Nat) (es : List (List W32)) : (s.setChan lk c es).remoteWait = s.remoteWait := rfl
@[simp] theorem State.setChan_homes (lk c : Nat) (es : List (List W32)) : (s.setChan lk c es).homes = s.homes := rfl
@[simp] theorem State.setChan_access (lk c : Nat) (es : List (List W32)) : (s.setChan lk c es).access = s.access := rfl
@[simp] theorem State.setChan_hints (lk c : Nat) (es : List (List W32)) : (s.setChan lk c es).hints = s.hints := rfl
@[simp] theorem State.setChan_blockRef (lk c : Nat) (es : List (List W32)) : (s.setChan lk c es).blockRef = s.blockRef := rfl
@[simp] theorem State.setChan_blockIpas (lk c : Nat) (es : List (List W32)) : (s.setChan lk c es).blockIpas = s.blockIpas := rfl
@[simp] theorem State.setChan_lent (lk c : Nat) (es : List (List W32)) : (s.setChan lk c es).lent = s.lent := rfl
@[simp] theorem State.setChan_ecc (lk c : Nat) (es : List (List W32)) : (s.setChan lk c es).ecc = s.ecc := rfl
@[simp] theorem State.setChan_ckpts (lk c : Nat) (es : List (List W32)) : (s.setChan lk c es).ckpts = s.ckpts := rfl
@[simp] theorem State.setChan_interrupts (lk c : Nat) (es : List (List W32)) : (s.setChan lk c es).interrupts = s.interrupts := rfl
@[simp] theorem State.setChan_replies (lk c : Nat) (es : List (List W32)) : (s.setChan lk c es).replies = s.replies := rfl
@[simp] theorem State.setChan_events (lk c : Nat) (es : List (List W32)) : (s.setChan lk c es).events = s.events := rfl
@[simp] theorem State.setChan_smc (lk c : Nat) (es : List (List W32)) : (s.setChan lk c es).smc = s.smc := rfl
@[simp] theorem State.setChan_now (lk c : Nat) (es : List (List W32)) : (s.setChan lk c es).now = s.now := rfl
@[simp] theorem State.setChan_hub (lk c : Nat) (es : List (List W32)) : (s.setChan lk c es).hub = s.hub := rfl
@[simp] theorem State.setChan_pan (lk c : Nat) (es : List (List W32)) : (s.setChan lk c es).pan = s.pan := rfl
@[simp] theorem State.setChan_inputs (lk c : Nat) (es : List (List W32)) : (s.setChan lk c es).inputs = s.inputs := rfl
@[simp] theorem State.setChan_late (lk c : Nat) (es : List (List W32)) : (s.setChan lk c es).late = s.late := rfl
@[simp] theorem State.setChan_fresh (lk c : Nat) (es : List (List W32)) : (s.setChan lk c es).fresh = s.fresh := rfl
@[simp] theorem State.setChan_cur (lk c : Nat) (es : List (List W32)) : (s.setChan lk c es).cur = s.cur := rfl
@[simp] theorem State.setChan_acted (lk c : Nat) (es : List (List W32)) : (s.setChan lk c es).acted = s.acted := rfl
@[simp] theorem State.setChan_nextId (lk c : Nat) (es : List (List W32)) : (s.setChan lk c es).nextId = s.nextId := rfl
@[simp] theorem State.setChan_nextDispatch (lk c : Nat) (es : List (List W32)) : (s.setChan lk c es).nextDispatch = s.nextDispatch := rfl
@[simp] theorem State.setChan_lastOut (lk c : Nat) (es : List (List W32)) : (s.setChan lk c es).lastOut = s.lastOut := rfl
@[simp] theorem State.setChan_lastServed (lk c : Nat) (es : List (List W32)) : (s.setChan lk c es).lastServed = s.lastServed := rfl
@[simp] theorem State.setChan_issues (lk c : Nat) (es : List (List W32)) : (s.setChan lk c es).issues = s.issues := rfl
@[simp] theorem State.setChan_meets (lk c : Nat) (es : List (List W32)) : (s.setChan lk c es).meets = s.meets := rfl

end Sys2Proof.Machine
end

