-- ==== Sys2Proof/Laws/Issue.lean ====
section
/-! SUPPORT. Laws of the issue of one instruction: what its beginning fixes, when it takes its effect, and what its end leaves of
the warp and of the device. -/

namespace Sys2Proof.Machine

open Issue

/-! ### The beginning of an issue -/

/-- What an issue begins with. -/
theorem start_facts {s : State} {i : Instr} {p : Pred} {x : Issue} (h : s.start i p = some x) :
    s.cur = some x.wk ∧ x.s = s ∧ x.i = i ∧ x.popped = [] ∧ x.outs = [] ∧ x.traps = [] ∧ x.parks = [] ∧ x.gcall = none
      ∧ x.kill = none ∧ x.emits = [] ∧ x.wait = false := by
  unfold State.start at h
  simp only [Option.bind_eq_some_iff, Option.map_eq_some_iff] at h
  obtain ⟨wk, hc, w, _, n, _, pc, _, rfl⟩ := h
  exact ⟨hc, rfl, rfl, rfl, rfl, rfl, rfl, rfl, rfl, rfl, rfl⟩

/-! ### When an instruction takes its effect -/

/-- Whatever holds an issue back at the scoreboard holds it back. -/
theorem blocked_of_held {x : Issue} (h : x.held = false) : x.blocked = false := by
  simp only [Issue.held, Issue.stalled, Bool.or_eq_false_iff] at h
  exact h.1.1.1

/-- An instruction that no level restricts passes the privilege check. -/
theorem denied_none {x : Issue} (hl : levelOf x.i = 0) (hc : csrOf x.i = none) : x.denied = none := by
  simp [Issue.denied, hl, hc]

/-- At the level that it requires, an instruction passes the privilege check. -/
theorem denied_level {x : Issue} (hl : levelOf x.i ≤ x.lvl) (hc : ∀ n, csrOf x.i = some n → csrLevel n ≤ x.lvl) :
    x.denied = none := by
  unfold Issue.denied
  split
  · rfl
  · rw [if_neg (by omega)]
    split
    · exact if_neg (by have := hc _ ‹_›; omega)
    · rfl

/-- An issue that meets no obstacle outside a REDUNDANT node, at the level it requires, is the effect of its instruction. -/
theorem issueThen_next {s : State} {i : Instr} {p : Pred} {x : Issue} {body : Issue → Issue} {post : Issue → State → State}
    (hs : s.start i p = some x) (hh : x.held = false) (hu : (x.once && x.unbound) = false) (hp : x.readsPoison p = false)
    (hr : x.red = false) (hd : x.denied = none) (hw : (body x.takePorts).wait = false) :
    s.issueThen i p body post = .next (post (body x.takePorts).clearPoison (body x.takePorts).clearPoison.finish) := by
  have hw' : (body x.takePorts).clearPoison.wait = false := by
    unfold Issue.clearPoison; split
    · exact hw
    · exact hw
  simp [State.issueThen, Issue.close, blocked_of_held hh, hs, hh, hu, hp, hr, hd, hw']

/-! ### What the end of an issue leaves of the warp -/

namespace Warp

theorem SameRegs.refl (w : Warp) : w.SameRegs w := ⟨rfl, rfl, fun _ => rfl⟩

theorem SameRegs.trans {a b c : Warp} (h : a.SameRegs b) (k : b.SameRegs c) : a.SameRegs c := by
  obtain ⟨h1, h2, h3⟩ := h
  obtain ⟨k1, k2, k3⟩ := k
  refine ⟨by rw [h1, k1], h2.trans k2, fun l => ?_⟩
  rw [h3 l, k3 l]

end Warp

variable {w y : Warp} (h : w.SameRegs y)
include h

theorem Warp.SameRegs.rdReg (c : Cls) (r l : Nat) : w.rdReg c r l = y.rdReg c r l := by rw [h.rest]; rfl
theorem Warp.SameRegs.vreg : w.vreg = y.vreg := by rw [h.rest]; rfl
theorem Warp.SameRegs.sreg : w.sreg = y.sreg := by rw [h.rest]; rfl
theorem Warp.SameRegs.mreg : w.mreg = y.mreg := by rw [h.rest]; rfl
theorem Warp.SameRegs.pc (l : Nat) : (w.lane l).pc = (y.lane l).pc := by rw [h.lanes l]
theorem Warp.SameRegs.fflags (l : Nat) : (w.lane l).fflags = (y.lane l).fflags := by rw [h.lanes l]

omit h

theorem length_mapFrom {α : Type} (f : Nat → α → α) (k : Nat) (l : List α) : (mapFrom f k l).length = l.length := by
  induction l generalizing k with
  | nil => rfl
  | cons a t ih => simp [mapFrom, ih]

theorem getD_mapFrom {α : Type} (f : Nat → α → α) (k i : Nat) (l : List α) (d : α) :
    (mapFrom f k l).getD i d = if i < l.length then f (k + i) (l.getD i d) else d := by
  induction l generalizing k i with
  | nil => simp [mapFrom]
  | cons a t ih =>
    cases i with
    | zero => simp [mapFrom]
    | succ i => simp only [mapFrom, List.getD_cons_succ, ih, List.length_cons, Nat.add_lt_add_iff_right]; rw [show k + 1 + i = k + (i + 1) by omega]

/-- A lane after a change of the lanes that `p` selects. -/
theorem Warp.lane_onLanes (w : Warp) (p : Nat → Bool) (f : Lane → Lane) (l : Nat) :
    (w.onLanes p f).lane l = if l < w.lanes.length ∧ p l = true then f (w.lane l) else w.lane l := by
  unfold Warp.onLanes Warp.lane
  rw [getD_mapFrom]
  simp only [Nat.zero_add]
  by_cases h : l < w.lanes.length
  · by_cases hp : p l = true <;> simp [h, hp]
  · simp [h, List.getD_eq_getElem?_getD]

theorem Warp.length_onLanes (w : Warp) (p : Nat → Bool) (f : Lane → Lane) : (w.onLanes p f).lanes.length = w.lanes.length :=
  length_mapFrom ..

theorem Warp.sameRegs_onLanes {w : Warp} {p : Nat → Bool} {f : Lane → Lane}
    (hf : ∀ y, f y = { y with st := (f y).st, wait := (f y).wait, frag := (f y).frag }) : (w.onLanes p f).SameRegs w := by
  refine ⟨rfl, w.length_onLanes p f, fun l => ?_⟩
  rw [Warp.lane_onLanes]
  split
  · exact hf _
  · rfl

theorem Warp.sameRegs_frags (w : Warp) (fs : List Frag) : ({ w with frags := fs } : Warp).SameRegs w := ⟨rfl, rfl, fun _ => rfl⟩

theorem Warp.sameRegs_setFrag (w : Warp) (g : Frag) : (w.setFrag g).SameRegs w := w.sameRegs_frags _

theorem Warp.sameRegs_dropFrag (w : Warp) (f : Nat) : (w.dropFrag f).SameRegs w := w.sameRegs_frags _

theorem Warp.sameRegs_dissolve (w : Warp) : w.dissolve.SameRegs w := by
  unfold Warp.dissolve
  generalize w.frags = l
  suffices ∀ w' : Warp, w'.SameRegs w → (l.foldl (fun w' g => if (w'.fragLanes g.id).isEmpty then w'.dropFrag g.id else w') w').SameRegs w
    from this w (.refl w)
  induction l with
  | nil => exact fun _ h => h
  | cons g t ih =>
    intro w' h
    rw [List.foldl_cons]
    apply ih
    split
    · exact (w'.sameRegs_dropFrag _).trans h
    · exact h

theorem sameRegs_releaseMask (w : Warp) (m : Nat) : (releaseMask w m).SameRegs w := by
  unfold releaseMask
  simp only
  split
  · exact (Warp.sameRegs_dissolve _).trans (Warp.sameRegs_onLanes fun _ => rfl)
  · exact .refl w

theorem sameRegs_releaseMasks (w : Warp) : (releaseMasks w).SameRegs w := by
  unfold releaseMasks
  generalize List.range 12 = l
  suffices ∀ w' : Warp, w'.SameRegs w → (l.foldl releaseMask w').SameRegs w from this w (.refl w)
  induction l with
  | nil => exact fun _ h => h
  | cons m t ih => exact fun w' h => ih _ ((sameRegs_releaseMask w' m).trans h)

/-! ### What the end of an issue leaves of the device -/

/-- What resolving a record of a trap sequence changes: the sector that holds its STATE, and the count of its context. -/
theorem resolveAt_rest (s : State) (ck : Nat) (r : RecRef) (place : Option (Nat × Nat)) (st : Nat) :
    s.resolveAt ck r place st = { s with mem := (s.resolveAt ck r place st).mem, keys := (s.resolveAt ck r place st).keys,
                                         ctxs := (s.resolveAt ck r place st).ctxs } := by
  unfold State.resolveAt
  split
  · next pa tag =>
    simp only [State.setCtx, State.ctx]
    rw [wrByte_rest]
  · rfl

/-- Memory keeps its bytes outside that sector. -/
theorem resolveAt_mem (s : State) (ck : Nat) (r : RecRef) (place : Option (Nat × Nat)) (st a : Nat)
    (ha : ∀ p, place = some p → a / 32 ≠ (p.1 + 40) / 32) : memGet (s.resolveAt ck r place st).mem a = memGet s.mem a := by
  unfold State.resolveAt
  split
  · next pa tag => exact memGet_wrByte_ne (ha _ rfl) ..
  · rfl

/-- The open records of one warp's fragments are among those of another's. -/
def FewerRecs (w y : Warp) : Prop :=
  ∀ g ∈ w.frags, ∀ r, g.park.bind (·.open_) = some r → ∃ k ∈ y.frags, k.park.bind (·.open_) = some r

theorem FewerRecs.refl (w : Warp) : FewerRecs w w := fun g hg _ hr => ⟨g, hg, hr⟩

theorem FewerRecs.trans {a b c : Warp} (h : FewerRecs a b) (k : FewerRecs b c) : FewerRecs a c := fun g hg r hr =>
  let ⟨g', hg', hr'⟩ := h g hg r hr
  k g' hg' r hr'

theorem fewerRecs_dropFrag (w : Warp) (f : Nat) : FewerRecs (w.dropFrag f) w := by
  intro g hg r hr
  simp only [Warp.dropFrag, List.mem_map, List.mem_filter] at hg
  obtain ⟨k, ⟨hk, -⟩, rfl⟩ := hg
  refine ⟨k, hk, ?_⟩
  split at hr <;> exact hr

theorem fewerRecs_dissolve (w : Warp) : FewerRecs w.dissolve w := by
  unfold Warp.dissolve
  generalize w.frags = l
  suffices ∀ y : Warp, FewerRecs y w → FewerRecs (l.foldl (fun w' g => if (w'.fragLanes g.id).isEmpty then w'.dropFrag g.id else w') y) w
    from this w (.refl w)
  induction l with
  | nil => exact fun _ h => h
  | cons g t ih =>
    intro y h
    rw [List.foldl_cons]
    apply ih
    split
    · exact (fewerRecs_dropFrag y _).trans h
    · exact h

theorem fewerRecs_closePark (w : Warp) (g : Frag) : FewerRecs (w.setFrag { g with park := none }) w := by
  intro k hk r hr
  simp only [Warp.setFrag, List.mem_map] at hk
  obtain ⟨h, hh, rfl⟩ := hk
  split at hr
  · simp at hr
  · exact ⟨h, hh, hr⟩

/-- A byte outside the sectors where the open records of a warp keep STATE, the records lying where `place` says. -/
def Spared (place : RecRef → Option (Nat × Nat)) (w : Warp) (a : Nat) : Prop :=
  ∀ g ∈ w.frags, ∀ r, g.park.bind (·.open_) = some r → ∀ p, place r = some p → a / 32 ≠ (p.1 + 40) / 32

/-- What the lanes that leave parked fragments change of an issue: fragments of the warp, and the records of a context. -/
structure Left (place : RecRef → Option (Nat × Nat)) (x y : Issue) : Prop where
  rest : y = { x with w := y.w, s := y.s }
  warp : y.w.SameRegs x.w
  recs : FewerRecs y.w x.w
  state : y.s = { x.s with mem := y.s.mem, keys := y.s.keys, ctxs := y.s.ctxs }
  mem : ∀ a, Spared place x.w a → memGet y.s.mem a = memGet x.s.mem a

variable {place : RecRef → Option (Nat × Nat)}

theorem Left.refl (x : Issue) : Left place x x := ⟨rfl, .refl _, .refl _, rfl, fun _ _ => rfl⟩

theorem Left.trans {x y z : Issue} (h : Left place x y) (k : Left place y z) : Left place x z :=
  ⟨by rw [k.rest, h.rest], k.warp.trans h.warp, k.recs.trans h.recs, by rw [k.state, h.state], fun a ha =>
    (k.mem a fun g hg r hr p hp => let ⟨g', hg', hr'⟩ := h.recs g hg r hr; ha g' hg' r hr' p hp).trans (h.mem a ha)⟩

theorem leaveFrag_left (x : Issue) (gone caught : List Nat) (f : Nat) : Left place x (x.leaveFrag place gone caught f) := by
  unfold Issue.leaveFrag
  split
  · exact .refl x
  · next g hf =>
    have hg : g ∈ x.w.frags := List.mem_of_find?_eq_some hf
    refine ⟨rfl, (Warp.sameRegs_dissolve _).trans ?_, (fewerRecs_dissolve _).trans ?_, ?_, ?_⟩ <;> try dsimp only
    · split
      · exact (Warp.sameRegs_setFrag _ _).trans (Warp.sameRegs_onLanes fun _ => rfl)
      · exact Warp.sameRegs_onLanes fun _ => rfl
    · split
      · exact fewerRecs_closePark _ g
      · exact .refl x.w
    · split
      · exact resolveAt_rest ..
      · rfl
    · intro a ha
      split
      · next r _ hr => exact resolveAt_mem _ _ _ _ _ _ (ha g hg r hr)
      · rfl

theorem leaveParked_left (x : Issue) : Left (x.s.recPlace x.n.ctx) x x.leaveParked := by
  unfold Issue.leaveParked
  simp only
  split
  · exact .refl x
  · generalize (distinct _).filter _ = l
    generalize x.act.filter _ = gone
    generalize x.traps.map _ ++ _ = caught
    suffices ∀ y, Left (x.s.recPlace x.n.ctx) x y →
        Left (x.s.recPlace x.n.ctx) x (l.foldl (fun y f => y.leaveFrag (x.s.recPlace x.n.ctx) gone caught f) y) from this x (.refl x)
    induction l with
    | nil => exact fun _ h => h
    | cons f t ih =>
      intro y h
      rw [List.foldl_cons]
      exact ih _ (h.trans (leaveFrag_left y gone caught f))

/-- No lane leaves a parked fragment where none of the active path stands in one. -/
theorem leaveParked_unparked {x : Issue} (h : x.unparked) : x.leaveParked = x := by
  unfold Issue.leaveParked
  simp only
  split
  · rfl
  · rw [(List.filter_eq_nil_iff (l := distinct _)).2]
    · rfl
    · intro f hf
      have hf' : ∀ l : List Nat, f ∈ distinct l → f ∈ l := by
        intro l
        induction l with
        | nil => simp [distinct]
        | cons a t ih =>
          intro hm
          simp only [distinct, List.mem_cons, List.mem_filter] at hm ⊢
          exact hm.imp_right fun hm => ih hm.1
      obtain ⟨l, hl, rfl⟩ := List.mem_map.1 (hf' _ hf)
      have := h l (List.mem_filter.1 hl).1
      simpa using this

/-- What the results for queue ports and casts change: the channels of the launch, or the casts under way. -/
theorem pushOuts_rest (x : Issue) :
    x.pushOuts = { x with s := x.pushOuts.s }
      ∧ x.pushOuts.s = { x.s with launches := x.pushOuts.s.launches, casts := x.pushOuts.s.casts, nextId := x.pushOuts.s.nextId } := by
  have push (s : State) (nk : Nat) (n : Node) (wk u r e : Nat) (els : List (Nat × Nat)) :
      s.pushPort nk n wk u r e els = { s with launches := (s.pushPort nk n wk u r e els).launches, casts := (s.pushPort nk n wk u r e els).casts, nextId := (s.pushPort nk n wk u r e els).nextId } := by
    unfold State.pushPort
    split
    · generalize List.range 8 = l
      suffices ∀ t : State, t = { s with launches := t.launches, casts := t.casts, nextId := t.nextId } →
          ∀ f : State → Nat → State, (∀ t k, f t k = { t with launches := (f t k).launches, casts := (f t k).casts, nextId := (f t k).nextId }) →
          l.foldl f t = { s with launches := (l.foldl f t).launches, casts := (l.foldl f t).casts, nextId := (l.foldl f t).nextId } from
        this s rfl _ fun t k => by split <;> rfl
      induction l with
      | nil => exact fun _ h _ _ => h
      | cons a t ih =>
        intro u hu f hf
        rw [List.foldl_cons]
        exact ih _ (by rw [hf u a, hu]) f hf
    · split <;> rfl
  unfold Issue.pushOuts
  generalize distinct _ = l
  suffices ∀ y : Issue, y = { x with s := y.s } → y.s = { x.s with launches := y.s.launches, casts := y.s.casts, nextId := y.s.nextId } →
      ∀ f : Issue → Nat → Issue, (∀ y r, f y r = { y with s := (f y r).s } ∧ (f y r).s = { y.s with launches := (f y r).s.launches, casts := (f y r).s.casts, nextId := (f y r).s.nextId }) →
      l.foldl f y = { x with s := (l.foldl f y).s } ∧ (l.foldl f y).s = { x.s with launches := (l.foldl f y).s.launches, casts := (l.foldl f y).s.casts, nextId := (l.foldl f y).s.nextId } from
    this x rfl rfl _ fun y r => ⟨rfl, push ..⟩
  induction l with
  | nil => exact fun _ h k _ _ => ⟨h, k⟩
  | cons a t ih =>
    intro y h k f hf
    rw [List.foldl_cons]
    exact ih _ (by rw [(hf y a).1, h]) (by rw [(hf y a).2, k]) f hf

/-- With nothing for `v240`–`v255` nothing leaves. -/
theorem pushOuts_none {x : Issue} (h : x.outs = []) : x.pushOuts = x := by simp [Issue.pushOuts, h, distinct]

/-- An issue that has raised nothing and sends nothing. -/
structure Calm (y : Issue) : Prop where
  traps : y.traps = []
  parks : y.parks = []
  gcall : y.gcall = none
  kill : y.kill = none
  emits : y.emits = []

/-- What the end of an issue leaves: the warp `w` and the node back in the device, an issue more, and otherwise at most resolved records
and results for `v240`–`v255`. -/
structure Ended (y : Issue) (t : State) (w : Warp) : Prop where
  warp : w.SameRegs y.w
  state : t = { y.s with mem := t.mem, keys := t.keys, ctxs := t.ctxs, launches := t.launches, casts := t.casts, nextId := t.nextId,
                         warps := insert y.wk w y.s.warps, nodes := insert y.nk y.n y.s.nodes, issues := y.s.issues + 1 }
  mem : ∀ a, ¬y.inOpenRec a → memGet t.mem a = memGet y.s.mem a
  quiet : y.unparked → t.mem = y.s.mem ∧ t.keys = y.s.keys ∧ t.ctxs = y.s.ctxs
  outs : y.outs = [] → t.launches = y.s.launches ∧ t.casts = y.s.casts ∧ t.nextId = y.s.nextId

theorem dropAborted_alive {x : Issue} {w : Warp} (h : x.forkAlive = true) (hr : w.role = x.w.role) (s : State)
    (hs : ∀ k, k ≠ x.wk → find k s.warps = find k x.s.warps) : dropAborted w s = s := by
  unfold Issue.dropAborted Issue.forkAlive at *
  rw [hr]
  split
  · next k parent he =>
    simp only [he, Bool.and_eq_true, bne_iff_ne, ne_eq, Option.isNone_iff_eq_none] at h
    rw [hs parent h.1]
    split
    · next f hf => simp [hf] at h; simp [h.2]
    · rfl
  · rfl

/-- The end of an issue that has raised nothing and sends nothing. -/
theorem finish_calm {y : Issue} (c : Calm y) (h : y.forkAlive = true) : ∃ w, Ended y y.finish w := by
  obtain ⟨ht, hp, hg, hk, he⟩ := c
  have l := leaveParked_left y
  generalize hz : y.leaveParked = z at l
  obtain ⟨w', s', rfl⟩ : ∃ w' s', z = { y with w := w', s := s' } := ⟨_, _, l.rest⟩
  obtain ⟨-, lw, -, ls, lm⟩ := l
  dsimp only at lw ls lm
  have p := pushOuts_rest { y with w := w', s := s' }
  have pn := @pushOuts_none { y with w := w', s := s' }
  generalize hv : Issue.pushOuts { y with w := w', s := s' } = v at p pn
  obtain ⟨s'', rfl⟩ : ∃ s'', v = { y with w := w', s := s'' } := ⟨_, p.1⟩
  replace p := p.2
  dsimp only at p pn
  have hf : y.finish = { (s''.setWarp y.wk (releaseMasks w')).setNode y.nk y.n with issues := s''.issues + 1 } := by
    have a1 : Issue.parkAll { y with w := w', s := s' } = { y with w := w', s := s' } := by simp [Issue.parkAll, hp, distinct]
    have a2 : Issue.takeTraps { y with w := w', s := s' } = { y with w := w', s := s' } := by
      unfold Issue.takeTraps; split
      · next h => simp [ht] at h
      · simp [ht, distinct]
    have a3 : Issue.takeGcall { y with w := w', s := s' } = { y with w := w', s := s' } := by simp [Issue.takeGcall, hg]
    have a : y.leaveParked.parkAll.takeTraps.takeGcall.pushOuts = { y with w := w', s := s'' } := by rw [hz, a1, a2, a3, hv]
    unfold Issue.finish Issue.finishWith Issue.route
    simp only [a]
    simp only [hk, he, List.foldl_nil]
    rw [dropAborted_alive (x := y) h]
    · rfl
    · exact lw.rest ▸ rfl
    · intro k hne
      simp only [State.setNode_warps, State.setWarp_warps, find_insert_ne hne]
      rw [p, ls]
  rw [hf]
  refine ⟨releaseMasks w', (sameRegs_releaseMasks w').trans lw, ?_, ?_, ?_, ?_⟩
  · simp only [State.setNode, State.setWarp]
    rw [p, ls]
  · intro a ha
    have : s''.mem = s'.mem := by rw [p]
    simpa [this] using lm a fun g hg r hr p hp he => ha ⟨g, hg, r, hr, p, hp, he⟩
  · intro hu
    have := leaveParked_unparked hu
    rw [hz] at this
    have hs : s' = y.s := congrArg Issue.s this
    subst hs
    exact ⟨by simpa using congrArg State.mem p, by simpa using congrArg State.keys p, by simpa using congrArg State.ctxs p⟩
  · intro ho
    have hs : s'' = s' := congrArg Issue.s (pn ho)
    subst hs
    exact ⟨by simpa using congrArg State.launches ls, by simpa using congrArg State.casts ls, by simpa using congrArg State.nextId ls⟩

end Sys2Proof.Machine
end

