-- ==== Sys2Proof/Laws/Operands.lean ====
section
/-! SUPPORT. Laws of registers and operands: what a write leaves in each register, and the end of an instruction that writes operand 0
alone. -/

namespace Sys2Proof.Machine

open Issue

/-! ### Registers -/

theorem Warp.vreg_setV (w : Warp) (r l v r' l' : Nat) (hl : l < 32) (hl' : l' < 32) :
    (w.setV r l v).vreg r' l' = if r' = r ∧ l' = l then v % 2 ^ 32 else w.vreg r' l' := by
  unfold Warp.setV Warp.vreg
  rw [getD_put]
  by_cases h : r' = r ∧ l' = l
  · rw [if_pos (by rw [h.1, h.2]), if_pos h, BitVec.toNat_ofNat]
  · rw [if_neg (by omega), if_neg h]

theorem Warp.sreg_setS (w : Warp) (r v r' : Nat) :
    (w.setS r v).sreg r' = if r' = r then (if r = 0 then 0 else v % 2 ^ 64) else w.sreg r' := by
  unfold Warp.setS Warp.sreg
  by_cases hr : r = 0
  · simp only [hr, if_true]; by_cases h : r' = 0 <;> simp [h]
  · simp only [if_neg hr, getD_put]
    by_cases h : r' = r
    · subst h; simp [hr]
    · simp [h]

theorem Warp.mreg_setM (w : Warp) (r v r' : Nat) : (w.setM r v).mreg r' = if r' = r then v % 2 ^ 32 else w.mreg r' := by
  unfold Warp.setM Warp.mreg
  rw [getD_put]
  split <;> simp

@[simp] theorem Warp.sreg_setV (w : Warp) (r l v : Nat) : (w.setV r l v).sreg = w.sreg := rfl
@[simp] theorem Warp.mreg_setV (w : Warp) (r l v : Nat) : (w.setV r l v).mreg = w.mreg := rfl
@[simp] theorem Warp.vreg_setM (w : Warp) (r v : Nat) : (w.setM r v).vreg = w.vreg := rfl
@[simp] theorem Warp.sreg_setM (w : Warp) (r v : Nat) : (w.setM r v).sreg = w.sreg := rfl
@[simp] theorem Warp.vreg_setS (w : Warp) (r v : Nat) : (w.setS r v).vreg = w.vreg := by
  unfold Warp.setS; split <;> rfl
@[simp] theorem Warp.mreg_setS (w : Warp) (r v : Nat) : (w.setS r v).mreg = w.mreg := by
  unfold Warp.setS; split <;> rfl

/-- The parts of a warp that a register write leaves. -/
structure OnlyRegs (w y : Warp) : Prop where
  rest : w = { y with v := w.v, s := w.s, m := w.m }

theorem OnlyRegs.refl (w : Warp) : OnlyRegs w w := ⟨rfl⟩
theorem OnlyRegs.trans {a b c : Warp} (h : OnlyRegs a b) (k : OnlyRegs b c) : OnlyRegs a c := ⟨by rw [h.rest, k.rest]⟩
theorem onlyRegs_setV (w : Warp) (r l v : Nat) : OnlyRegs (w.setV r l v) w := ⟨rfl⟩
theorem onlyRegs_setM (w : Warp) (r v : Nat) : OnlyRegs (w.setM r v) w := ⟨rfl⟩
theorem onlyRegs_setS (w : Warp) (r v : Nat) : OnlyRegs (w.setS r v) w := by
  unfold Warp.setS; split
  · exact .refl w
  · exact ⟨rfl⟩

theorem OnlyRegs.isSeq {w y : Warp} (h : OnlyRegs w y) : w.isSeq = y.isSeq := by
  rw [h.rest]; rfl

theorem onlyRegs_wrReg (w : Warp) (c : Cls) (r l v : Nat) : OnlyRegs (w.wrReg c r l v) w := by
  unfold Warp.wrReg
  split <;> cases c <;>
    first
      | exact .refl w
      | exact onlyRegs_setV ..
      | exact onlyRegs_setM ..
      | exact onlyRegs_setS ..
      | exact (onlyRegs_setV ..).trans (onlyRegs_setV ..)
      | exact (onlyRegs_setV ..).trans ((onlyRegs_setV ..).trans ((onlyRegs_setV ..).trans (onlyRegs_setV ..)))

theorem Warp.vreg_wrReg {w : Warp} {o : Opnd} {l v r l' : Nat} (hl : l < 32) (hl' : l' < 32)
    (h : (0, r) ∉ regsOf w.isSeq o ∨ l' ≠ l) : (w.wrReg o.cls o.num l v).vreg r l' = w.vreg r l' := by
  unfold Warp.wrReg
  cases hs : w.isSeq <;> cases hc : o.cls <;>
    simp_all [regsOf, Opnd.vregs, Warp.vreg_setV] <;> (repeat' split) <;> omega

theorem Warp.sreg_wrReg {w : Warp} {o : Opnd} {l v r : Nat} (h : (1, r) ∉ regsOf w.isSeq o) :
    (w.wrReg o.cls o.num l v).sreg r = w.sreg r := by
  unfold Warp.wrReg
  cases hs : w.isSeq <;> cases hc : o.cls <;> simp_all [regsOf, Opnd.vregs, Warp.sreg_setS]

theorem Warp.mreg_wrReg {w : Warp} {o : Opnd} {l v r : Nat} (h : (2, r) ∉ regsOf w.isSeq o) :
    (w.wrReg o.cls o.num l v).mreg r = w.mreg r := by
  unfold Warp.wrReg
  cases hs : w.isSeq <;> cases hc : o.cls <;> simp_all [regsOf, Opnd.vregs, Warp.mreg_setM]

/-- A register reads as what was last written to it. -/
theorem Warp.rdReg_wrReg {w : Warp} {o : Opnd} {l v : Nat} (hl : l < 32) (h : o.cls ≠ .vq ∧ o.cls ≠ .t) :
    (w.wrReg o.cls o.num l v).rdReg o.cls o.num l = kept w.isSeq o.cls o.num v := by
  have hq : (w.wrReg o.cls o.num l v).isSeq = w.isSeq := (onlyRegs_wrReg ..).isSeq
  unfold Warp.rdReg
  rw [hq]
  unfold Warp.wrReg kept
  cases hs : w.isSeq <;> cases hc : o.cls <;>
    simp_all [Warp.vreg_setV, Warp.sreg_setS, Warp.mreg_setM] <;> (repeat' split) <;> omega

theorem Warp.rdReg_congr {a b : Warp} {o : Opnd} {l : Nat} (hq : a.isSeq = b.isSeq)
    (hv : ∀ r, (0, r) ∈ regsOf a.isSeq o → a.vreg r l = b.vreg r l) (hs : ∀ r, (1, r) ∈ regsOf a.isSeq o → a.sreg r = b.sreg r)
    (hm : ∀ r, (2, r) ∈ regsOf a.isSeq o → a.mreg r = b.mreg r) : a.rdReg o.cls o.num l = b.rdReg o.cls o.num l := by
  unfold Warp.rdReg
  rw [← hq]
  cases h : a.isSeq <;> cases hc : o.cls <;> simp_all [regsOf, Opnd.vregs]

/-! ### Writing operand 0 -/

/-- What writing operand 0 of an issue in some lanes changes. -/
structure SetLanes (x y : Issue) (ls : List Nat) (op : Nat → Nat × Nat) : Prop where
  rest : y = { x with w := y.w, outs := y.outs }
  warp : y.w = { x.w with v := y.w.v, s := y.w.s, m := y.w.m, lanes := y.w.lanes }
  count : y.w.lanes.length = x.w.lanes.length
  lanes : ∀ l, y.w.lane l = { x.w.lane l with fflags := (y.w.lane l).fflags }
  flags : ∀ l, l < x.w.lanes.length → (y.w.lane l).fflags = if l ∈ ls then (x.w.lane l).fflags ||| (op l).2 else (x.w.lane l).fflags
  vregs : ∀ r l, l < 32 → (0, r) ∉ regsOf x.w.isSeq (x.opnd 0) ∨ l ∉ ls → y.w.vreg r l = x.w.vreg r l
  sregs : ∀ r, (1, r) ∉ regsOf x.w.isSeq (x.opnd 0) ∨ ls = [] → y.w.sreg r = x.w.sreg r
  mregs : ∀ r, (2, r) ∉ regsOf x.w.isSeq (x.opnd 0) ∨ ls = [] → y.w.mreg r = x.w.mreg r
  value : x.isPort 0 = false → (x.opnd 0).cls ≠ .vq ∧ (x.opnd 0).cls ≠ .t → ∀ l ∈ ls,
    (x.w.isSeq = false ∧ perLane (x.opnd 0).cls = true) ∨ ls.getLast? = some l →
    y.w.rdReg (x.opnd 0).cls (x.opnd 0).num l = kept x.w.isSeq (x.opnd 0).cls (x.opnd 0).num (op l).1
  outs : x.isPort 0 = false → y.outs = x.outs

theorem Warp.isSeq_eq {a b : Warp} (h : a.role = b.role) : a.isSeq = b.isSeq := by unfold Warp.isSeq; rw [h]

theorem SetLanes.refl (x : Issue) (op : Nat → Nat × Nat) : SetLanes x x [] op :=
  ⟨rfl, rfl, rfl, fun _ => rfl, by simp, by simp, by simp, by simp, by simp, by simp⟩

theorem Warp.lane_setLane (w : Warp) (k : Nat) (f : Lane → Lane) (l : Nat) :
    (w.setLane k f).lane l = if l < w.lanes.length ∧ l = k then f (w.lane l) else w.lane l := by
  unfold Warp.setLane
  rw [Warp.lane_onLanes]
  simp

/-- One more lane. -/
theorem SetLanes.snoc {x y : Issue} {ls : List Nat} {op : Nat → Nat × Nat} (h : SetLanes x y ls op) {l : Nat} (hl : l < 32)
    (hn : l ∉ ls) (hls : ∀ k ∈ ls, k < 32) : SetLanes x ((y.set 0 l (op l).1).flag l (op l).2) (ls ++ [l]) op := by
  have hq : y.w.isSeq = x.w.isSeq := Warp.isSeq_eq (h.warp ▸ rfl)
  have ho : y.opnd 0 = x.opnd 0 := by rw [h.rest]; rfl
  have hset : y.set 0 l (op l).1 = if x.isPort 0 then { y with outs := y.outs ++ [((x.opnd 0).num, l, (op l).1 % 2 ^ 32)] }
      else { y with w := y.w.wrReg (x.opnd 0).cls (x.opnd 0).num l (op l).1 } := by
    unfold Issue.set Issue.isPort; rw [hq, ho]
  generalize hz : y.set 0 l (op l).1 = z
  have hzr : z = { y with w := z.w, outs := z.outs } := by rw [← hz, hset]; split <;> rfl
  have hzw : OnlyRegs z.w y.w := by
    rw [← hz, hset]; split
    · exact .refl _
    · exact onlyRegs_wrReg ..
  have hzl (k : Nat) : z.w.lane k = y.w.lane k := by rw [hzw.rest]; rfl
  have hzc : z.w.lanes.length = x.w.lanes.length := by rw [hzw.rest]; exact h.count
  have lane (k : Nat) : ((z.flag l (op l).2).w.lane k) = if k < x.w.lanes.length ∧ k = l then
      { y.w.lane k with fflags := (y.w.lane k).fflags ||| (op l).2 } else y.w.lane k := by
    unfold Issue.flag; rw [Warp.lane_setLane, hzl, hzc]
  have hfv : (z.flag l (op l).2).w.vreg = z.w.vreg := rfl
  have hfs : (z.flag l (op l).2).w.sreg = z.w.sreg := rfl
  have hfm : (z.flag l (op l).2).w.mreg = z.w.mreg := rfl
  have hv (r k : Nat) (hk : k < 32) (hh : (0, r) ∉ regsOf x.w.isSeq (x.opnd 0) ∨ k ≠ l) : z.w.vreg r k = y.w.vreg r k := by
    rw [← hz, hset]; split
    · rfl
    · exact Warp.vreg_wrReg hl hk (hq ▸ hh)
  have hs (r : Nat) (hh : (1, r) ∉ regsOf x.w.isSeq (x.opnd 0)) : z.w.sreg r = y.w.sreg r := by
    rw [← hz, hset]; split
    · rfl
    · exact Warp.sreg_wrReg (hq ▸ hh)
  have hm (r : Nat) (hh : (2, r) ∉ regsOf x.w.isSeq (x.opnd 0)) : z.w.mreg r = y.w.mreg r := by
    rw [← hz, hset]; split
    · rfl
    · exact Warp.mreg_wrReg (hq ▸ hh)
  have hzq : z.w.isSeq = x.w.isSeq := hzw.isSeq.trans hq
  refine ⟨?_, ?_, ?_, ?_, ?_, ?_, ?_, ?_, ?_, ?_⟩
  · unfold Issue.flag; rw [hzr, h.rest]
  · unfold Issue.flag Warp.setLane Warp.onLanes; dsimp only; rw [hzw.rest, h.warp]
  · unfold Issue.flag Warp.setLane; rw [Warp.length_onLanes, hzc]
  · intro k; rw [lane k, h.lanes k]; split <;> rfl
  · intro k hk
    rw [lane k]
    by_cases hkl : k = l
    · subst hkl; simp [hk, h.flags k hk, hn]
    · simp [hkl, h.flags k hk]
  · intro r k hk hh
    rw [hfv, hv r k hk (hh.imp_right fun hh => by rintro rfl; exact hh (by simp)),
      h.vregs r k hk (hh.imp_right fun hh hin => hh (by simp [hin]))]
  · intro r hh
    rw [hfs, hs r (by simpa using hh), h.sregs r (.inl (by simpa using hh))]
  · intro r hh
    rw [hfm, hm r (by simpa using hh), h.mregs r (.inl (by simpa using hh))]
  · intro hp hc k hk hh
    rw [show (z.flag l (op l).2).w.rdReg (x.opnd 0).cls (x.opnd 0).num k = z.w.rdReg (x.opnd 0).cls (x.opnd 0).num k from rfl]
    by_cases hkl : k = l
    · subst hkl
      rw [← hz, hset, if_neg (by simp [hp]), ← hq]
      exact Warp.rdReg_wrReg hl hc
    · have hkm : k ∈ ls := by simpa [hkl] using hk
      have hper : x.w.isSeq = false ∧ perLane (x.opnd 0).cls = true := by
        rcases hh with hh | hh
        · exact hh
        · simp at hh; exact absurd hh.symm hkl
      rw [← h.value hp hc k hkm (.inl hper)]
      have hno : ∀ c r, c ≠ 0 → (c, r) ∉ regsOf false (x.opnd 0) := by
        intro c r hc' hin
        have := hper.2
        clear hzr
        unfold perLane at this
        cases hcls : (x.opnd 0).cls <;> simp_all [regsOf, Opnd.vregs]
      apply Warp.rdReg_congr (hzq.trans hq.symm)
      · exact fun r _ => hv r k (hls k hkm) (.inr hkl)
      · intro r hr; rw [hzq, hper.1] at hr; exact absurd hr (hno 1 r (by simp))
      · intro r hr; rw [hzq, hper.1] at hr; exact absurd hr (hno 2 r (by simp))
  · intro hp
    show z.outs = x.outs
    rw [← hz, hset, if_neg (by simp [hp]), ← h.outs hp]

/-- Writing operand 0 in each lane, or once. -/
theorem eachLane_setLanes (x : Issue) (u : Bool) (ls : List Nat) (op : Nat → Nat × Nat) (hls : ∀ l ∈ ls, l < 32) (hn : ls.Nodup)
    (hu : u = true → (x.opnd 0).cls = .s) : SetLanes x (x.eachLane u ls op) (if u then ls.take 1 else ls) op := by
  have key : ∀ (t pre : List Nat) (y : Issue), SetLanes x y pre op → (∀ l ∈ pre ++ t, l < 32) → (pre ++ t).Nodup →
      SetLanes x (t.foldl (fun y l => (y.set 0 l (op l).1).flag l (op l).2) y) (pre ++ t) op := by
    intro t
    induction t with
    | nil => intro pre y h _ _; simpa using h
    | cons l t ih =>
      intro pre y h hb hd
      have e : pre ++ l :: t = (pre ++ [l]) ++ t := by simp
      rw [e] at hb hd ⊢
      refine ih _ _ (h.snoc (hb l (by simp)) ?_ fun k hk => hb k (by simp [hk])) hb hd
      intro hin
      simp only [List.nodup_append, List.mem_singleton] at hd
      exact hd.1.2.2 l hin l rfl rfl
  unfold Issue.eachLane
  cases u with
  | false => simpa using key ls [] x (.refl x op) (by simpa using hls) (by simpa using hn)
  | true =>
    cases ls with
    | nil => simpa using SetLanes.refl x op
    | cons l t =>
      have e : x.set 0 0 (op l).1 = x.set 0 l (op l).1 := by
        unfold Issue.set Warp.wrReg
        simp [hu rfl]
      simp only [if_true, e, List.take_succ_cons, List.take_zero]
      exact (SetLanes.refl x op).snoc (hls l (by simp)) (by simp) (by simp)

/-! ### Ports and poison -/

/-- What taking from the ports changes: what the operands popped, the channels of launches, and cast-full bits. -/
theorem takePorts_rest (x : Issue) :
    x.takePorts = { x with popped := x.takePorts.popped, s := { x.s with launches := x.takePorts.s.launches },
                           w := { x.w with castFull := x.takePorts.w.castFull } } := by
  unfold Issue.takePorts
  split
  · rfl
  · dsimp only
    split
    · rfl
    · generalize x.ports = l
      suffices ∀ (f : Issue → Nat × Nat × Bool → Issue),
          (∀ y e, f y e = { y with popped := (f y e).popped, s := { y.s with launches := (f y e).s.launches } }) → ∀ y : Issue,
          y = { x with popped := y.popped, s := { x.s with launches := y.s.launches } } →
          l.foldl f y = { x with popped := (l.foldl f y).popped, s := { x.s with launches := (l.foldl f y).s.launches } } by
        rw [this _ _ x rfl]
        intro y e
        split
        · rfl
        · split <;> rfl
      intro f hf
      induction l with
      | nil => exact fun _ h => h
      | cons a t ih =>
        intro y h
        rw [List.foldl_cons]
        exact ih _ (by rw [hf y a, h])

/-- Without a port among the operands the launches stay. -/
theorem takePorts_launches {x : Issue} (h : x.ports = []) : x.takePorts.s = x.s := by
  unfold Issue.takePorts
  split
  · rfl
  · dsimp only
    split
    · rfl
    · rw [h]; rfl

/-- What clearing poison changes. -/
theorem clearPoison_rest (x : Issue) :
    x.clearPoison = { x with s := { x.s with poison := x.clearPoison.s.poison } } ∧ (∀ p ∈ x.clearPoison.s.poison, p ∈ x.s.poison)
    ∧ ∀ a n, x.clearPoison.s.poisonedMem a n = x.s.poisonedMem a n := by
  unfold Issue.clearPoison
  split
  · exact ⟨rfl, fun _ h => h, fun _ _ => rfl⟩
  · refine ⟨rfl, fun _ h => (List.mem_filter.1 h).1, fun a n => ?_⟩
    have hw : ∀ l : List PoisonLoc, ∀ g : PoisonLoc → Bool, (∀ b, g (.word b) = true) → ∀ b, (l.filter g).contains (.word b) = l.contains (.word b) :=
      fun l g hg b => by rw [Bool.eq_iff_iff, List.contains_iff_mem, List.contains_iff_mem, List.mem_filter]; simp [hg]
    unfold State.poisonedMem State.poisonedPa State.poisonedLine
    simp only [List.any_filter]
    congr 1
    funext i
    rw [hw _ _ fun _ => rfl]
    congr 2
    funext e
    cases e <;> simp

/-- Where a record lies depends neither on the launches nor on the poison of registers. -/
theorem recPlace_congr (s : State) (la : List (Nat × Launch)) (q : List PoisonLoc) (hp : ∀ a n, ({ s with poison := q } : State).poisonedMem a n = s.poisonedMem a n)
    (ck : Nat) (r : RecRef) : ({ s with launches := la, poison := q } : State).recPlace ck r = s.recPlace ck r := by
  have hp : ∀ a n, ({ s with launches := la, poison := q } : State).poisonedMem a n = s.poisonedMem a n := hp
  have hw : ∀ c k va ipa, ({ s with launches := la, poison := q } : State).walk2 c k va ipa = s.walk2 c k va ipa := fun c k va ipa => by
    unfold State.walk2; simp only [hp]; rfl
  unfold State.recPlace State.slotPlace
  simp only [hw]
  rfl

/-! ### The lanes of an issue -/

theorem allLanes_nodup : allLanes.Nodup := List.nodup_range
theorem mem_allLanes {l : Nat} (h : l ∈ allLanes) : l < 32 := List.mem_range.1 h

/-- The active path and the executing lanes are lanes of the warp, each once. -/
theorem start_lanes {s : State} {i : Instr} {p : Pred} {x : Issue} (h : s.start i p = some x) :
    (∀ l ∈ x.act, l < 32 ∧ l < x.w.lanes.length) ∧ x.act.Nodup ∧ (∀ l ∈ x.ex, l ∈ x.act) ∧ x.ex.Nodup := by
  unfold State.start at h
  simp only [Option.bind_eq_some_iff, Option.map_eq_some_iff] at h
  obtain ⟨wk, _, w, _, n, _, pc, _, rfl⟩ := h
  refine ⟨fun l hl => ?_, ?_, fun l hl => (List.mem_filter.1 hl).1, ?_⟩
  · have h1 := (List.mem_filter.1 hl).1
    have h2 := List.mem_filter.1 h1
    refine ⟨mem_allLanes h2.1, ?_⟩
    unfold Warp.advance
    rw [Warp.length_onLanes]
    apply Decidable.byContradiction
    intro hb
    have : ((applyFlips w n).1.lane l).st = .running := by simpa using h2.2
    unfold Warp.lane at this
    rw [List.getD_eq_getElem?_getD, List.getElem?_eq_none (Nat.le_of_not_lt hb)] at this
    simp at this
  · exact (allLanes_nodup.filter _).filter _
  · exact ((allLanes_nodup.filter _).filter _).filter _

/-- Taking from the ports changes no lane. -/
@[simp] theorem takePorts_ex (x : Issue) : x.takePorts.ex = x.ex := by rw [takePorts_rest]
@[simp] theorem takePorts_act (x : Issue) : x.takePorts.act = x.act := by rw [takePorts_rest]

/-! ### Instructions that write operand 0 alone -/

/-- The active path of an issue is not changed by the writing of registers. -/
theorem unparked_congr {x y : Issue} (ha : y.act = x.act) (hw : y.w.frags = x.w.frags) (hl : ∀ l, (y.w.lane l).frag = (x.w.lane l).frag)
    (h : x.unparked) : y.unparked := by
  intro l hl'
  rw [hl l]
  have := h l (ha ▸ hl')
  unfold Warp.frag at this ⊢
  rwa [hw]

/-- The effect of an instruction on registers and flags alone. -/
structure Touches (x y : Issue) (regs : List (Nat × Nat)) (ls ms : List Nat) : Prop where
  rest : y = { x with w := y.w, outs := y.outs }
  warp : y.w = { x.w with v := y.w.v, s := y.w.s, m := y.w.m, lanes := y.w.lanes }
  lanes : ∀ l, y.w.lane l = { x.w.lane l with pc := (y.w.lane l).pc, fflags := (y.w.lane l).fflags }
  pcs : ∀ l, l ∉ ms → (y.w.lane l).pc = (x.w.lane l).pc
  flags : ∀ l, l ∉ ls → (y.w.lane l).fflags = (x.w.lane l).fflags
  vregs : ∀ r l, l < 32 → (0, r) ∉ regs ∨ l ∉ ls → y.w.vreg r l = x.w.vreg r l
  sregs : ∀ r, (1, r) ∉ regs → y.w.sreg r = x.w.sreg r
  mregs : ∀ r, (2, r) ∉ regs → y.w.mreg r = x.w.mreg r
  outs : x.ports = [] → y.outs = x.outs

theorem Touches.refl (x : Issue) (regs : List (Nat × Nat)) (ls ms : List Nat) : Touches x x regs ls ms :=
  ⟨rfl, rfl, fun _ => rfl, fun _ _ => rfl, fun _ _ => rfl, fun _ _ _ _ => rfl, fun _ _ => rfl, fun _ _ => rfl, fun _ => rfl⟩

/-- Ports depend on the instruction and the kind of warp alone. -/
theorem ports_congr {x y : Issue} (hi : y.i = x.i) (hr : y.w.isSeq = x.w.isSeq) : y.ports = x.ports := by
  unfold Issue.ports; rw [hi, hr]

/-- An instruction whose effect touches registers and flags alone ends with them, and with everything else as it was. -/
theorem ends_touches {s : State} {i : Instr} {p : Pred} {x : Issue} (h : Issues s i p x) (hd : x.denied = none) {body : Issue → Issue}
    (he : exec i s = s.issue i p body) {regs : List (Nat × Nat)} {ls ms : List Nat} (ht : Touches x.takePorts (body x.takePorts) regs ls ms) :
    Ends s i x fun t w => FrameOf x regs ls ms t w ∧ w.SameRegs (body x.takePorts).w := by
  obtain ⟨hs, hh, hb, hp, hred, ha⟩ := h
  obtain ⟨-, fs, fi, -, fo, ft, fp, fg, fk, fe, fw⟩ := start_facts hs
  have tp := takePorts_rest x
  have hla := @takePorts_launches x
  generalize hX : x.takePorts = X at *
  obtain ⟨pop, la, cf, rfl⟩ : ∃ pop la cf, X = { x with popped := pop, s := { x.s with launches := la }, w := { x.w with castFull := cf } } :=
    ⟨_, _, _, tp⟩
  generalize hY : body { x with popped := pop, s := { x.s with launches := la }, w := { x.w with castFull := cf } } = Y at *
  have hr := ht.rest
  have hw := ht.warp
  dsimp only at hr hw
  have hyw : Y.wait = false := by rw [hr]; exact fw
  have cp := clearPoison_rest Y
  generalize hZ : Y.clearPoison = Z at cp
  obtain ⟨q, rfl⟩ : ∃ q, Z = { Y with s := { Y.s with poison := q } } := ⟨_, cp.1⟩
  have calm : Calm { Y with s := { Y.s with poison := q } } := by
    constructor <;> rw [hr] <;> assumption
  have alive : Issue.forkAlive { Y with s := { Y.s with poison := q } } = true := by
    unfold Issue.forkAlive at ha ⊢
    rw [hr, hw]
    exact ha
  obtain ⟨w, fin⟩ := finish_calm calm alive
  have ex : exec i s = .next (Issue.finish { Y with s := { Y.s with poison := q } }) := by
    rw [he, State.issue, issueThen_next hs hh hb hp hred hd (by rw [hX, hY]; exact hyw), hX, hY, hZ]
  have hYs : Y.s = { x.s with launches := la } := by rw [hr]
  have hk : Y.wk = x.wk ∧ Y.nk = x.nk ∧ Y.n = x.n ∧ Y.act = x.act := by rw [hr]; exact ⟨rfl, rfl, rfl, rfl⟩
  refine ⟨_, w, ex, ?_, ?_, fin.warp⟩
  · rw [fin.state, ← hk.1]; exact find_insert_self ..
  · refine ⟨fun l => ?_, fun l hl => (fin.warp.pc l).trans (ht.pcs l hl), fun l hl => (fin.warp.fflags l).trans (ht.flags l hl), fun r l hl ho => ?_, fun r hr' => ?_, fun r hr' => ?_, ?_, ?_, ?_, ?_, ?_, ?_⟩
    · have h1 := fin.warp.lanes l
      have h2 := ht.lanes l
      dsimp only at h1
      rw [h1, h2]
      rfl
    · rw [fin.warp.vreg]; exact ht.vregs r l hl ho
    · rw [fin.warp.sreg]; exact ht.sregs r hr'
    · rw [fin.warp.mreg]; exact ht.mregs r hr'
    · rw [fin.warp.rest]
      dsimp only
      rw [hw]
    · rw [fin.state]
      dsimp only
      rw [hYs, hk.1, hk.2.1, hk.2.2.1]
    · refine fun a ha' => (fin.mem a fun hi => ha' ?_).trans (by rw [hYs])
      obtain ⟨g, hg, r, hr', p, hp', hd'⟩ := hi
      refine ⟨g, by rw [hw] at hg; exact hg, r, hr', p, ?_, hd'⟩
      dsimp only at hp'
      rw [← recPlace_congr x.s la q fun b k => by have := cp.2.2 b k; rw [hYs] at this; exact this]
      rw [hYs, hk.2.2.1] at hp'
      exact hp'
    · intro hu'
      have := fin.quiet (unparked_congr hk.2.2.2 (by rw [hw]) (fun l => by rw [ht.lanes l]; rfl) hu')
      exact ⟨this.1.trans (by rw [hYs]), this.2.1.trans (by rw [hYs]), this.2.2.trans (by rw [hYs])⟩
    · intro hnp
      have ho := ht.outs ((ports_congr rfl rfl).trans hnp)
      have := fin.outs (ho.trans fo)
      have hla' : la = x.s.launches := congrArg State.launches (hla hnp)
      exact ⟨this.1.trans (by rw [hYs]; exact hla'), this.2.1.trans (by rw [hYs]), this.2.2.trans (by rw [hYs])⟩
    · intro p' hp'
      rw [fin.state] at hp'
      have := cp.2.1 p' hp'
      rw [hYs] at this
      exact this

/-- A class and number that name one of `v240`–`v255` as operand 0 stand among the ports. -/
theorem isPort_ports {x : Issue} (hacc : (x.opnd 0).wr = true) (hnp : x.ports = []) : x.isPort 0 = false := by
  apply Bool.eq_false_iff.2
  intro hport
  unfold Issue.isPort at hport
  simp only [Bool.and_eq_true, Bool.not_eq_true', beq_iff_eq, decide_eq_true_eq] at hport
  have hmem : (x.opnd 0, 0) ∈ x.i.opnds.zipIdx := by
    unfold Issue.opnd at hport ⊢
    cases hops : x.i.opnds with
    | nil => simp [hops] at hport
    | cons o t => simp [List.zipIdx_cons]
  have : (0, (x.opnd 0).num, true) ∈ x.ports := by
    unfold Issue.ports
    rw [hport.1.1]
    simp only [Bool.false_eq_true, if_false, List.mem_flatMap, List.mem_filter]
    exact ⟨(x.opnd 0, 0), ⟨hmem, by simp [hport.1.2, hport.2]⟩, by simp only [hacc, if_true]; simp⟩
  rw [hnp] at this
  simp at this

/-- Writing operand 0 touches its registers. -/
theorem SetLanes.touches {x y : Issue} {ls : List Nat} {op : Nat → Nat × Nat} (h : SetLanes x y ls op)
    (hacc : (x.opnd 0).wr = true) : Touches x y (regsOf x.w.isSeq (x.opnd 0)) ls [] := by
  refine ⟨h.rest, h.warp, fun l => by rw [h.lanes l], fun l _ => by rw [h.lanes l], fun l hl => ?_, h.vregs, fun r hr => h.sregs r (.inl hr), fun r hr => h.mregs r (.inl hr), ?_⟩
  · by_cases hlen : l < x.w.lanes.length
    · rw [h.flags l hlen, if_neg hl]
    · have e (w : Warp) (hw : w.lanes.length = x.w.lanes.length) : w.lane l = { st := .never } := by
        unfold Warp.lane; rw [List.getD_eq_getElem?_getD, List.getElem?_eq_none (by omega)]; rfl
      rw [e _ h.count, e _ rfl]
  · exact fun hp => h.outs (isPort_ports hacc hp)

/-- An instruction whose effect is to write operand 0 in some lanes ends so. -/
theorem ends_eachLane {s : State} {i : Instr} {p : Pred} {x : Issue} (h : Issues s i p x) (hd : x.denied = none) (u : Bool) (ls : Issue → List Nat)
    (op : Issue → Nat → Nat × Nat) (he : exec i s = s.issue i p fun x => x.eachLane u (ls x) (op x))
    (hl : ls x.takePorts = x.ex ∨ ls x.takePorts = x.act) {o : Opnd} (hi : i.opnds.getD 0 ⟨.none, 0, .n⟩ = o)
    (hu : u = true → o.cls = .s) (hc : o.cls ≠ .vq ∧ o.cls ≠ .t) (hacc : o.wr = true) :
    Ends s i x (Wrote x (if u then (ls x.takePorts).take 1 else ls x.takePorts) (op x.takePorts)) := by
  have fl := start_lanes h.starts
  have ho : x.opnd 0 = o := by unfold Issue.opnd; rw [(start_facts h.starts).2.2.1, hi]
  have tp := takePorts_rest x
  have hX0 : x.takePorts.opnd 0 = x.opnd 0 := by rw [tp]; rfl
  have hXq : x.takePorts.w.isSeq = x.w.isSeq := by rw [tp]; rfl
  have hXl (l : Nat) : x.takePorts.w.lane l = x.w.lane l := by rw [tp]; rfl
  have hXn : x.takePorts.w.lanes.length = x.w.lanes.length := by rw [tp]
  have hXp : x.takePorts.isPort 0 = x.isPort 0 := by unfold Issue.isPort; rw [hX0, hXq]
  have hls : (∀ l ∈ ls x.takePorts, l < 32 ∧ l < x.w.lanes.length) ∧ (ls x.takePorts).Nodup := by
    rcases hl with hl | hl <;> rw [hl]
    · exact ⟨fun l hl => fl.1 l (fl.2.2.1 l hl), fl.2.2.2⟩
    · exact ⟨fl.1, fl.2.1⟩
  have sl := eachLane_setLanes x.takePorts u _ (op x.takePorts) (fun l h => (hls.1 l h).1) hls.2 (by rw [hX0, ho]; exact hu)
  have hin : ∀ l ∈ (if u = true then List.take 1 (ls x.takePorts) else ls x.takePorts), l < x.w.lanes.length := by
    intro l hl'
    refine (hls.1 l ?_).2
    split at hl'
    · exact List.mem_of_mem_take hl'
    · exact hl'
  obtain ⟨t, w, h1, h2, fr, sr⟩ := ends_touches h hd he (sl.touches (by rw [hX0, ho]; exact hacc))
  rw [hX0, hXq] at fr
  refine ⟨t, w, h1, h2, fr, fun hnp l hl' hor => ?_, fun l hl' => ?_⟩
  · have v := sl.value
    rw [hX0, hXq, hXp] at v
    rw [sr.rdReg]
    exact v hnp (by rw [ho]; exact hc) l hl' hor
  · rw [sr.fflags l, sl.flags l (by rw [hXn]; exact hin l hl'), if_pos hl', hXl]

/-- `ends_eachLane` for the lanes that an instruction writes by default. -/
theorem ends_writers {s : State} {i : Instr} {p : Pred} {x : Issue} {op : Issue → Nat → Nat × Nat} {u : Bool} (h : Issues s i p x) (hd : x.denied = none)
    (he : exec i s = s.issue i p fun x => x.eachLane u x.ex (op x)) {o : Opnd} (ho : i.opnds.getD 0 ⟨.none, 0, .n⟩ = o)
    (hu : u = true → o.cls = .s) (hc : o.cls ≠ .vq ∧ o.cls ≠ .t) (hacc : o.wr = true) :
    Ends s i x (Wrote x (writers u x) (op x.takePorts)) := by
  have := ends_eachLane h hd u (·.ex) op he (.inl (takePorts_ex x)) ho hu hc hacc
  simpa [writers] using this

theorem touches_setM (x : Issue) (d v : Nat) (ls ms : List Nat) : Touches x { x with w := x.w.setM d v } [(2, d)] ls ms :=
  ⟨rfl, rfl, fun _ => rfl, fun _ _ => rfl, fun _ _ => rfl, fun _ _ _ _ => rfl, fun _ _ => rfl,
    fun r hr => by simp only [Warp.mreg_setM]; rw [if_neg]; rintro rfl; simp at hr, fun _ => rfl⟩

theorem touches_setS (x : Issue) (d v : Nat) (ls ms : List Nat) : Touches x { x with w := x.w.setS d v } [(1, d)] ls ms := by
  have h := (onlyRegs_setS x.w d v).rest
  have hl (l : Nat) : (x.w.setS d v).lane l = x.w.lane l := by rw [h]; rfl
  refine ⟨rfl, ?_, fun l => ?_, fun l _ => ?_, fun l _ => ?_, fun _ _ _ _ => ?_, fun r hr => ?_, fun _ _ => ?_, fun _ => rfl⟩
  · dsimp only; rw [h]
  · dsimp only; rw [hl]
  · dsimp only; rw [hl]
  · dsimp only; rw [hl]
  · dsimp only; rw [Warp.vreg_setS]
  · simp only [Warp.sreg_setS]; rw [if_neg]; rintro rfl; simp at hr
  · dsimp only; rw [Warp.mreg_setS]

/-- `ends_touches` with the effect computed. -/
theorem ends_effect {s : State} {i : Instr} {p : Pred} {x : Issue} (h : Issues s i p x) (hd : x.denied = none) {body : Issue → Issue}
    (he : exec i s = s.issue i p body) {y : Issue} (hb : body x.takePorts = y) {regs : List (Nat × Nat)} {ls ms : List Nat}
    (ht : Touches x.takePorts y regs ls ms) :
    ∃ t w, exec i s = .next t ∧ find x.wk t.warps = some w ∧ FrameOf x regs ls ms t w
      ∧ w.SameRegs y.w := by
  subst hb
  exact ends_touches h hd he ht

@[simp] theorem takePorts_once (x : Issue) : x.takePorts.once = x.once := by rw [takePorts_rest]; rfl
@[simp] theorem takePorts_mreg (x : Issue) : x.takePorts.w.mreg = x.w.mreg := by rw [takePorts_rest]; rfl
@[simp] theorem takePorts_sreg (x : Issue) : x.takePorts.w.sreg = x.w.sreg := by rw [takePorts_rest]; rfl
@[simp] theorem takePorts_vreg (x : Issue) : x.takePorts.w.vreg = x.w.vreg := by rw [takePorts_rest]; rfl

/-- An instruction whose effect is to write one mask, once for the warp, ends so. -/
theorem ends_mask {s : State} {i : Instr} {p : Pred} {x : Issue} (h : Issues s i p x) (hd : x.denied = none) (d : Nat) (v : Issue → Nat)
    (he : exec i s = s.issue i p fun x => if x.once then { x with w := x.w.setM d (v x) } else x) :
    Ends s i x (WroteMask x d (if x.once then v x.takePorts % 2 ^ 32 else x.w.mreg d)) := by
  by_cases hx : x.once = true
  · obtain ⟨t, w, h1, h2, fr, sr⟩ := ends_effect h hd he (if_pos (by simpa using hx)) (touches_setM _ _ _ [] [])
    exact ⟨t, w, h1, h2, fr, by rw [sr.mreg, if_pos hx]; simp [Warp.mreg_setM]⟩
  · obtain ⟨t, w, h1, h2, fr, sr⟩ := ends_effect (regs := [(2, d)]) (ls := []) (ms := []) h hd he (if_neg (by simpa using hx)) (.refl ..)
    exact ⟨t, w, h1, h2, fr, by rw [sr.mreg, if_neg hx, takePorts_mreg]⟩

/-- An instruction whose effect is to write one scalar register, once for the warp, ends so. -/
theorem ends_scalar {s : State} {i : Instr} {p : Pred} {x : Issue} (h : Issues s i p x) (hd : x.denied = none) (d : Nat) (v : Issue → Nat)
    (he : exec i s = s.issue i p fun x => if x.once then { x with w := x.w.setS d (v x) } else x) :
    Ends s i x (WroteScalar x d (if x.once then v x.takePorts % 2 ^ 64 else x.w.sreg d)) := by
  by_cases hx : x.once = true
  · obtain ⟨t, w, h1, h2, fr, sr⟩ := ends_effect h hd he (if_pos (by simpa using hx)) (touches_setS _ _ _ [] [])
    exact ⟨t, w, h1, h2, fr, by rw [sr.sreg, if_pos hx]; simp [Warp.sreg_setS]⟩
  · obtain ⟨t, w, h1, h2, fr, sr⟩ := ends_effect (regs := [(1, d)]) (ls := []) (ms := []) h hd he (if_neg (by simpa using hx)) (.refl ..)
    exact ⟨t, w, h1, h2, fr, by rw [sr.sreg, if_neg hx, takePorts_sreg]; unfold Warp.sreg; split <;> rfl⟩

/-! ### Masks -/

theorem bitAt_eq_testBit (m l : Nat) : bitAt m l = m.testBit l := by
  unfold bitAt; rw [Nat.testBit_eq_decide_div_mod_eq]; rfl

/-- A mask has the bits of its lanes. -/
theorem bitAt_maskOf (ls : List Nat) (l : Nat) : bitAt (maskOf ls) l = decide (l ∈ ls) := by
  have key : ∀ (ls : List Nat) (m : Nat), (ls.foldl (fun m l => m ||| 2 ^ l) m).testBit l = (m.testBit l || decide (l ∈ ls)) := by
    intro ls
    induction ls with
    | nil => simp
    | cons a t ih =>
      intro m
      rw [List.foldl_cons, ih, Nat.testBit_or, Nat.testBit_two_pow, Bool.or_assoc]
      congr 1
      by_cases h : a = l
      · subst h; simp
      · simp only [h, decide_false, Bool.false_or, List.mem_cons, decide_eq_decide]
        exact ⟨.inr, fun e => e.resolve_left (Ne.symm h)⟩
  rw [bitAt_eq_testBit, maskOf, key]
  simp

theorem bitAt_mod {m l : Nat} (h : l < 32) : bitAt (m % 2 ^ 32) l = bitAt m l := by
  rw [bitAt_eq_testBit, bitAt_eq_testBit, Nat.testBit_mod_two_pow]
  simp [h]

/-- Setting the bits of some lanes in a mask leaves the others. -/
theorem bitAt_setMaskBits (x : Issue) (m : Nat) (ls : List Nat) (p : Nat → Bool) {l : Nat} (hl : l < 32) :
    bitAt ((x.setMaskBits m ls p).w.mreg m) l = if l ∈ ls then p l else bitAt (x.w.mreg m) l := by
  unfold Issue.setMaskBits
  simp only [Warp.mreg_setM, if_true]
  rw [bitAt_mod hl, bitAt_maskOf]
  have : l ∈ allLanes := List.mem_range.2 hl
  by_cases h : l ∈ ls <;> simp [h, this]

/-- A comparison ends with its outcomes in the mask bits of the executing lanes, or with U = 1 in a scalar register (07 R187, 08
R205). -/
theorem ends_compare {s : State} {i : Instr} {p : Pred} {x : Issue} (h : Issues s i p x) (hd : x.denied = none) (u : Bool) (d : Nat) (q : Issue → Nat → Bool)
    (he : exec i s = s.issue i p fun x => x.compareOut u d (q x)) :
    Ends s i x (if u then WroteScalar x d (match x.ex with | [] => x.w.sreg d | l :: _ => flagNat (q x.takePorts l))
      else WroteBits x d fun l => if l ∈ x.ex then q x.takePorts l else bitAt (x.w.mreg d) l) := by
  cases u with
  | true =>
    rw [if_pos rfl]
    cases hx : x.ex with
    | nil =>
      obtain ⟨t, w, h1, h2, fr, sr⟩ := ends_effect (y := x.takePorts) (regs := [(1, d)]) (ls := []) (ms := []) h hd he
        (by simp [Issue.compareOut, hx]) (.refl ..)
      exact ⟨t, w, h1, h2, fr, by rw [sr.sreg, takePorts_sreg]; unfold Warp.sreg; split <;> rfl⟩
    | cons l ls =>
      obtain ⟨t, w, h1, h2, fr, sr⟩ := ends_effect (y := { x.takePorts with w := x.takePorts.w.setS d (flagNat (q x.takePorts l)) }) h hd he
        (by simp [Issue.compareOut, hx]) (touches_setS _ _ _ [] [])
      refine ⟨t, w, h1, h2, fr, ?_⟩
      rw [sr.sreg]
      simp only [Warp.sreg_setS, if_true]
      cases q x.takePorts l <;> simp [flagNat]
  | false =>
    rw [if_neg (by simp)]
    by_cases hx : x.ex.isEmpty = true
    · obtain ⟨t, w, h1, h2, fr, sr⟩ := ends_effect (y := x.takePorts) (regs := [(2, d)]) (ls := []) (ms := []) h hd he
        (by simp [Issue.compareOut, hx]) (.refl ..)
      refine ⟨t, w, h1, h2, fr, fun l _ => ?_⟩
      rw [sr.mreg, takePorts_mreg]
      simp [List.isEmpty_iff.1 hx]
    · obtain ⟨t, w, h1, h2, fr, sr⟩ := ends_effect (y := x.takePorts.setMaskBits d x.ex (q x.takePorts)) h hd he
        (by simp [Issue.compareOut, hx]) (touches_setM _ _ _ [] [])
      refine ⟨t, w, h1, h2, fr, fun l hl => ?_⟩
      rw [sr.mreg, bitAt_setMaskBits _ _ _ _ hl, takePorts_mreg]

end Sys2Proof.Machine
end

