-- ==== Sys2Proof/Tests/Slice0.lean ====
section
/-! SUPPORT. Tests of the model: well-formedness and decoding against words of the spec, for every statement of the provers a state
that meets its hypotheses, and small tests of single steps whose expected values come from the spec's rules and examples. -/

namespace Sys2Proof.Tests

open Sys2Proof Sys2Proof.Machine

set_option Elab.async false

/-! ### Helpers -/

/-- The predicate that always holds. -/
def always : Pred := ⟨12, false⟩

/-- A small device: one node of one warp of 32 lanes at level 2, about to issue at address 0. -/
def base : State := { State.reset.withFetchWord 64 0 with cur := some 1 }

/-- A predicate for longer tests, which holds in lanes 0 and 1, and the device with that mask and only these lanes started. -/
def few : Pred := ⟨5, false⟩

/-- Changes of the issuing warp, of its node, of its launch and of its context. -/
def onWarp (f : Warp → Warp) (s : State) : State := { s with warps := adjust 1 f s.warps }
def onNode (f : Node → Node) (s : State) : State := { s with nodes := adjust 1 f s.nodes }
def onLaunch (f : Launch → Launch) (s : State) : State := { s with launches := adjust 1 f s.launches }
def onCtx (f : Ctx → Ctx) (s : State) : State := { s with ctxs := adjust 1 f s.ctxs }

def two : State := onWarp (fun w => { w.setM 5 3 with lanes := [{}, {}] ++ List.replicate 30 { st := .never } }) base

/-- Registers with values: V registers in every started lane, V pairs, and S registers. -/
def withV (rs : List (Nat × Nat)) (s : State) : State :=
  onWarp (fun w => rs.foldl (fun w e => (allLanes.filter fun l => (w.lane l).st != .never).foldl (fun w l => w.setV e.1 l e.2) w) w) s
def withVp (rs : List (Nat × Nat)) (s : State) : State := withV (rs.flatMap fun e => [(e.1, e.2 % 2 ^ 32), (e.1 + 1, e.2 / 2 ^ 32)]) s
def withS (rs : List (Nat × Nat)) (s : State) : State := onWarp (fun w => rs.foldl (fun w e => w.setS e.1 e.2) w) s

/-- The hypotheses of `Issues`, and a further condition on what the issue begins with, as a test. -/
def meets (s : State) (i : Instr) (p : Pred) (q : Issue → Bool) : Bool :=
  match s.start i p with
  | some x => !x.held && !(x.once && x.unbound) && !x.readsPoison p && !x.red && x.forkAlive && q x
  | none => false

/-- Support for the witnesses: what the test says. -/
theorem of_meets {s : State} {i : Instr} {p : Pred} {P : Issue → Prop} [DecidablePred P]
    (h : meets s i p (fun x => decide (P x)) = true) : ∃ x, Issues s i p x ∧ P x := by
  unfold meets at h
  split at h
  · rename_i x hx
    simp only [Bool.and_eq_true, Bool.not_eq_true', decide_eq_true_eq] at h
    obtain ⟨⟨⟨⟨⟨h1, h2⟩, h3⟩, h4⟩, h5⟩, h6⟩ := h
    exact ⟨x, ⟨hx, h1, h2, h3, h4, h5⟩, h6⟩
  · cases h

/-- Support: every instruction of a list meets a condition at its issue. -/
theorem all_meet {s : State} {p : Pred} {l : List Instr} {P : Issue → Prop} [DecidablePred P]
    (h : (l.all fun i => meets s i p (fun x => decide (P x))) = true) : ∀ i ∈ l, ∃ x, Issues s i p x ∧ P x :=
  fun i hi => of_meets (List.all_eq_true.mp h i hi)

/-- Every instruction of a list issues in `s`, some lane executing. -/
def IssueAll (p : Pred) (s : State) (l : List Instr) : Prop := ∀ i ∈ l, ∃ x, Issues s i p x ∧ x.ex ≠ []

/-- What `exec` of `i` leaves of the issuing warp meets a test. -/
def lands (s : State) (i : Instr) (q : State → Warp → Bool) : Bool :=
  match exec i s with
  | .next t => match find 1 t.warps with | some w => q t w | none => false
  | _ => false

/-- What `exec` of an event leaves meets a test. -/
def ends (s : State) (i : Instr) (q : State → Bool) : Bool := match exec i s with | .next t => q t | _ => false

/-! ### Well-formedness (02 R51–R61): one ill-formed term for each check -/

theorem test_wf_good : (Instr.iadd8 { p := always, d := 1, a := 2, b := 3 }).wellFormed = true := by decide +kernel
/-- PRED (02 R52): a predicate mask above 12. -/
theorem test_wf_pred : (Instr.nop ⟨13, false⟩).wellFormed = false := by decide +kernel
/-- UFORM (02 R53): `LDG` has no uniform form. -/
theorem test_wf_uform : (Instr.ldg { p := always, u := true, sz := .b32, d := 1, a := 2, b := 4, c := 1 }).wellFormed = false := by decide +kernel
/-- FN (07 R187): `ICMP` has functions 0 to 9. -/
theorem test_wf_fn : (Instr.icmp8 { p := always, d := 1, a := 2, b := 3, fn := 10 }).wellFormed = false := by decide +kernel
/-- MOD (09 R217): an order without a scope. -/
theorem test_wf_mod : (Instr.ld8 { p := always, sz := .b32, ord := .acq, d := 1, a := 2, b := 4 }).wellFormed = false := by decide +kernel
/-- MOD (07 R191): VM names one of twelve masks. -/
theorem test_wf_vm : (Instr.shflIdx8 { p := always, d := 1, a := 2, b := 3, x := 13 }).wellFormed = false := by decide +kernel
/-- MOD (07 R195): no CSR has this number. -/
theorem test_wf_csr : (Instr.csrr { p := always, csrn := 0x00A, r := 1 }).wellFormed = false := by decide +kernel
/-- REG (02 R55): a mask register above 11. -/
theorem test_wf_reg : (Instr.join always 12).wellFormed = false := by decide +kernel
/-- REG (02 R55): a V pair in an odd register. -/
theorem test_wf_pair : (Instr.ld8 { p := always, sz := .b32, d := 1, a := 3, b := 4 }).wellFormed = false := by decide +kernel
/-- IMM (11 R260): a shape that no tile can have. -/
theorem test_wf_imm : (Instr.tcfg12 { p := always, d := 3, imm := 0xFFFFFFFF }).wellFormed = false := by decide +kernel
/-- A field that does not fit its bits (02 R51). -/
theorem test_wf_range : (Instr.movs { p := always, d := 256, a := 2 }).wellFormed = false := by decide +kernel
/-- DISP (02 R56): a displacement that is no multiple of 4, or leads below 0. -/
theorem test_wf_disp : dispOk 0 (.bra always 6) = false ∧ dispOk 0 (.bra always 0xFFFFFFFC) = false ∧ dispOk 8 (.bra always 0xFFFFFFF8) = true := by decide +kernel
/-- No words stand for an event. -/
theorem test_wf_event : Instr.headBlocked.wellFormed = false ∧ encode .headBlocked = none := by decide +kernel

/-! ### Decoding: words of the spec's worked examples and of its encoding tables (02 R46, R51–R59) -/

/-- 07 R178: `ICMP.LTU` under `m1`. -/
theorem test_decode_icmp : decodeTableWord 64 0x00000605040204C8 = some (.icmp8 { p := ⟨1, false⟩, d := 2, a := 4, b := 5, fn := 6 }) := by decide +kernel
/-- 08 R200: `FADD` with an immediate of 1.5. -/
theorem test_decode_fadd : decodeTableWord 96 0x3FC000000000000006053141 = some (.fadd12 { p := always, d := 5, a := 6, imm := 0x3FC00000 }) := by decide +kernel
/-- 10 R237: `KGET` of table 20. -/
theorem test_decode_kget : decodeTableWord 128 0x00000014000900000000000006043246 = some (.kget { p := always, d := 4, a := 6, tbl := 20, sr := 9 }) := by decide +kernel
/-- 11 R267: `TLD.ACQ.DEVICE`. -/
theorem test_decode_tld : decodeTableWord 128 0x000000000000000B00E0000A080232AA
    = some (.tld { p := always, ord := .acq, scp := .device, d := 2, a := 8, b := 10, c := 11 }) := by decide +kernel
/-- 12 R284: `CPY.ACQ.DEVICE`, its destination in the partition. -/
theorem test_decode_cpy : decodeTableWord 128 0x000000000000000A02C1000806043302
    = some (.cpy { p := always, acq := true, scp := .device, x := 1, d := 4, a := 6, b := 8, c := 10 }) := by decide +kernel
/-- 16 R320: `ERET.SKIP`. -/
theorem test_decode_eret : decodeTableWord 64 0x0001000004033380 = some (.eretSkip { p := always, d := 3, a := 4 }) := by decide +kernel
/-- 19 R393: `RBEG`, `RCHK` and `REND`. -/
theorem test_decode_region : decodeTableWord 64 0x0000332C = some (.rbeg { p := always }) ∧ decodeTableWord 64 0x00003330 = some (.rchk { p := always })
    ∧ decodeTableWord 64 0x00003334 = some (.rend { p := always }) := by decide +kernel
/-- 07 R165: `BAR` of group 3; 02 R47: the pad word. -/
theorem test_decode_bar : decodeTableWord 64 0x000000030000302C = some (.bar always 3) ∧ decodeTableWord 32 3 = some .pad := by decide +kernel
/-- 02 R61: reserved bits, an unknown opcode and a predicate above 12 decode to nothing. -/
theorem test_decode_refuses : decodeTableWord 64 0x0000000300003430 = none ∧ decodeTableWord 64 0xFFFFFFFFFFFFFFFF = none ∧ decodeTableWord 32 7 = none := by decide +kernel

/-! ### The integer class: witnesses of the statements' hypotheses -/

/-- Fields of the integer class for the witnesses. -/
def fi : IntF := { p := always, d := 1, a := 2, b := 3, c := 4, fn := 2 }

theorem test_meets_IntegerArithmetic : IssueAll always base [.iadd8 fi, .iadd12 fi, .isub8 fi, .isub12 fi, .imul8 fi, .imul12 fi, .imad fi,
    .imulh8 fi, .imulh12 fi, .idiv8 fi, .idiv12 fi, .idivRem8 fi, .idivRem12 fi] := all_meet (by decide +kernel)
theorem test_meets_IntegerExtremesAndShifts : IssueAll always base [.imin8 fi, .imin12 fi, .imax8 fi, .imax12 fi, .iabs fi, .shl8 fi, .shl12 fi, .shr8 fi,
    .shr12 fi, .shrSx8 fi, .shrSx12 fi, .rot8 fi, .rot12 fi] := all_meet (by decide +kernel)
theorem test_meets_IntegerBitsAndMoves : IssueAll always base [.bool8 fi, .bool12 fi, .bool16 fi, .popc fi, .clz fi, .brev fi, .bfx8 fi, .bfx12 fi, .bfi fi,
    .mov fi, .movi fi, .movs fi, .mpop fi, .mpopTot fi, .movsFirst fi, .sel fi] := all_meet (by decide +kernel)
theorem test_meets_IntegerComparisons : IssueAll always base [.icmp8 fi, .icmp12 fi] := all_meet (by decide +kernel)
theorem test_meets_MaskOperationsAndVotes : IssueAll always base [.mskAnd fi, .mskOr fi, .mskXor fi, .mskAndn fi, .mskNot fi, .mskFroms fi, .mskPath fi, .mskTos fi,
    .voteAll fi, .voteAny fi, .voteEq fi, .voteBallot fi] := all_meet (by decide +kernel)
theorem test_meets_LaneExchanges : IssueAll always base [.shflIdx8 fi, .shflIdx12 fi, .shflUp8 fi, .shflUp12 fi, .shflDown8 fi, .shflDown12 fi, .shflXor8 fi,
    .shflXor12 fi, .matchAny fi, .matchAll fi, .redw fi] := all_meet (by decide +kernel)
/-- 07 R194: the eight operators at the bounds of their range. -/
theorem test_reduce : ([(0, 0), (1, 0x80000000), (2, 1), (3, 1), (4, 0x80000000), (5, 0), (6, 0x80000001), (7, 0x80000001)].all fun e => reduceOp e.1 32 0x80000000 (if e.1 = 0 then 0x80000000 else 1) == e.2) = true := by decide +kernel
/-- The uniform forms issue too, and the clauses on numbers hold at bounds. -/
theorem test_meets_uniform : IssueAll always base [.iadd8 { fi with u := true }, .icmp8 { fi with u := true }, .mov { fi with u := true, w := true }] :=
  all_meet (by decide +kernel)

/-! ### The integer class: single steps -/

/-- A warp whose lane l holds l in `v2` and 3 in `v3`. -/
def ramp : State := onWarp (fun w => allLanes.foldl (fun w l => (w.setV 2 l l).setV 3 l 3) w) base

/-- 07 R181: `ISUB.USAT` of 3 and 5 gives 0 and sets SAT. -/
theorem test_isub_usat : lands (withV [(2, 3), (3, 5)] base) (.isub8 { fi with ov := .usat }) (fun _ w => w.vreg 1 7 == 0 && (w.lane 7).fflags == fSAT) = true := by
  decide +kernel
/-- 07 R181: wrapping arithmetic sets no flag, and leaves other registers alone. -/
theorem test_iadd_wraps : lands (withV [(2, 0xFFFFFFFF), (3, 2)] base) (.iadd8 fi)
    (fun _ w => w.vreg 1 31 == 1 && (w.lane 31).fflags == 0 && w.vreg 2 31 == 0xFFFFFFFF && (w.lane 31).pc == 8) = true := by decide +kernel
theorem test_imad : lands (withV [(2, 7), (3, 9), (4, 5)] base) (.imad fi) (fun _ w => w.vreg 1 0 == 68) = true := by decide +kernel
theorem test_imulh : lands (withV [(2, 0xFFFFFFFF), (3, 2)] base) (.imulh8 fi) (fun _ w => w.vreg 1 0 == 0xFFFFFFFF) = true := by decide +kernel
/-- 07 R182: a divisor of 0, and −2^31 ÷ −1. -/
theorem test_idiv_zero : lands (withV [(2, 5), (3, 0)] base) (.idiv8 fi) (fun _ w => w.vreg 1 0 == 0xFFFFFFFF && (w.lane 0).fflags == fDZ) = true := by
  decide +kernel
theorem test_idiv_min : lands (withV [(2, 0x80000000), (3, 0xFFFFFFFF)] base) (.idiv8 fi) (fun _ w => w.vreg 1 0 == 0x80000000 && (w.lane 0).fflags == 0) = true := by
  decide +kernel
/-- 07 R182: the remainder carries the sign of the dividend. -/
theorem test_irem_sign : lands (withV [(2, 0xFFFFFFF9), (3, 2)] base) (.idivRem8 fi) (fun _ w => w.vreg 1 0 == 0xFFFFFFFF) = true := by decide +kernel
theorem test_imin_signed : lands (withV [(2, 0xFFFFFFFF), (3, 1)] base) (.imin8 fi) (fun _ w => w.vreg 1 0 == 0xFFFFFFFF) = true := by decide +kernel
theorem test_imax_uns : lands (withV [(2, 0xFFFFFFFF), (3, 1)] base) (.imax8 { fi with uns := true }) (fun _ w => w.vreg 1 0 == 0xFFFFFFFF) = true := by
  decide +kernel
/-- 07 R183: the absolute value of the most negative number. -/
theorem test_iabs_min : lands (withV [(2, 0x80000000)] base) (.iabs fi) (fun _ w => w.vreg 1 0 == 0x80000000 && (w.lane 0).fflags == 0) = true := by decide +kernel
theorem test_iabs_sat : lands (withV [(2, 0x80000000)] base) (.iabs { fi with ov := .sat }) (fun _ w => w.vreg 1 0 == 0x7FFFFFFF && (w.lane 0).fflags == fSAT) = true := by
  decide +kernel
/-- 07 R184: a count of 256 is 0; a count of 32 empties the register; an arithmetic shift fills with signs. -/
theorem test_shl_256 : lands (withV [(2, 5), (3, 256)] base) (.shl8 fi) (fun _ w => w.vreg 1 0 == 5) = true := by decide +kernel
theorem test_shr_32 : lands (withV [(2, 0xFFFFFFFF), (3, 32)] base) (.shr8 fi) (fun _ w => w.vreg 1 0 == 0) = true := by decide +kernel
theorem test_shrsx_all : lands (withV [(2, 0x80000000), (3, 255)] base) (.shrSx8 fi) (fun _ w => w.vreg 1 0 == 0xFFFFFFFF) = true := by decide +kernel
theorem test_rot_33 : lands (withV [(2, 0x80000001), (3, 33)] base) (.rot8 fi) (fun _ w => w.vreg 1 0 == 3) = true := by decide +kernel
/-- 07 R185: the majority of three. -/
theorem test_bool_majority : lands (withV [(2, 0xC), (3, 0xA), (4, 0x9)] base) (.bool16 { fi with fn := 0xE8 }) (fun _ w => w.vreg 1 0 == 8) = true := by decide +kernel
theorem test_clz_zero : lands base (.clz fi) (fun _ w => w.vreg 1 0 == 32) = true := by decide +kernel
theorem test_brev : lands (withV [(2, 1)] base) (.brev fi) (fun _ w => w.vreg 1 0 == 0x80000000) = true := by decide +kernel
theorem test_popc : lands (withV [(2, 0xF0F)] base) (.popc fi) (fun _ w => w.vreg 1 0 == 8) = true := by decide +kernel
/-- 07 R186: bits [7:4] of 0xF5 with their sign, and inserted. -/
theorem test_bfx_signed : lands (withV [(2, 0xF5), (3, 0x404)] base) (.bfx8 fi) (fun _ w => w.vreg 1 0 == 0xFFFFFFFF) = true := by decide +kernel
theorem test_bfi : lands (withV [(2, 0x3), (3, 0x404), (4, 0xFFFFFFFF)] base) (.bfi fi) (fun _ w => w.vreg 1 0 == 0xFFFFFF3F) = true := by decide +kernel
/-- 07 R187: signed and unsigned order; bits of lanes that do not execute stay. -/
theorem test_icmp_lt : lands (onWarp (fun w => (w.setM 1 0xFF).setM 5 0xF) (withV [(2, 0xFFFFFFFF), (3, 1)] base)) (.icmp8 { fi with p := ⟨5, false⟩, fn := 7 })
    (fun _ w => w.mreg 1 == 0xF0) = true := by decide +kernel
/-- 07 R187: `!m4: SEL v1, v2, v3`. -/
theorem test_sel : lands (onWarp (fun w => w.setM 4 1) (withV [(2, 8), (3, 9)] base)) (.sel { fi with p := ⟨4, true⟩ })
    (fun _ w => w.vreg 1 0 == 9 && w.vreg 1 1 == 8) = true := by decide +kernel
theorem test_movi_w : lands base (.movi { fi with d := 2, w := true, imm := 0xFFFFFFFE }) (fun _ w => w.vreg 2 0 == 0xFFFFFFFE && w.vreg 3 0 == 0xFFFFFFFF) = true := by
  decide +kernel
theorem test_movs_first : lands (onWarp (fun w => w.setM 5 0xC) ramp) (.movsFirst { fi with p := ⟨5, false⟩, d := 7 }) (fun _ w => w.sreg 7 == 2) = true := by decide +kernel
/-- 01 R17: `s0` discards what is written to it. -/
theorem test_mov_s0 : lands (withS [(2, 9)] base) (.mov { fi with u := true, d := 0 }) (fun _ w => w.sreg 0 == 0) = true := by decide +kernel
theorem test_msk_andn : lands (onWarp (fun w => (w.setM 2 0xFF).setM 3 0xF) base) (.mskAndn fi) (fun _ w => w.mreg 1 == 0xF0) = true := by decide +kernel
/-- 07 R189: the rank of lane 3 in a mask of lanes 0, 2 and 3. -/
theorem test_mpop : lands (onWarp (fun w => w.setM 2 0xD) base) (.mpop fi) (fun _ w => w.vreg 1 3 == 2 && w.vreg 1 31 == 3) = true := by decide +kernel
theorem test_vote_ballot : lands (onWarp (fun w => w.setM 5 0xF) ramp) (.voteBallot { fi with p := ⟨5, false⟩ }) (fun _ w => w.sreg 1 == 0xE) = true := by decide +kernel
/-- 07 R191, the worked example: lane 4 Parked, lane 5 Exited, lane 6 on another path. -/
def shuffled : State := onWarp (fun w =>
  let w := allLanes.foldl (fun w l => w.setLane l fun y => if l < 4 then y else if l = 4 then { y with st := .parked } else if l = 6 then { y with pc := 64 } else { y with st := .exited }) w
  let w := [(0, 4), (1, 5), (2, 6), (3, 2)].foldl (fun w e => w.setV 7 e.1 e.2) w
  [(0, 10), (1, 11), (2, 12), (3, 13), (4, 44), (5, 55), (6, 66)].foldl (fun w e => w.setV 9 e.1 e.2) w) base
theorem test_shfl_example : lands shuffled (.shflIdx8 { p := always, d := 8, a := 9, b := 7, x := 1 })
    (fun _ w => w.vreg 8 0 == 44 && w.vreg 8 1 == 0 && w.vreg 8 2 == 66 && w.vreg 8 3 == 12 && w.mreg 0 == 0xD) = true := by decide +kernel
theorem test_shfl_up_edge : lands ramp (.shflUp8 { fi with x := 0 }) (fun _ w => w.vreg 1 2 == 2 && w.vreg 1 3 == 0) = true := by decide +kernel
theorem test_match_any : lands (onWarp (fun w => w.setV 2 9 5) (withV [(2, 4)] base)) (.matchAny fi) (fun _ w => w.vreg 1 9 == 0x200 && w.vreg 1 0 == 0xFFFFFDFF) = true := by
  decide +kernel
/-- 07 R194: the sum of the lane numbers. -/
theorem test_redw_add : lands ramp (.redw { fi with fn := 0 }) (fun _ w => w.vreg 1 17 == 496) = true := by decide +kernel

/-! ### The control class: witnesses -/

theorem test_meets_IssueBegins : ∃ x, base.start (.nop always) always = some x ∧ x.act.length = 32 :=
  let ⟨x, h, hx⟩ := of_meets (s := base) (i := .nop always) (p := always) (P := fun x => x.act.length = 32) (by decide +kernel)
  ⟨x, h.starts, hx⟩
theorem test_meets_NoOperationsAndBranches : IssueAll always base [.pad, .nop always, .bra always 32, .braNz always 1 32, .braZ always 1 32] := all_meet (by decide +kernel)
/-- Targets that are multiples of 4, and others: clauses of `JumpsAndCalls` and of `ControlTraps`. -/
theorem test_meets_JumpsAndCalls : ∀ i ∈ [Instr.brx always 2, .ret always 2, .callx always 5 2, .call always 5 32, .trmp always 1 32],
    ∃ x, Issues (withV [(2, 64)] base) i always x ∧ x.ex ≠ [] ∧ (∀ l ∈ x.ex, x.takePorts.val 0 l % 4 = 0) ∧ ∀ l ∈ x.ex, x.takePorts.val 1 l % 4 = 0 :=
  all_meet (by decide +kernel)
theorem test_meets_ControlTraps : ∀ i ∈ [Instr.brx always 2, .ret always 2, .trap always 3, .bkpt always 3, .uretRetry always, .uretSkip always, .call always 5 6],
    ∃ x, Issues (onWarp (fun w => { w with utvec := 256 }) (withV [(2, 62)] base)) i always x ∧ x.ex ≠ [] ∧ x.w.utvec ≠ 0 ∧ x.w.isSeq = false
      ∧ (i = .brx always 2 ∨ i = .ret always 2 → ∀ l ∈ x.ex, x.takePorts.val 0 l % 4 ≠ 0) ∧ ∀ l ∈ x.ex, (x.w.lane l).inHandler = false :=
  fun i hi => of_meets (P := fun x => x.ex ≠ [] ∧ x.w.utvec ≠ 0 ∧ x.w.isSeq = false
      ∧ (i = .brx always 2 ∨ i = .ret always 2 → ∀ l ∈ x.ex, x.takePorts.val 0 l % 4 ≠ 0) ∧ ∀ l ∈ x.ex, (x.w.lane l).inHandler = false)
    (by revert i; decide +kernel)
theorem test_meets_MaskMembershipAndWaits : ∀ i ∈ [Instr.join always 3, .leave always 3, .elect always 3, .waitm always 3], ∃ x, Issues base i always x
    ∧ x.w.lanes.length = 32 ∧ x.ex ≠ [] := all_meet (by decide +kernel)
/-- A launch with one barrier group of the warp, and the bit of that group in the warp. -/
def grouped : State := onWarp (fun w => { w with grps := 1 }) (onLaunch (fun l => { l with groups := [{ bar := true, win := false, pair := false, members := [(0, 0)] }] }) base)
theorem test_meets_BarrierAndYield : ∃ x, Issues grouped (.bar always 0) always x ∧ usableGroup x 0 = true ∧ x.w.isSeq = false ∧ x.ex ≠ [] :=
  of_meets (by decide +kernel)
/-- A load of lane 0 that its granule has not served, in a warp that is asked to stop. -/
def unserved : FePend := { id := 1, who := ⟨1, 0⟩, unit := 0, off := 32, size := 4, sx := false, consume := false, d := 6, at_ := 24, grp := 1 }
def leaving : State := onWarp (fun w => { w with preq := true }) { base with fePend := [unserved] }
theorem test_meets_BarrierAndYield_load : ∃ x, Issues leaving (.yield always) always x ∧ x.ex ≠ [] ∧ x.w.preq = true ∧ (x.s.feOf x.wk).find? (fun q => q.who.lane == 0) = some unserved
    ∧ (x.w.lane 0).st = .running ∧ 0 < x.w.lanes.length := of_meets (by decide +kernel)
/-- All 32 lanes in the handler of a trap that formed fragment 1. -/
def inHandler : State := onWarp (fun w => { (allLanes.foldl (fun w l => w.setLane l fun y => { y with inHandler := true, uepc := 96, frag := 1 }) w) with
  frags := [{ id := 1, parent := 0, trap := true }], utvec := 256 }) base
theorem test_meets_ReturnFromHandler : ∀ i ∈ [Instr.uretRetry always, .uretSkip always], ∃ x, Issues inHandler i always x
    ∧ (∀ l ∈ x.ex, (x.w.lane l).inHandler = true ∧ (x.w.lane l).uepc.toNat % 4 = 0) ∧ x.w.lanes.length = 32 ∧ x.ex ≠ [] := all_meet (by decide +kernel)
theorem test_meets_CsrAccesses : ∀ i ∈ [Instr.csrr { p := always, csrn := 0x103, r := 1 }, .csrw { p := always, csrn := 0x018, r := 1 }, .csrwSet { p := always, csrn := 0x028, r := 1 },
    .csrwClr { p := always, csrn := 0x01A, r := 1 }, .parkceilWrite { p := always, csrn := 0x103, r := 1 }], ∃ x, Issues base i always x ∧ csrLevel 0x204 ≤ x.lvl ∧ x.ex ≠ [] :=
  all_meet (by decide +kernel)
/-- What the unit reads on a pan unit, and SIBM with and without another fragment. -/
theorem test_csr_unit : (match (onWarp (fun w => { w.setLane 1 fun y => { y with frag := 1 } with unit := 768 + 2 * 16 + 15, frags := [{ id := 1, parent := 0 }] }) base).start (.csrr { p := always, csrn := 2, r := 1 }) always with
    | some x => csrRead x 0 2 == 15 && csrRead x 0 4 == 10 && csrRead x 0 0x021 == 2 && csrRead x 1 0x021 == 0 | none => false) = true := by decide +kernel
theorem test_meets_ExitLanes : ∃ x, Issues base (.exit always) always x ∧ x.w.lanes.length = 32 ∧ ∀ l, l < 32 → l ∈ x.ex :=
  of_meets (by decide +kernel)
theorem test_meets_ExitLanes_some : ∃ x, Issues (onWarp (fun w => w.setM 5 1) base) (.exit ⟨5, false⟩) ⟨5, false⟩ x ∧ x.ex = [0] ∧ (x.w.lane 1).st = .running :=
  of_meets (by decide +kernel)
/-- `TRAP` where UTVEC is 0 escalates at level 2 by killing the node, below it by a record. -/
theorem test_meets_TrapsEscalate : ∃ x, Issues base (.trap always 1) always x ∧ x.w.isSeq = false ∧ x.lvl = 2 ∧ x.ex ≠ [] ∧ x.w.utvec = 0
    ∧ find x.nk base.nodes = some x.n ∧ x.n.st.final = false := of_meets (by decide +kernel)
theorem test_meets_TrapsEscalate_user : ∃ x, Issues (onNode (fun n => { n with desc := { n.desc with lvl := 0 } }) base) (.trap always 1) always x ∧ x.lvl < 2 ∧ x.ex ≠ []
    ∧ (∀ l ∈ x.ex, (x.w.lane l).frag = (x.w.lane (x.ex.headD 0)).frag) ∧ x.w.utvec = 0 := of_meets (by decide +kernel)

/-! ### The control class: single steps -/

theorem test_bra_partial : lands (onWarp (fun w => w.setM 1 0xFFFF0000) base) (.bra ⟨1, false⟩ 40) (fun _ w => (w.lane 0).pc == 12 && (w.lane 31).pc == 40) = true := by
  decide +kernel
theorem test_braNz : lands (withS [(1, 1)] base) (.braNz always 1 40) (fun _ w => (w.lane 5).pc == 40) = true := by decide +kernel
theorem test_braZ_not : lands (withS [(1, 1)] base) (.braZ always 1 40) (fun _ w => (w.lane 5).pc == 12) = true := by decide +kernel
/-- 07 R167: `CALLX v5, v5` jumps to the old value and links. -/
theorem test_callx_same : lands (withV [(5, 64)] base) (.callx always 5 5) (fun _ w => (w.lane 1).pc == 64 && w.vreg 5 1 == 8) = true := by decide +kernel
theorem test_call : lands base (.call always 230 64) (fun _ w => (w.lane 1).pc == 64 && w.vreg 230 1 == 12) = true := by decide +kernel
theorem test_ret : lands (withV [(230, 20)] base) (.ret always 230) (fun _ w => (w.lane 1).pc == 20) = true := by decide +kernel
/-- 07 R167, R174: a misaligned target traps with MISALIGN, TARGET into the handler. -/
theorem test_brx_misaligned : lands (onWarp (fun w => { w with utvec := 256 }) (withV [(2, 62)] base)) (.brx always 2)
    (fun _ w => (w.lane 1).pc == 256 && (w.lane 1).inHandler && (w.lane 1).ucause == 2 + 3 * 256 && (w.lane 1).uepc == 0) = true := by decide +kernel
theorem test_trap_user : lands (onWarp (fun w => { w with utvec := 256 }) base) (.trap always 7)
    (fun _ w => (w.lane 1).ucause == 9 + 7 * 256 && (w.lane 1).frag == 1) = true := by decide +kernel
theorem test_exit_some : lands (onWarp (fun w => (w.setM 5 1).setM 0 0xFFFFFFFF) base) (.exit ⟨5, false⟩)
    (fun _ w => (w.lane 0).st == .exited && w.mreg 0 == 0xFFFFFFFE && (w.lane 1).pc == 8) = true := by decide +kernel
theorem test_exit_all : ends base (.exit always) (fun t => t.warps.isEmpty) = true := by decide +kernel
theorem test_join : lands (onWarp (fun w => w.setM 5 6) base) (.join ⟨5, false⟩ 3) (fun _ w => w.mreg 3 == 6) = true := by decide +kernel
theorem test_leave : lands (onWarp (fun w => (w.setM 5 6).setM 3 7) base) (.leave ⟨5, false⟩ 3) (fun _ w => w.mreg 3 == 1) = true := by decide +kernel
theorem test_elect : lands (onWarp (fun w => w.setM 5 0xC) base) (.elect ⟨5, false⟩ 3) (fun _ w => w.mreg 3 == 4) = true := by decide +kernel
/-- 01 R30: lanes wait at a mask that has another member, and all run on when all members wait. -/
theorem test_waitm_waits : lands (onWarp (fun w => (w.setM 3 3).setM 5 1) base) (.waitm ⟨5, false⟩ 3) (fun _ w => (w.lane 0).st == .waiting && (w.lane 1).st == .running) = true := by
  decide +kernel
theorem test_waitm_all : lands (onWarp (fun w => w.setM 3 3) base) (.waitm always 3) (fun _ w => (w.lane 0).st == .running && (w.lane 0).pc == 8) = true := by decide +kernel
theorem test_bar_alone : lands grouped (.bar always 0) (fun _ w => (w.lane 3).st == .running && (w.lane 3).pc == 8) = true := by decide +kernel
theorem test_yield : lands (onWarp (fun w => { w with preq := true }) base) (.yield always) (fun _ w => w.stop == .yield && (w.lane 0).pc == 8) = true := by decide +kernel
/-- 09 R223: the lane that waits for its load stands at it again. -/
theorem test_yield_load : lands leaving (.yield always) (fun t w => (w.lane 0).pc == 24 && (w.lane 1).pc == 8 && t.fePend.isEmpty) = true := by decide +kernel
theorem test_uret_retry : lands inHandler (.uretRetry always) (fun _ w => (w.lane 0).pc == 96 && !(w.lane 0).inHandler && (w.lane 0).frag == 0) = true := by decide +kernel
theorem test_csrr_lane : lands base (.csrr { p := always, csrn := 0, r := 1 }) (fun _ w => w.vreg 1 9 == 9) = true := by decide +kernel
/-- 16 R312: PARKCEIL is kept at 64 or more. -/
theorem test_parkceil : lands (withV [(1, 5)] base) (.parkceilWrite { p := always, csrn := 0x103, r := 1 }) (fun t _ => (t.ctx 1).parkceil == 64) = true := by decide +kernel
theorem test_csrw_set : lands (withV [(1, 0x10)] base) (.csrwSet { p := always, csrn := 0x028, r := 1 }) (fun _ w => (w.lane 4).fflags == 0x10) = true := by decide +kernel

/-! ### The floating-point class -/

def ff : FpF := { p := few, d := 1, a := 2, b := 3, c := 4, fn := 2 }

theorem test_meets_FloatArithmetic : IssueAll few two [.fadd8 ff, .fadd12 ff, .fmul8 ff, .fmul12 ff, .ffma ff, .frnd ff, .frcp ff, .fsqrt ff, .frsq ff, .fex2 ff,
    .flg2 ff, .fsin ff, .fcos ff, .ftanh ff, .fcvtScalar { ff with fmt := .i8 }, .pfma { ff with fmt := .f16 }, .amrg { ff with d := 4, a := 8, b := 12 }] := all_meet (by decide +kernel)
theorem test_meets_FloatSelections : IssueAll few two [.fmin8 ff, .fmin12 ff, .fmax8 ff, .fmax12 ff, .fclass ff, .fcmp8 ff, .fcmp12 ff] := all_meet (by decide +kernel)
theorem test_meets_SpecialFunctions : IssueAll few two [.frsq ff, .fex2 ff, .flg2 ff, .fsin ff, .fcos ff, .ftanh ff] := all_meet (by decide +kernel)
/-- A finite input whose result is not exact, with its bound. -/
theorem test_meets_SpecialFunctions_bound : num32 0x3FA00000 = .fin false 0xA00000 (-23) ∧ bitAt (fpSpecial .sin 0x3FA00000).2 4 = true ∧ ∀ a, (Special.sin.bound 0xA00000 (-23) a).isSome = true := by
  refine ⟨by decide +kernel, ?_, fun a => ?_⟩
  · have h : fpSpecial .sin 0x3FA00000 = Special.sin.pick false 0xA00000 (-23) 0x3FA00000 := by
      simp only [fpSpecial, show lay32.value 0x3FA00000 = .fin false 0xA00000 (-23) from by decide +kernel]
      rfl
    rw [h]
    unfold Special.pick
    dsimp only
    generalize (match Special.sin.approx false 0xA00000 (-23) with | .fin t n f => n != 0 && lay32.tiny .rne t n 1 f | _ => false) = tiny
    cases tiny <;> rfl
  · have h : leMag 0xA00000 (-23) 1 22 = true := by decide +kernel
    simp only [Special.bound, h]
    rfl
theorem test_meets_ScalarConversions : IssueAll few two [.fcvtScalar { ff with fmt := .i8 }] := all_meet (by decide +kernel)
/-- The numbers that `RoundsOnce` is about: one that overflows, one that is tiny, one between two values. -/
theorem test_meets_RoundsOnce : bitAt (lay32.roundMag .rne false 1 1 200).2 2 = true ∧ bitAt (lay32.roundMag .rne false 1 3 (-149)).2 3 = true
    ∧ (lay32.roundMag .rne true 1 3 0).2 = fNX := by decide +kernel
/-- A format word for the block conversion of FP32 into INT8 without a record, which every lane holds in `v4`. -/
def blockFmt : FpF := { p := few, fmt := .i8, src := .f32, d := 1, a := 2, b := 3, c := 4 }
theorem test_meets_BlockConversion : ∃ x, Issues (withV [(4, 0x600)] two) (.fcvtBlock blockFmt) few x ∧ x.ex ≠ []
    ∧ (∀ l ∈ x.ex, x.takePorts.val 3 l % 2 ^ 32 = x.takePorts.val 3 x.takePorts.lowest % 2 ^ 32)
    ∧ (FmtWord.ofNat 0x600).sound = true ∧ blockFmts blockFmt = true ∧ (FmtWord.ofNat 0x600).cd = blockFmt.fmt.code ∧ (FmtWord.ofNat 0x600).fa = blockFmt.src.code
    ∧ x.takePorts.record 0 = some {} := of_meets (by decide +kernel)
/-- A triple (m, l, a0, a1) in each of two quads, in every lane. -/
def triples (a b : List Nat) : State := withV ((a.zipIdx.map fun e => (8 + e.2, e.1)) ++ b.zipIdx.map fun e => (12 + e.2, e.1)) two
def fq : FpF := { p := few, d := 4, a := 8, b := 12 }
theorem test_meets_AttentionMerge : ∃ x, Issues (triples [0, 0, 0, 0] [0, 0, 0, 0]) (.amrg fq) few x ∧ x.w.isSeq = false ∧ x.ex ≠ [] := of_meets (by decide +kernel)

/-- 08 R202: 1.5 + 2.25, and the sum of two infinities. -/
theorem test_fadd : lands (withV [(2, 0x3FC00000), (3, 0x40100000)] two) (.fadd8 ff) (fun _ w => w.vreg 1 0 == 0x40700000 && (w.lane 0).fflags == 0) = true := by decide +kernel
theorem test_fadd_inf : lands (withV [(2, 0x7F800000), (3, 0xFF800000)] two) (.fadd8 ff) (fun _ w => w.vreg 1 0 == 0x7FC00000 && (w.lane 0).fflags == fNV) = true := by
  decide +kernel
/-- 04 R94: the largest value doubled overflows to infinity, towards zero to the largest value. -/
theorem test_fmul_overflow : lands (withV [(2, 0x7F7FFFFF), (3, 0x40000000)] two) (.fmul8 ff)
    (fun _ w => w.vreg 1 0 == 0x7F800000 && (w.lane 0).fflags == fOF + fNX) = true := by decide +kernel
theorem test_fmul_rz : lands (withV [(2, 0x7F7FFFFF), (3, 0x40000000)] two) (.fmul8 { ff with rm := .rz }) (fun _ w => w.vreg 1 0 == 0x7F7FFFFF) = true := by decide +kernel
/-- One rounding: (1 + 2⁻¹²)² − 1 keeps its last bit. -/
theorem test_ffma_fused : lands (withV [(2, 0x3F800800), (3, 0x3F800800), (4, 0x3F800000)] two) (.ffma { ff with nc := true })
    (fun _ w => w.vreg 1 0 == 0x3A000400) = true := by decide +kernel
/-- 08 R207: the reciprocal of 3, and of 0. -/
theorem test_frcp : lands (withV [(2, 0x40400000)] two) (.frcp ff) (fun _ w => w.vreg 1 0 == 0x3EAAAAAB) = true := by decide +kernel
theorem test_fsqrt : lands (withV [(2, 0x40000000)] two) (.fsqrt ff) (fun _ w => w.vreg 1 0 == 0x3FB504F3) = true := by decide +kernel
/-- 2.5 to an integral value, ties to even. -/
theorem test_frnd_tie : lands (withV [(2, 0x40200000)] two) (.frnd ff) (fun _ w => w.vreg 1 0 == 0x40000000) = true := by decide +kernel
/-- 08 R204: −0 is less than +0, and a NaN gives way to a number. -/
theorem test_fmin_zero : lands (withV [(2, 0), (3, 0x80000000)] two) (.fmin8 ff) (fun _ w => w.vreg 1 0 == 0x80000000) = true := by decide +kernel
theorem test_fmax_nan : lands (withV [(2, 0x7FC00001), (3, 0x3F800000)] two) (.fmax8 ff) (fun _ w => w.vreg 1 0 == 0x3F800000) = true := by decide +kernel
/-- 08 R205: an ordered comparison of a NaN is false, an unordered one true. -/
theorem test_fcmp_nan : lands (withV [(2, 0x7FC00000)] two) (.fcmp8 { ff with fn := 3 }) (fun _ w => w.mreg 1 == 0)
    && lands (withV [(2, 0x7FC00000)] two) (.fcmp8 { ff with fn := 0xB }) (fun _ w => w.mreg 1 == 3) = true := by decide +kernel
/-- 08 R206: the class of the least positive subnormal, and of −∞. -/
theorem test_fclass : lands (withV [(2, 1)] two) (.fclass ff) (fun _ w => w.vreg 1 0 == 32) && lands (withV [(2, 0xFF800000)] two) (.fclass ff) (fun _ w => w.vreg 1 0 == 1) = true := by
  decide +kernel
/-- 08 R212: powers of two are exact. -/
theorem test_fex2 : lands (withV [(2, 0x40400000)] two) (.fex2 ff) (fun _ w => w.vreg 1 0 == 0x41000000) = true := by decide +kernel
theorem test_flg2 : lands (withV [(2, 0x41000000)] two) (.flg2 ff) (fun _ w => w.vreg 1 0 == 0x40400000) = true := by decide +kernel
theorem test_frsq_zero : lands (withV [(2, 0x80000000)] two) (.frsq ff) (fun _ w => w.vreg 1 0 == 0xFF800000 && (w.lane 0).fflags == fDZ) = true := by decide +kernel
theorem test_fsin_inf : lands (withV [(2, 0x7F800000)] two) (.fsin ff) (fun _ w => w.vreg 1 0 == 0x7FC00000 && (w.lane 0).fflags == fNV) = true := by decide +kernel
/-- 08 R210: 200 saturates as INT8, −1.5 rounds to −2. -/
theorem test_fcvt_sat : lands (withV [(2, 0x43480000)] two) (.fcvtScalar { ff with fmt := .i8 }) (fun _ w => w.vreg 1 0 == 0x7F && (w.lane 0).fflags == fSAT + fNX) = true := by
  decide +kernel
theorem test_fcvt_even : lands (withV [(2, 0xBFC00000)] two) (.fcvtScalar { ff with fmt := .i8 }) (fun _ w => w.vreg 1 0 % 256 == 0xFE) = true := by decide +kernel
/-- 08 R211: 5 as INT8; two lanes that hold different format words trap with FMTDIV, VOTE. -/
theorem test_fcvt_block : lands (withV [(2, 0x40A00000), (4, 0x600)] two) (.fcvtBlock blockFmt) (fun _ w => w.vreg 1 0 == 5) = true := by decide +kernel
theorem test_fcvt_vote : lands (onWarp (fun w => { w.setV 4 1 0x601 with utvec := 256 }) (withV [(4, 0x600)] two)) (.fcvtBlock blockFmt)
    (fun _ w => (w.lane 0).ucause == 5 + 256) = true := by decide +kernel
/-- 08 R214: two triples with the same maximum add up. -/
theorem test_amrg_equal : lands (triples [0x3F800000, 0x40000000, 0x3F800000, 0] [0x3F800000, 0x40000000, 0x40400000, 0]) (.amrg fq)
    (fun _ w => w.vreg 4 0 == 0x3F800000 && w.vreg 5 0 == 0x40800000 && w.vreg 6 0 == 0x40800000) = true := by decide +kernel
/-- 08 R214, `FIN`: the sums are divided by the total weight. -/
theorem test_amrg_fin : lands (triples [0x3F800000, 0x40000000, 0x3F800000, 0] [0x3F800000, 0x40000000, 0x40400000, 0]) (.amrg { fq with fin := true })
    (fun _ w => w.vreg 6 0 == 0x3F800000) = true := by decide +kernel

/-! ### Memory: a context with tables -/

/-- Table 16 is dense, its rows of 64 bytes at physical address 0 on; 17 a windowed sequence of 16-byte slots with position 0 reserved by the
node and 1 not reserved; 18 hashed and 20 ordered with 8-byte keys; 19 a prefix table; 21 a sequence whose one reserved position is void. -/
def denseT : Table := { desc := { kind := 0, valid := true, rowlg := 6, cap := 2 ^ 20 } }
def seqT : Table := { desc := { kind := 4, valid := true, rowlg := 4, win := 256 }, r := 2, c := 1, pos := [(1, .reserved 1)], blocks := [(0, 0)] }
def hashT : Table := { desc := { kind := 2, valid := true, rowlg := 6, uniq := true, cap := 4 }, entries := [⟨7, 1⟩], live := [1] }
def pfxT : Table := { desc := { kind := 3, valid := true, rowlg := 6, uniq := true, lcap := 4, cap := 4 }, pfx := [⟨List.replicate 16 5, 0, 9⟩], live := [0] }
def ordT : Table := { desc := { kind := 1, valid := true, rowlg := 6, uniq := true, lcap := 4, cap := 4 }, tree := { leaves := [[⟨7, 1⟩, ⟨9, 0⟩]] }, live := [1, 0] }

/-- The first stage of the tables: a root array at 0x20000, and for each table the same walk to a leaf of 1 GiB at physical address 0; a sequence has its entry of the root
array, and block `k` of one lies at 2^24 · (k + 1). -/
def tablesMem (m : Memory) : Memory :=
  let put8 (m : Memory) (e : Nat × Nat) : Memory := (leBytes 8 e.2).zipIdx.foldl (fun m b => memSet m (e.1 + b.2) b.1) m
  ([16, 18, 19, 20, 3, 4, 8, 9, 17].map (fun t => (0x20000 + 8 * t, 0x22000 + 1)) ++ [(0x22000, 0x24000 + 1), (0x24000, 3 + 2 ^ 8)]).foldl put8 m
def data : State :=
  onCtx (fun c => { c with s1root := 0x20000, tables := [(16, denseT), (17, seqT), (18, hashT), (19, pfxT), (20, ordT)] })
    { two with mem := tablesMem base.mem, blockRef := [(0, ⟨1, 0⟩)], blockIpas := (List.range 8).map fun k => (k, k + 1) }
def slotsAt (id : Nat) : Nat := (id + 1) * 2 ^ 24
/-- An address in table 16. -/
def va16 (o : Nat) : Nat := 16 * 2 ^ 50 + o
/-- Every lane holds the address of byte `0x10000 + o` of table 16 in `v2`, `v3`, and 0 in `v4`. -/
def atVa (o : Nat) : State := withVp [(2, va16 (0x10000 + o))] data
/-- The same, each lane at its own 16 bytes. -/
def atVas : State := onWarp (fun w => allLanes.foldl (fun w l => (w.setV 2 l (0x10000 + 16 * l)).setV 3 l (16 * 2 ^ 18)) w) data
def fm : MemF := { p := few, sz := .b32, d := 6, a := 2, b := 4, c := 1, imm := 0 }
def pieceAt (o n : Nat) : Piece := { va := va16 (0x10000 + o), n := n, pa := 0x10000 + o }

/-! ### The memory class: witnesses -/

/-- The executing lanes reach checked pieces without poison and no request of theirs is outstanding. -/
theorem test_meets_LoadsAndStores_load : ∀ i ∈ [Instr.ld8 fm, .ld12 fm], ∃ x, Issues (atVa 0) i few x ∧ x.ex ≠ []
    ∧ (∀ l ∈ memLanes x fm.u, x.takePorts.memAdr (dispB x.takePorts) l = some (va16 0x10000)
      ∧ x.takePorts.s.checkAccess x.n.ctx (some x.n.launch) x.lvl { write := false } (va16 0x10000) 4 = .ok [pieceAt 0 4])
    ∧ x.takePorts.sound [pieceAt 0 4] ∧ ∀ l ∈ x.ex, x.takePorts.outstanding [l] = false :=
  fun i hi => of_meets (P := fun x => x.ex ≠ [] ∧ (∀ l ∈ memLanes x fm.u, x.takePorts.memAdr (dispB x.takePorts) l = some (va16 0x10000)
      ∧ x.takePorts.s.checkAccess x.n.ctx (some x.n.launch) x.lvl { write := false } (va16 0x10000) 4 = .ok [pieceAt 0 4])
    ∧ x.takePorts.s.badRead x.takePorts.w.unit [pieceAt 0 4] = false ∧ ∀ l ∈ x.ex, x.takePorts.outstanding [l] = false) (by revert i; decide +kernel)
theorem test_meets_LoadsAndStores_store : ∀ i ∈ [Instr.st8 fm, .st12 fm], ∃ x, Issues (atVa 0) i few x ∧ x.ex ≠ [] ∧ x.n.flips = []
    ∧ ∀ l ∈ memLanes x fm.u, x.takePorts.memAdr (fun _ => fm.imm.toInt) l = some (va16 0x10000)
      ∧ x.takePorts.s.checkAccess x.n.ctx (some x.n.launch) x.lvl { write := true } (va16 0x10000) 4 = .ok [pieceAt 0 4] :=
  all_meet (by decide +kernel)
/-- A lane with a held store of its own, and one without. -/
def holding : State := { atVa 0 with held := [{ id := 1, who := ⟨1, 1⟩, ctx := 1, node := 1, unit := 0, issued := 0, hold := 512, kind := .store 0 [(0x10000, 0x5A)] }] }
theorem test_meets_LoadsAndStores_own : ∃ x, Issues holding (.ld8 fm) few x ∧ x.pair = none ∧ x.s.held.length = 1 := of_meets (by decide +kernel)

/-- Places in the partition for the scratchpad forms: `v2` holds an offset. -/
theorem test_meets_Scratchpad : ∀ i ∈ [Instr.lds8 fm, .lds12 fm, .sts8 fm, .sts12 fm, .femSet8 fm, .femSet12 fm, .femClr8 fm, .femClr12 fm, .femTest8 fm, .femTest12 fm],
    ∃ x, Issues (withV [(2, 32)] two) i few x ∧ x.ex ≠ [] ∧ (∀ l ∈ x.ex, spPlace x.takePorts (spOff x.takePorts l (dispB x.takePorts l)) 4 = some (0, 32))
      ∧ ∀ l ∈ x.ex, two.spPoisoned 0 32 4 = false := all_meet (by decide +kernel)
/-- With a qualifier: one executing lane, its bit set or clear. -/
theorem test_meets_Scratchpad_fe : ∃ x, Issues (onWarp (fun w => w.setM 5 2) ((withV [(2, 32)] two).setFe 0 32 true)) (.lds8 { fm with fe := .q2 }) few x
    ∧ x.ex = [1] ∧ x.s.feBit 0 32 = true ∧ x.s.fePend = [] ∧ spOff x.takePorts 1 (dispB x.takePorts 1) % 4 = 0 := of_meets (by decide +kernel)
theorem test_meets_Scratchpad_clear : ∃ x, Issues (withV [(2, 32)] two) (.lds8 { fm with fe := .q1 }) few x
    ∧ ∀ l ∈ x.ex, spOff x.takePorts l (dispB x.takePorts l) % 4 = 0 ∧ x.s.feBit 0 32 = false := of_meets (by decide +kernel)

/-- Lanes of an `LDG`, each at its own granule, some of them late. -/
theorem test_meets_GatherAndScatter : ∃ x, Issues { atVas with late := [1] } (.ldg fm) few x ∧ x.ex ≠ [] ∧ x.w.isSeq = false ∧ lateMask x = 1
    ∧ (∀ l ∈ x.ex, x.takePorts.memAdr (dispB x.takePorts) l = some (va16 (0x10000 + 16 * l))
      ∧ x.takePorts.s.checkAccess x.n.ctx (some x.n.launch) x.lvl { write := false } (va16 (0x10000 + 16 * l)) 4 = .ok [pieceAt (16 * l) 4])
    ∧ (∀ l ∈ x.ex, x.takePorts.outstanding [l] = false) ∧ x.w.frags = [] ∧ x.w.lanes.length = 32 := of_meets (by decide +kernel)
theorem test_meets_GatherAndScatter_sct : ∃ x, Issues (atVa 0) (.sct fm) few x ∧ x.n.flips = [] ∧ va16 0x10000 % 4 = 0
    ∧ ∀ l ∈ x.ex, x.takePorts.memAdr (dispB x.takePorts) l = some (va16 0x10000)
      ∧ x.takePorts.s.checkAccess x.n.ctx (some x.n.launch) x.lvl { write := true } (va16 0x10000) 4 = .ok [pieceAt 0 4] := of_meets (by decide +kernel)
theorem test_meets_GatherAndScatter_pref : ∀ i ∈ [Instr.pref8 fm, .pref12 fm, .fence { fm with ord := .sc, scp := .device }], ∃ x, Issues (atVa 0) i few x
    ∧ ∀ l ∈ x.ex, x.takePorts.memAdr (dispB x.takePorts) l ≠ none := all_meet (by decide +kernel)
theorem test_meets_Atomics : ∀ i ∈ [Instr.atom fm, .atomCas fm, .red8 fm, .red12 fm], ∃ x, Issues (atVa 0) i few x ∧ x.ex ≠ [] ∧ va16 0x10000 % 4 = 0
    ∧ (∀ l ∈ x.ex, x.takePorts.val 1 l = va16 0x10000)
    ∧ x.takePorts.s.checkAccess x.n.ctx (some x.n.launch) x.lvl { write := true, onlyN := true, atomic := true } (va16 0x10000) 4 = .ok [pieceAt 0 4] :=
  all_meet (by decide +kernel)
/-- A polled word that already has the awaited value 0, and (X = 0 waits for another value) one that has not. -/
theorem test_meets_Polling : ∀ i ∈ [Instr.poll { fm with x := true }, .poll fm], ∃ x, Issues (atVa 0) i few x ∧ x.ex ≠ []
    ∧ (∀ l ∈ x.ex, x.takePorts.memAdr (fun _ => fm.imm.toInt) l = some (va16 0x10000)) ∧ x.takePorts.reads 0 [pieceAt 0 4] = 0
    ∧ x.takePorts.s.checkAccess x.n.ctx (some x.n.launch) x.lvl { write := false, onlyN := true } (va16 0x10000) 4 = .ok [pieceAt 0 4] := all_meet (by decide +kernel)

/-- Translations: of table 16, and of a table that is not installed. -/
theorem test_meets_TranslationAndChecks : (0 < 4 ∧ va16 0x10000 % 16 + 4 ≤ 16) ∧ (data.ctx 1).table 16 = some denseT ∧ denseT.desc.kind ≠ 4 ∧ (data.ctx 1).sec = false
    ∧ (∃ a, data.translate 1 (some 1) 1 (va16 0x10000) = .ok 0x10000 a) ∧ (∃ a, data.translate 1 (some 1) 1 (va16 0x10010) = .ok 0x10010 a) ∧ (data.ctx 1).table 30 = none :=
  ⟨by decide +kernel, by decide +kernel, by decide +kernel, by decide +kernel, ⟨{ loc := false, bits1 := 30, bits2 := 30, ipa := 0x10000 }, by decide +kernel⟩,
    ⟨{ loc := false, bits1 := 30, bits2 := 30, ipa := 0x10010 }, by decide +kernel⟩, by decide +kernel⟩
/-- A slot of a sequence lies in its block, through both stages (18 R352); table 4's place in the root array is not enough for a table that is not installed. -/
theorem test_meets_TranslationAndChecks_seq : (data.ctx 1).table 17 = some seqT ∧ seqT.desc.kind = 4 ∧ data.slotPlace (data.ctx 1) seqT 16 = some (slotsAt 0 + 16, 0)
    ∧ (match data.translate 1 (some 1) 1 (17 * 2 ^ 50 + 16) with | .ok pa a => pa == slotsAt 0 + 16 && a.tag == 0 | _ => false) = true := by decide +kernel
/-- Accesses that fail: an address outside its table, a misaligned one, one of a system table that the level does not reach, and one of a table that is not installed. -/
theorem test_meets_AccessFailures_range : ∀ i ∈ [Instr.ld8 fm, .st8 fm, .sct fm, .pref8 fm], ∃ x, Issues (withVp [(2, va16 0), (4, 0xFFFFFFF0)] data) i few x ∧ x.ex ≠ []
    ∧ ∀ l ∈ x.ex, x.takePorts.memAdr (dispB x.takePorts) l = none := all_meet (by decide +kernel)
theorem test_meets_AccessFailures_align : ∀ i ∈ [Instr.sct fm, .atom fm, .atomCas fm, .red8 fm, .red12 fm, .poll fm], ∃ x, Issues (atVa 2) i few x ∧ x.ex ≠ []
    ∧ (∀ l ∈ x.ex, x.takePorts.val 1 l = va16 0x10002) ∧ va16 0x10002 % 4 ≠ 0 := all_meet (by decide +kernel)
theorem test_meets_AccessFailures_check : (data.checkAccess 1 (some 1) 2 { write := false } (2 * 2 ^ 50) 4 = .trap 3 0x26)
    ∧ ∃ g, data.checkAccess 1 (some 1) 2 { write := false } (30 * 2 ^ 50) 4 = .fault g [] ∧ g.code = 0x14 :=
  ⟨by decide +kernel, ⟨{ code := 0x14, level := 0, kind := 0, va := 30 * 2 ^ 50, page := 30 * 2 ^ 50, pageSize := 2 ^ 50 }, by decide +kernel, rfl⟩⟩
theorem test_meets_AccessFailures_sp : ∀ i ∈ [Instr.lds8 fm, .lds12 fm, .sts8 fm, .sts12 fm, .femSet8 fm, .femClr8 fm, .femTest8 fm], ∃ x, Issues (withV [(2, 2 ^ 20 - 2)] two) i few x
    ∧ x.ex ≠ [] ∧ ∀ l ∈ x.ex, spPlace x.takePorts (spOff x.takePorts l (dispB x.takePorts l)) 4 = none := all_meet (by decide +kernel)

/-! ### The memory class: single steps -/

/-- 05 R137: a lane reads its own held store, another lane the 0 in memory. -/
theorem test_ld_own : lands holding (.ld8 fm) (fun _ w => w.vreg 6 1 == 0x5A && w.vreg 6 0 == 0) = true := by decide +kernel
/-- 09 R219: a byte extended by its sign. -/
theorem test_ld_sx : lands { data with mem := memSet (atVa 0).mem 0x10000 0x80, warps := (atVa 0).warps } (.ld8 { fm with sz := .b8, sx := true })
    (fun _ w => w.vreg 6 0 == 0xFFFFFF80) = true := by decide +kernel
/-- 09 R220: a store is held, low byte first, and memory is as before. -/
theorem test_st_held : lands (onWarp (fun w => w.setM 5 1) (withV [(6, 0x11223344)] (atVa 0))) (.st8 { fm with p := ⟨5, false⟩ })
    (fun t _ => (t.held.map (·.kind)) == [.store 0 [(0x10000, 0x44), (0x10001, 0x33), (0x10002, 0x22), (0x10003, 0x11)]] && memGet t.mem 0x10000 == 0) = true := by decide +kernel
/-- 05 R117: an access that leaves its granule is split. -/
theorem test_st_split : lands (onWarp (fun w => w.setM 5 1) (withV [(6, 0x11223344)] (atVa 14))) (.st8 { fm with p := ⟨5, false⟩ })
    (fun t _ => (t.held.map (·.kind)) == [.store 0 [(0x1000E, 0x44), (0x1000F, 0x33)], .store 0 [(0x10010, 0x22), (0x10011, 0x11)]]) = true := by decide +kernel
/-- 09 R235: a misaligned atomic traps with MISALIGN, ADDR. -/
theorem test_atom_misaligned : lands (onWarp (fun w => { w with utvec := 256 }) (atVa 2)) (.atom fm) (fun _ w => (w.lane 0).ucause == 2 + 256) = true := by decide +kernel
theorem test_atom_sends : lands (onWarp (fun w => w.setM 5 1) (withV [(4, 7)] (atVa 0))) (.atom { fm with p := ⟨5, false⟩ })
    (fun t w => t.held.length == 1 && w.pend.length == 1) = true := by decide +kernel
/-- 18 R360: an access to a table that is not installed parks its lanes in a new fragment. -/
theorem test_ld_parks : lands (withVp [(2, 30 * 2 ^ 50)] data) (.ld8 fm) (fun _ w => (w.lane 0).st == .parked && (w.lane 0).frag == 1 && (w.lane 0).pc == 0) = true := by decide +kernel
theorem test_sts : lands (withV [(2, 32), (6, 0x1234)] two) (.sts8 { fm with fe := .q1 }) (fun t _ => t.spBytes 0 32 4 == [0x34, 0x12, 0, 0] && t.feBit 0 32) = true := by
  decide +kernel
theorem test_lds_waits : lands (withV [(2, 32)] two) (.lds8 { fm with fe := .q1 }) (fun t w => t.fePend.length == 2 && (w.lane 0).st == .running && w.pend.length == 2) = true := by
  decide +kernel
theorem test_fem_test : lands ((withV [(2, 32)] two).setFe 0 32 true) (.femTest8 fm) (fun _ w => w.vreg 6 0 == 1) = true := by decide +kernel
/-- 09 R226: late lanes wait in a fragment, early ones have their data; all are marked. -/
theorem test_ldg_late : lands { atVas with late := [1] } (.ldg fm) (fun _ w => (w.lane 0).st == .parked && (w.lane 1).st == .running && w.mreg 1 == 3) = true := by
  decide +kernel
/-- 09 R228: one lane of each address wins: the highest, with X the lowest. -/
theorem test_sct_winner : lands (withV [(6, 1)] (atVa 0)) (.sct fm) (fun t w => w.mreg 1 == 2 && t.held.length == 1)
    && lands (withV [(6, 1)] (atVa 0)) (.sct { fm with x := true }) (fun _ w => w.mreg 1 == 1) = true := by decide +kernel
theorem test_poll_hit : lands (atVa 0) (.poll { fm with x := true }) (fun _ w => (w.lane 0).st == .running) = true := by decide +kernel
theorem test_poll_waits : lands (withV [(6, 1)] (atVa 0)) (.poll { fm with x := true }) (fun _ w => (w.lane 0).st == .waiting) = true := by decide +kernel

/-! ### What happens to memory requests -/

/-- A held store that may leave, an atomic with its server, and its result. -/
def stored : State := { holding with now := 512 }
theorem test_meets_RequestsPerformed : (stored.held.find? fun q => q.id == 1) = some (stored.held.headD { id := 0, who := ⟨0, 0⟩, ctx := 0, node := 0, unit := 0, issued := 0, hold := 0, kind := .store 0 [] })
    ∧ (stored.held.all fun r => stored.mayLeave r) = true := by decide +kernel
def addReq : AtomReq := { pa := 0x10000, home := some 0x10000, size := 4, op := 0, b := 5, c := 0, d := some 6 }
def serving : State := { atVa 0 with homes := [(0x10000, 0)], atomQ := [{ id := 9, who := ⟨1, 3⟩, ctx := 1, node := 1, unit := 0, issued := 0, hold := 512, kind := .atomic addReq }] }
theorem test_meets_RequestsPerformed_atomic : serving.atomQ = [] ++ { id := 9, who := ⟨1, 3⟩, ctx := 1, node := 1, unit := 0, issued := 0, hold := 512, kind := .atomic addReq } :: []
    ∧ serving.poisonedMem addReq.pa addReq.size = false ∧ addReq.pa + addReq.size ≤ linkBase := by decide +kernel
/-- The same once its service warp has served it, with its register and the hold over. -/
def returning : State := onWarp (fun w => { w with pend := [{ cls := 0, num := 6, lanes := [3], req := 9 }] })
  { serving with mem := memSet serving.mem 0x10000 77, now := 512, atomQ := serving.atomQ.map fun r => { r with kind := .atomic { addReq with served := some (0, 512) } } }
theorem test_meets_RequestsPerformed_result : ∃ w n, returning.atomQ = [] ++ { id := 9, who := ⟨1, 3⟩, ctx := 1, node := 1, unit := 0, issued := 0, hold := 512, kind := .atomic { addReq with served := some (0, 512) } } :: []
    ∧ 512 ≤ returning.agentClock 0 ∧ find 1 returning.warps = some w ∧ find w.node returning.nodes = some n ∧ n.desc.red = false ∧ w.isSeq = false ∧ addReq.d = some 6 ∧ addReq.size = 4
    ∧ w.lanes.length = 32 ∧ (w.pend.any fun p => p.req == 9) = true := ⟨_, _, by decide +kernel, by decide +kernel, by rfl, by rfl, by decide +kernel⟩
/-- A page with a hint, of which agent 3 has asked for more than its home 0. -/
def hinted : State := { two with homes := [(0x20000, 0)], hints := [⟨0x20000, 0, 3, 4097, 0⟩] }
theorem test_meets_RequestsPerformed_home : State.accesses { two with access := [(5 * 128 + 127, 1)] } 5 127 = 1 ∧ two.hintOf 5 = none ∧ (hinted.hintOf 0x20000).map (·.agent) = some 3
    ∧ hinted.homeAgent 0x20000 ≠ 3 := by decide +kernel

theorem test_store_performed : ends stored (.heldStoreRelease 1) (fun t => memGet t.mem 0x10000 == 0x5A && t.held.isEmpty) = true := by decide +kernel
/-- The hold of 512 cycles keeps a request in its core (05 R137). -/
theorem test_store_held : ends holding (.heldStoreRelease 1) (fun t => t.held.length == 1) = true := by decide +kernel
/-- 05 R137, 19 R380: what the service warp has served leaves after its hold: 77 + 5. -/
theorem test_atomic_service : ends serving (.atomicService (serving.ownerOf addReq)) (fun t => t.mem == serving.mem && t.atomQ.any fun r => match r.kind with | .atomic a => a.served == some (serving.ownerOf addReq, 512) | _ => false) = true := by
  decide +kernel
theorem test_atomic_result : lands returning (.atomicResultReturn 9) (fun t w => w.vreg 6 3 == 77 && w.pend.isEmpty && t.atomQ.isEmpty && memGet t.mem 0x10000 == 82)
    && ends { returning with now := 511 } (.atomicResultReturn 9) (fun t => t.atomQ.length == 1) = true := by decide +kernel
/-- 18 R371: the home moves to the agent of the hint, and to no other. -/
theorem test_home_move : ends hinted (.homeMove 0x20000 3) (fun t => t.homeAgent 0x20000 == 3 && t.hints.isEmpty) && ends hinted (.homeMove 0x20000 4) (fun t => t == hinted) = true := by decide +kernel
/-- 09 R232: the operations at their corners: `INC` past its bound, `DEC` at 0, `CAS`, signed minimum. -/
theorem test_atomic_ops : (atomicOp 11 4 5 5 0).1 = 0 ∧ (atomicOp 12 4 0 9 0).1 = 9 ∧ (atomicOp 10 4 3 3 8).1 = 8 ∧ (atomicOp 10 4 4 3 8).1 = 4
    ∧ (atomicOp 2 4 0xFFFFFFFF 1 0).1 = 0xFFFFFFFF ∧ (atomicOp 1 8 0 1 0).1 = 2 ^ 64 - 1 := by decide +kernel

/-- A full/empty load whose bit is set, a cast, a late fragment and a polling lane. -/
def feLoad : FePend := { id := 4, who := ⟨1, 3⟩, unit := 0, off := 32, size := 4, sx := false, consume := true, d := 6, at_ := 0, grp := 4 }
def feServed : State := onWarp (fun w => { w with pend := [{ cls := 0, num := 6, lanes := [3], req := 4 }] })
  ((({ two with fePend := [feLoad] } : State).spWrite 0 32 [9, 0, 0, 0]).setFe 0 32 true)
theorem test_meets_DataArrives_fe : feServed.feWaiting 0 2 = [feLoad] ∧ (∀ q ∈ feServed.fePend, feLoad.id ≤ q.id) ∧ feLoad.d < 240 ∧ feServed.feBit 0 32 = true ∧ feServed.spPoisoned 0 32 4 = false
    ∧ (find 1 feServed.warps).any (fun w => !w.isSeq && (w.pend.any fun q => q.req == 4)) = true := by decide +kernel
def oneCast : Cast := { id := 5, warp := 1, node := 1, unit := 0, consumer := 0, entry := BitVec.ofNat 64 (6 * 2 ^ 8), lanes := [(0, 11), (1, 12)], elected := 0 }
def casting : State := { two with casts := [oneCast] }
theorem test_meets_DataArrives_cast : ∃ w, (casting.casts.find? fun k => k.id == oneCast.id) = some oneCast ∧ casting.castReady oneCast = true ∧ casting.castTarget oneCast = some (1, w)
    ∧ oneCast.consumer < 4 ∧ (oneCast.lanes.map (·.1)).Nodup ∧ ∀ e ∈ oneCast.lanes, e.1 < 32 :=
  ⟨_, by rfl, by decide +kernel, by rfl, by decide +kernel⟩
def spCast : Cast := { oneCast with consumer := 7, entry := BitVec.ofNat 64 (2 * 2 ^ 32) }
theorem test_meets_DataArrives_spcast : spCast.consumer = 7 ∧ find spCast.node two.nodes = some probeNode ∧ bitsAt spCast.entry.toNat 32 16 * 16 + 128 ≤ probeNode.partSize := by
  decide +kernel
def lateW : State := onWarp (fun w => { (w.setLane 3 fun y => { y with st := .parked, frag := 1 }) with
  frags := [{ id := 1, parent := 0, rejoin := some 1, late := some { mask := 1, d := 6, size := 4, sx := false, vas := [(3, va16 0x10000)], due := 0 } }] }) data
theorem test_meets_DataArrives_late : ∃ w g q, find 1 lateW.warps = some w ∧ w.frag 1 = some g ∧ g.late = some q ∧ probeNode.pairs = [] ∧ w.lanes.length = 32
    ∧ (q.vas.map (·.1)).Nodup ∧ ∀ e ∈ q.vas, e.1 < 32 ∧ lateW.checkAccess 1 (some 1) 2 { write := false } e.2 4 = .ok [pieceAt 0 4]
      ∧ lateW.poisonedMem 0x10000 4 = false := ⟨_, _, _, by rfl, by rfl, by rfl, by decide +kernel⟩
def polling : State := onWarp (fun w => w.setLane 3 fun y => { y with st := .waiting, wait := .poll (va16 0x10000) 0 4 true 6 false false 32 0 }) data
theorem test_meets_DataArrives_poll : ∃ w n, find 1 polling.warps = some w ∧ find w.node polling.nodes = some n ∧ n.desc.red = false ∧ w.isSeq = false ∧ w.lanes.length = 32
    ∧ (w.lane 3).st = .waiting ∧ (w.lane 3).wait = .poll (va16 0x10000) 0 4 true 6 false false 32 0 ∧ 0 ≤ polling.clock w.unit ∧ polling.reread 1 w 3 (va16 0x10000) 4 = some (0, false) :=
  ⟨_, _, by rfl, by rfl, by decide +kernel⟩

theorem test_fe_serve : lands feServed (.fullEmptyLoadServe 0 2) (fun t w => w.vreg 6 3 == 9 && !t.feBit 0 32 && t.fePend.isEmpty) = true := by decide +kernel
theorem test_cast : lands casting (.castDelivery 5) (fun t w => w.vreg 6 1 == 12 && find 6 w.castFull == some true && t.casts.isEmpty) = true := by decide +kernel
theorem test_late_arrival : lands lateW (.ldgLateArrival 1 1) (fun _ w => (w.lane 3).st == .running && (w.lane 3).pc == 16) = true := by decide +kernel
theorem test_poll_reread : lands polling (.pollReread 1 3) (fun _ w => (w.lane 3).st == .running && w.vreg 6 3 == 0) = true := by decide +kernel

/-! ### The table and sequence class -/

/-- Support: without poison no part of a scratchpad is poisoned. -/
theorem unpoisoned {s : State} (h : s.poison = []) : ∀ u o n, s.spPoisoned u o n = false := by
  intro u o n
  simp [State.spPoisoned, h]

def ft : TabF := { p := few, d := 12, a := 2, b := 8, c := 10, tbl := 18, th := 0, sr := 16, xr := 17 }
/-- Operands of the tests: a key, count or position 1 in `v2`, 16 in `v8`, a handle of table 17 in `v10`, cursors of table 20 in `v4`, handles in `s2`, `s3`. -/
def tabs : State := withS [(2, 18 * 2 ^ 50), (3, 17 * 2 ^ 50)] (withVp [(2, 1), (4, 20), (8, 16), (10, 17 * 2 ^ 50), (20, 17 * 2 ^ 50)] data)

/-- Every check of 10 R241 passes in the executing lanes: with its table, each instruction sends one request. -/
theorem test_meets_TableRequests : (∀ i ∈ [Instr.kget ft, .kins ft, .kdel ft, .kseek { ft with tbl := 20 }, .knext { ft with a := 4 }, .kprev { ft with a := 4 }, .kclose { ft with a := 4 },
      .kpfx { ft with tbl := 19, a := 24 }, .kpfxi { ft with tbl := 19, a := 24 }, .krecl ft, .sqres { ft with tbl := 17 }, .sqcmt { ft with tbl := 17 }, .sqabn { ft with tbl := 17 }, .sqlen { ft with a := 3 },
      .sqfork { ft with tbl := 17 }, .sqdrop { ft with a := 20 }, .sqloc { ft with tbl := 17 }, .tinfo { ft with item := 1 }], ∃ x, Issues tabs i few x ∧ x.ex ≠ [])
    ∧ (∀ u o n, tabs.spPoisoned u o n = false) := ⟨all_meet (by decide +kernel), unpoisoned (by decide +kernel)⟩
/-- The argument of a lookup and of a reservation, and the code of a table that is not installed. -/
theorem test_meets_TableRequests_args : ∃ x, Issues tabs (.kget ft) few x ∧ (∀ l ∈ x.ex, tabCheck x 18 (fun d => d.kind == 0 || keyed d) = none)
    ∧ tabCheck x 17 isSequence = none ∧ tabCheck x 30 isSequence = some (8, 3) ∧ ft.kw = (tabAt x 18).desc.k16
    ∧ ∀ l ∈ x.ex, x.takePorts.s.reachable x.takePorts.n.ctx (.kget ft) { lane := l, tbl := 18, a := x.takePorts.val 1 l } = true := of_meets (by decide +kernel)
/-- Table 7 is in no context's power to change; rows that an insert with `NF` would write pass. -/
def fates : TabF := { ft with tbl := 7 }
theorem test_meets_TableRequests_events : ∃ x, Issues (onCtx (fun c => { c with tables := c.tables ++ [(7, seqT)] }) tabs) (.sqcmt fates) few x ∧ x.ex ≠ [] ∧ tabOf x.takePorts fates = 7
    ∧ tabCheck x.takePorts 7 isSequence = none ∧ x.w.frags = [] ∧ x.w.lanes.length = 32 ∧ x.w.isSeq = false := of_meets (by decide +kernel)
theorem test_meets_TableRequests_nf : ∃ x, Issues tabs (.kins { ft with nf := true }) few x ∧ (probeRows x.takePorts (x.ex.map fun l => { lane := l, tbl := 18, a := x.takePorts.val 1 l })).2
    = x.ex.map fun l => { lane := l, tbl := 18, a := x.takePorts.val 1 l } := of_meets (by decide +kernel)
theorem test_table_requests : ([Instr.kget ft, .kins ft, .kdel ft, .kseek { ft with tbl := 20 }, .knext { ft with a := 4 }, .kprev { ft with a := 4 }, .kclose { ft with a := 4 },
      .kpfx { ft with tbl := 19, a := 24 }, .kpfxi { ft with tbl := 19, a := 24 }, .krecl ft, .sqres { ft with tbl := 17 }, .sqcmt { ft with tbl := 17 }, .sqabn { ft with tbl := 17 }, .sqlen { ft with a := 3 },
      .sqfork { ft with tbl := 17 }, .sqdrop { ft with a := 20 }, .sqloc { ft with tbl := 17 }, .tinfo { ft with item := 1 }].all fun i =>
    lands tabs i fun t w => t.held.length == 1 && (w.lane 0).st == .running && (w.lane 0).pc == i.len) = true := by decide +kernel
/-- 10 R241: no table 30 (TABLE, HANDLE), the wrong kind (TABLE, KIND), a bad count (SEQ, COUNT). -/
def trapping : State := onWarp (fun w => { w with utvec := 256 }) tabs
theorem test_table_traps : lands trapping (.kget { ft with tbl := 30 }) (fun _ w => (w.lane 0).ucause == 8 + 3 * 256)
    && lands trapping (.kget { ft with tbl := 17 }) (fun _ w => (w.lane 0).ucause == 8 + 1 * 256)
    && lands trapping (.sqres { ft with tbl := 17, a := 30 }) (fun _ w => (w.lane 0).ucause == 7 + 5 * 256) = true := by decide +kernel
/-- 16 R439: a program of level 0 does not reach table 8. -/
theorem test_table_systbl : lands (onNode (fun n => { n with desc := { n.desc with lvl := 0 } }) (onCtx (fun c => { c with tables := c.tables ++ [(8, seqT)] }) trapping)) (.sqloc { ft with tbl := 8 })
    (fun _ w => (w.lane 0).ucause == 3 + 0x26 * 256) = true := by decide +kernel
theorem test_meets_TableChecks : ∃ x, Issues tabs (.sqwait { ft with tbl := 17 }) few x ∧ tabCheck x.takePorts 17 isSequence = none ∧ x.ex ≠ []
    ∧ ∀ l ∈ x.ex, x.takePorts.val 1 l ≤ 2 ^ 48 := of_meets (by decide +kernel)
theorem test_sqwait : lands tabs (.sqwait { ft with tbl := 17 }) (fun _ w => (w.lane 0).st == .waiting && (w.lane 0).wait == .sqwait 17 1 12) = true := by decide +kernel

/-- The tables of the statements on operations: a hashed and a dense one, one with duplicates, a full one, and one with an open cursor. -/
def lane0 (t a b : Nat) : TabLane := { lane := 0, tbl := t, a := a, b := b }
theorem test_meets_KeyedOperations : hashT.desc.shard = 0 ∧ find 18 (data.ctx 1).tables = some hashT ∧ (⟨7, 1⟩ : Entry) ∈ hashT.index ∧ hashT.freeSlot = some 0 ∧ hashT.desc.uniq = true
    ∧ denseT.desc.kind = 0 ∧ ({ hashT with live := [0, 1, 2, 3] } : Table).freeSlot = none ∧ hashT.openCount < 65535 ∧ hashT.cursors.length < 65535
    ∧ ordT.index.Pairwise (fun a b => a.lt ordT.desc.uniq b = true) := by decide +kernel
def cursored : Table := { ordT with cursors := [{ num := 0, gen := 1, open_ := true, node := 1, warp := 1, lane := 0, desc := false, pos := ⟨8, 0⟩, first := true, end_ := 20 }] }
theorem test_meets_KeyedOperations_cursor : (cursored.cursorOf 20 1 (20 + 2 ^ 48 + (2 ^ 64 - 1) * 2 ^ 64)).isSome = true ∧ (cursored.cursors.map fun c => cursored.stepEntry c) = [some ⟨9, 0⟩]
    ∧ cursored.cursorOf 20 2 (20 + 2 ^ 48 + (2 ^ 64 - 1) * 2 ^ 64) = none := by decide +kernel
theorem test_meets_OrderedIndex : TreeOk true ordT.tree ∧ 4 ≤ ordT.desc.lcap ∧ (∀ a ∈ ordT.tree.entries, a.lt true ⟨8, 2⟩ = true ∨ (⟨8, 2⟩ : Entry).lt true a = true)
    ∧ (⟨9, 0⟩ : Entry) ∈ ordT.tree.entries := by
  refine ⟨⟨by decide +kernel, by decide +kernel, by decide +kernel, ?_, ?_⟩, by decide +kernel, by decide +kernel, by decide +kernel⟩ <;>
    · intro i a b h
      simp [ordT] at h
theorem test_meets_SequenceOperations : find 17 (data.ctx 1).tables = some seqT ∧ data.resRefused 1 seqT 1 = false ∧ data.resRefused 1 seqT 300 = true ∧ seqT.markTrap 1 1 = none
    ∧ seqT.markTrap 0 1 = some 2 ∧ seqT.markTrap 2 1 = some 1 ∧ seqT.c ≤ seqT.r ∧ (1, PosSt.reserved 1) ∈ seqT.pos := by decide +kernel

/-- 10 R243–R246: a lookup finds key 7 in slot 1, not key 8; insertion takes slot 0; a second insertion of the key traps KEYDUP. -/
theorem test_kget_op : (data.opKget 1 (lane0 18 7 0)).2 = { lane := 0, d := some (18 * 2 ^ 50 + 64), sr := some 0 } ∧ (data.opKget 1 (lane0 18 8 0)).2 = { lane := 0, sr := some 2 } := by decide +kernel
theorem test_kins_op : (data.opKins 1 ft (lane0 18 8 0)).2 = { lane := 0, d := some (18 * 2 ^ 50), sr := some 0 }
    ∧ (data.opKins 1 ft (lane0 18 7 0)).2 = { lane := 0, trap := some (4, 0) } := by decide +kernel
/-- 06 R149, R150: a deleted slot is dead until it is reclaimed. -/
theorem test_kdel_krecl : let u := (data.opKdel 1 (lane0 18 7 0)).1
    (u.tableOf 1 18).dead = [1] ∧ (u.tableOf 1 18).live = [] ∧ ((u.opKrecl 1 (lane0 18 0 0)).1.tableOf 1 18).dead = [] := by decide +kernel
/-- 10 R249: the cursor steps to key 9, ascending from 8. -/
theorem test_knext_op : let s := onCtx (fun c => { c with tables := insert 20 cursored c.tables }) data
    (s.opStep 1 1 false (lane0 20 (20 + 2 ^ 48 + (2 ^ 64 - 1) * 2 ^ 64) 0)).2 = { lane := 0, d := some (20 * 2 ^ 50), b := some 0, hint := some 0 } := by decide +kernel
/-- 06 R155: sixteen tokens of a prefix match. -/
theorem test_kpfx_op : (data.opKpfx 1 { lane := 0, tbl := 19, b := 17, toks := List.replicate 17 5 }).2 = { lane := 0, d := some (19 * 2 ^ 50), xr := some 16, sr := some 0 } := by decide +kernel
/-- 06 R156–R158: a reservation takes the next positions; marks advance the committed length past committed and void positions. -/
theorem test_sqres_op : (data.reserveSeq 1 1 17 3).2 = some 2 ∧ ((data.reserveSeq 1 1 17 3).1.tableOf 1 17).r = 5 := by decide +kernel
theorem test_sqcmt_op : ((data.opMark 1 .committed (lane0 17 1 1)).1.tableOf 1 17).c = 2 ∧ (data.opMark 1 .committed (lane0 17 0 1)).2.trap = some (7, 2) := by decide +kernel
/-- 10 R257: position 1 is reserved (9), position 5 lies beyond the reserved ones (7). -/
theorem test_sqloc_op : (data.opSqloc 1 (lane0 17 1 0)).2.sr = some 9 ∧ (data.opSqloc 1 (lane0 17 5 0)).2.sr = some 7 := by decide +kernel

/-- A request at the rake units, its reply, and a lane that waits for a length that is there. -/
def asked : State := { data with rakeQ := [{ id := 9, who := ⟨1, 0⟩, ctx := 1, node := 1, unit := 0, issued := 0, hold := 0, kind := .table { instr := .kget ft, at_ := 0, lanes := [lane0 18 7 0] } }] }
theorem test_meets_RakeEvents : (asked.rakeQ.all fun r => asked.rakeReady r) = true ∧ (find 1 asked.warps).any (fun w => (w.lane 0).st != .exited) = true ∧ asked.shardsOf 1 (.kget ft) (lane0 18 7 0) = [18] ∧ asked.away 1 18 = false ∧ (asked.rakeQ.find? fun q => q.id == 9).isSome = true ∧ find 1 asked.nodes = some probeNode
    ∧ probeNode.st.final = false := by decide +kernel
def reply : TabRes := { id := 9, warp := 1, instr := .kget ft, at_ := 0, outs := [{ lane := 0, d := some (18 * 2 ^ 50 + 64), sr := some 0 }] }
def replied : State := onWarp (fun w => { w with pend := [{ cls := 0, num := 12, lanes := [0], req := 9 }] }) { data with tabRes := [reply] }
theorem test_meets_RakeEvents_reply : ∃ w n, (replied.tabRes.find? fun q => q.id == reply.id) = some reply ∧ find reply.warp replied.warps = some w ∧ find w.node replied.nodes = some n
    ∧ n.desc.red = false ∧ w.isSeq = false ∧ w.lanes.length = 32 ∧ (w.pend.any fun p => p.req == reply.id) = true ∧ w.frags = [] :=
  ⟨_, _, by rfl, by rfl, by rfl, by decide +kernel⟩
def lengthWaits : State := onWarp (fun w => w.setLane 3 fun y => { y with st := .waiting, wait := .sqwait 17 1 12 }) data
theorem test_meets_RakeEvents_wait : lengthWaits.sqwaitHit 1 3 = some (1, 12) := by decide +kernel
theorem test_rake_kget : ends asked (.rakeOperation 9) (fun t => t.rakeQ.isEmpty && t.tabRes == [reply]) = true := by decide +kernel
theorem test_reply : lands replied (.tableReply 9) (fun _ w => w.rdReg .vp 12 0 == 18 * 2 ^ 50 + 64 && w.vreg 16 0 == 0 && w.pend.isEmpty) = true := by decide +kernel
theorem test_sqwait_release : lands lengthWaits (.sqwaitRelease 1 3) (fun _ w => (w.lane 3).st == .running && w.rdReg .vp 12 3 == 1) = true := by decide +kernel

/-! ### The tile class -/

/-- A value of `TCFG`: elements of `4 * 2 ^ k` bits, rows and columns (11 R260). -/
def cfg (k r c : Nat) : BitVec 32 := BitVec.ofNat 32 (k + 4 * r + 65536 * c)
/-- Tiles 1, 2, 6 of bytes; 3, 5, 7, 8, 9 of words; 4 of nibbles. `v2`, `v6`, `v10`, `v14` hold format words, `v4`, `v8`, `v16` offsets in the partition,
`v18`, `v20` counts and strides, `v30` an address in table 16, and the partition the blocks of a dense and of a sparse product. -/
def tiles : State :=
  let s := onNode (fun n => { n with tcfg := [(1, cfg 1 2 4), (2, cfg 1 4 4), (3, cfg 3 2 4), (4, cfg 0 2 2), (5, cfg 3 2 1), (6, cfg 1 2 2), (7, cfg 3 2 4), (8, cfg 3 2 2), (9, cfg 3 2 2)] })
    (withS [(4, 0x4000B), (5, 0x7F00)] (withVp [(30, va16 0x10000)] (withV [(2, 0x566), (4, 64), (6, 0x10566), (8, 128), (10, 0x600), (12, 0), (14, 6), (16, 256), (18, 2), (20, 16)] data)))
  (s.spWrite 0 64 [0x21, 0x30, 0x10]).spWrite 0 128 [0x26, 0x30, 0x14]
def tl : TileF := { p := few, d := 3, a := 30, b := 20, c := 18 }

theorem test_meets_TileShapesAndMoves : (∀ i ∈ [Instr.tcfg12 { tl with imm := 0x4000B }, .tcfg8 { tl with b := 4 }, .trdc { tl with d := 40, a := 1 }, .tld tl, .tst tl], ∃ x, Issues tiles i few x ∧ x.ex ≠ [])
    ∧ (∃ x, Issues tiles (.tcfg8 { tl with b := 4 }) few x ∧ tcfgOk (x.w.sreg 4) = true ∧ tcfgOk (x.w.sreg 5) = false)
    ∧ ∀ i ∈ [Instr.tld tl, .tst tl], ∃ x, Issues tiles i few x ∧ x.n.flips = [] ∧ (x.takePorts.tile 3).sh.rows = 2 ∧ x.takePorts.elect32 3 = 2 ∧ x.takePorts.elected = 0 ∧ (x.takePorts.tile 3).sh.pitch = 16
      ∧ (∀ j : Nat, j < 2 → formAddr (x.takePorts.val 1 0) ((j : Int) * sxInt 32 (x.takePorts.elect32 2)) = some (va16 (0x10000 + 16 * j))
        ∧ x.takePorts.s.checkAccess x.n.ctx (some x.n.launch) x.lvl { write := true, noDev := true } (va16 (0x10000 + 16 * j)) 16 = .ok [pieceAt (16 * j) 16]
        ∧ x.takePorts.s.checkAccess x.n.ctx (some x.n.launch) x.lvl { write := false, noDev := true } (va16 (0x10000 + 16 * j)) 16 = .ok [pieceAt (16 * j) 16]) :=
  ⟨all_meet (by decide +kernel), of_meets (by decide +kernel), all_meet (by decide +kernel)⟩
/-- Rows of the partition that fit and that do not; a count of rows above the tile's; a shape word that is none. -/
theorem test_meets_TileShapesAndMoves_sp : ∀ i ∈ [Instr.tld { tl with sp := true, a := 16 }, .tst { tl with sp := true, a := 16 }], ∃ x, Issues tiles i few x ∧ x.ex ≠ []
    ∧ spRows x.takePorts 16 2 = some [256, 272] ∧ x.takePorts.n.partSize < 2 ^ 20 + 1 := all_meet (by decide +kernel)
theorem test_meets_TileShapesAndMoves_rows : ∀ i ∈ [Instr.tld { tl with c := 20 }, .tst { tl with c := 12 }], ∃ x, Issues tiles i few x ∧ x.ex ≠ []
    ∧ ((x.takePorts.tile 3).sh.rows < x.takePorts.elect32 3 ∨ x.takePorts.elect32 3 = 0) := all_meet (by decide +kernel)
theorem test_tcfg : lands tiles (.tcfg8 { tl with d := 9, b := 4 }) (fun t _ => (find 1 t.nodes).any fun n => getD 0 n.tcfg 9 == 0x4000B)
    && lands (onWarp (fun w => { w with utvec := 256 }) tiles) (.tcfg8 { tl with b := 5 }) (fun _ w => (w.lane 0).ucause == 5 + 2 * 256) = true := by decide +kernel
theorem test_trdc : lands tiles (.trdc { tl with d := 40, a := 1 }) (fun _ w => w.vreg 40 1 == 0x40009) = true := by decide +kernel
/-- 11 R262: two rows of 16 bytes go to the engine; 11 R263: two rows are stored at once in the partition. -/
theorem test_tld : lands tiles (.tld tl) (fun t _ => (t.tileQ.map (·.work)) == [.load ⟨3, ⟨32, 2, 4⟩⟩ [List.replicate 16 0, List.replicate 16 0]]) = true := by decide +kernel
theorem test_tst : lands ((tiles.setFe 0 256 true).spWrite 0 256 [1, 2, 3]) (.tst { tl with sp := true, a := 16 }) (fun t _ => t.spBytes 0 256 4 == [0, 0, 0, 0]) = true := by decide +kernel

def tileInstrs : List Instr :=
  [.tzero tl, .tmov { tl with d := 7, a := 3 }, .mma { tl with a := 2, b := 4 }, .mmas { tl with a := 6, b := 8 }, .tcomp { tl with pat := 1, d := 6, a := 1, b := 4, c := 14 }, .tqnt { tl with d := 1, a := 3, b := 10, c := 12 },
    .tdq { tl with a := 1, b := 14, c := 16 }, .tred { tl with d := 5, a := 3 }, .tscl { tl with d := 7, a := 3, b := 16, c := 12 }, .vtopk { tl with d := 8, a := 3, b := 18, c := 9 }]
theorem test_meets_TileWorkIssued : (∀ i ∈ tileInstrs, ∃ x, Issues tiles i few x ∧ x.ex ≠ []) ∧ (∀ u o n, tiles.spPoisoned u o n = false)
    ∧ ∃ x, Issues tiles (.vtopkLn { tl with d := 40, a := 2, b := 18 }) few x ∧ x.ex ≠ [] ∧ x.takePorts.elect32 2 = 2 := ⟨all_meet (by decide +kernel), unpoisoned (by decide +kernel), of_meets (by decide +kernel)⟩
/-- 11 R264: with its tiles, formats and arrays each instruction hands its engine one piece of work. -/
theorem test_tile_work : (tileInstrs.all fun i => lands tiles i fun t w => t.tileQ.length == 1 && (w.lane 0).pc == i.len) = true := by decide +kernel
/-- 11 R265: a shape of the wrong width (FMT); an array beyond the partition (ACCESS, PARTITION); 11 R282: lanes ranked by value, ties by number. -/
theorem test_tile_traps : lands (onWarp (fun w => { w with utvec := 256 }) tiles) (.tred { tl with d := 5, a := 1 }) (fun _ w => (w.lane 0).ucause == 5 + 2 * 256)
    && lands (withV [(16, 2 ^ 20)] (onWarp (fun w => { w with utvec := 256 }) tiles)) (.tscl { tl with d := 7, a := 3, b := 16, c := 12 }) (fun _ w => (w.lane 0).ucause == 3 + 0x21 * 256) = true := by decide +kernel
theorem test_vtopk_lanes : lands (onWarp (fun w => w.setV 2 1 0x3F800000) (withV [(2, 0)] tiles)) (.vtopkLn { tl with d := 40, a := 2, b := 18 })
    (fun _ w => w.vreg 40 1 == 0 && w.vreg 40 0 == 1 && w.vreg 40 2 == 0) = true := by decide +kernel
theorem test_meets_TileWorkIssued_fmts : (FmtWord.ofNat 0x566).sound = true ∧ productFmts (FmtWord.ofNat 0x566) false = true ∧ productFmts (FmtWord.ofNat 0x10566) true = true
    ∧ productFmts (FmtWord.ofNat 0x10566) false = false := by decide +kernel

/-- A product of tile 1 with rows 1 2 3 4 and 5 6 7 8 and tile 2 with ones. -/
def bytesIn (n : Node) : Node := (n.putRows 0 ⟨1, ⟨8, 2, 4⟩⟩ [[1, 2, 3, 4], [5, 6, 7, 8]]).putRows 0 ⟨2, ⟨8, 4, 4⟩⟩ (List.replicate 4 [1, 1, 1, 255])
def intProduct : Product := { a := ⟨1, ⟨8, 2, 4⟩⟩, b := ⟨2, ⟨8, 4, 4⟩⟩, c := none, d := ⟨3, ⟨32, 2, 4⟩⟩, m := none, keep := 1, of_ := 1, fa := .i8, fb := .i8, cd := .i32, rnd := .rne, ga := {}, gb := {} }
def working : State := onNode bytesIn { tiles with tileQ := [{ id := 7, unit := 0, node := 1, warp := 1, lane := 0, work := .product intProduct }] }
theorem test_meets_TileResults : (∃ w n, working.tileQ = [] ++ { id := 7, unit := 0, node := 1, warp := 1, lane := 0, work := .product intProduct } :: [] ∧ find 1 working.nodes = some n ∧ find 1 working.warps = some w
      ∧ w.isSeq = false ∧ 0 < w.lanes.length ∧ working.poisonedTiles 1 (n.coreIdx 0) (TileWork.product intProduct).reads = false)
    ∧ Shape.Legal ⟨8, 2, 4⟩ ∧ intProduct.cd = .i32 ∧ intProduct.m = none ∧ ((2 : Nat) < [1, 2, 3].length ∧ ∀ v ∈ [1, 2, 3], v < 2 ^ 8) :=
  ⟨⟨_, _, by rfl, by rfl, by rfl, by decide +kernel⟩, ⟨by decide, by decide, by decide, by decide⟩, by decide +kernel⟩
/-- The hypotheses of the numeric clauses: a shape of rows, an expansion 2 of 4, finite values, a float product, a quantised row. -/
theorem test_meets_TileResults_values : (0 < 2 ∧ [10, 20].length = [0, 3].length ∧ [0, 3].length % 2 = 0) ∧ expandRow 2 4 [10, 20] [0, 3] = some [some 10, none, none, some 20] ∧ expandRow 2 4 [10, 20] [3, 0] = none
    ∧ (lay32.value 0x3F800000).isFinite = true ∧ (lay32.value 0).isNan = false ∧ Fmt.i8.isAsym = false ∧ Fmt.f32.isAsym = false ∧ Rm.rne ≠ .ef
    ∧ ({ : GroupVals}).sc = false ∧ (keptOf .i8 2 [1, 250, 3, 2]) = [(250, 1), (3, 2)] ∧ ((ranked valBefore ([0x3F800000, 0x40000000].zipIdx)).take 1)[0]? = some (0x40000000, 1) := by decide +kernel
/-- 11 R273: 1 + 2 + 3 − 4 and 5 + 6 + 7 − 8 in every column. -/
theorem test_mma_result : ends working (.tileInstructionComplete 7) (fun t => t.tileQ.isEmpty && (find 1 t.nodes).any fun n => n.tileElems 0 ⟨3, ⟨32, 2, 4⟩⟩ == [[2, 2, 2, 2], [10, 10, 10, 10]]) = true := by decide +kernel
/-- 11 R279: a row's sum, greatest, least; 11 R277: 3 · 2 + 1. -/
theorem test_tred_rows : (reduceRow 0 [0x3F800000, 0x40000000]).1 = 0x40400000 ∧ (reduceRow 1 [0x3F800000, 0x40000000]).1 = 0x40000000 ∧ (reduceRow 2 [0x3F800000, 0x40000000]).1 = 0x3F800000
    ∧ scaleElem 0x3F800000 0x40400000 0x40000000 0x3F800000 = (0x40E00000, 0) := by decide +kernel

/-! ### The engine class -/

def poke (o n v : Nat) (s : State) : State := { s with mem := (leBytes n v).zipIdx.foldl (fun m b => memSet m (o + b.2) b.1) s.mem }
/-- The partition holds the blocks of `GPOOL` (320), `ATTN` (384), `COLL` (448, and for `ATOA` 512), six code lengths (576) and three that are no code (592);
memory holds a communicator of one member at 0x11000. -/
def engines : State :=
  let part : List (Nat × List Byte) := [(320, leBytes 32 (2 ^ 128 + 2 ^ 112 + 8 * 2 ^ 96 + 64 * 2 ^ 160 + 96 * 2 ^ 192 + 128 * 2 ^ 224)),
    (384, leBytes 64 (17 + 2 ^ 48 + 2 ^ 52 + 2 * 2 ^ 56 + 4 * 2 ^ 240 + 1024 * 2 ^ 256 + 2048 * 2 ^ 288 + 128 * 2 ^ 320 + 2 ^ 448)),
    (448, leBytes 64 (4 * 2 ^ 128 + 4096 * 2 ^ 224 + va16 0x12000 * 2 ^ 384 + va16 0x13000 * 2 ^ 448)), (512, leBytes 64 (4096 * 2 ^ 224 + 17 * 2 ^ 498)),
    (576, [2, 2, 3, 3, 3, 3]), (592, [1, 1, 1])]
  let s := poke 0x11000 64 (2 ^ 32 + 16 * 2 ^ 160 + va16 0x11040 * 2 ^ 192) (withS [(8, va16 0x10000), (9, 64)] (withVp [(30, va16 0x10000), (32, 18 * 2 ^ 50), (50, va16 0x11000)]
    (withV [(34, 320), (36, 384), (38, 448), (40, 512), (42, 576), (44, 592), (46, 4), (48, 100), (56, 64)] data)))
  part.foldl (fun s e => s.spWrite 0 e.1 e.2) s
def en : EngF := { p := few, d := 30, a := 50, b := 46, c := 30 }

def commands : List Instr := [.cpy en, .cpy { en with x := 1, d := 42 }, .dec { en with d := 42 }, .gpool { en with a := 32, b := 34 }, .attn { en with b := 36 }]
def colls : List Instr := [.collAllred { en with b := 38 }, .collRedsc { en with b := 38 }, .collAllgath { en with b := 38 }, .collAtoa { en with b := 40 }]
theorem test_meets_EngineCommands : (∀ i ∈ commands, ∃ x, Issues engines i few x ∧ x.ex ≠ []) ∧ (∀ u o n, engines.spPoisoned u o n = false) := ⟨all_meet (by decide +kernel), unpoisoned (by decide +kernel)⟩
def headerPieces : List Piece := (List.range 4).map fun k => pieceAt (0x1000 + 16 * k) 16
theorem test_meets_EngineCommands_coll : ∀ i ∈ colls, ∃ x, Issues engines i few x ∧ x.ex ≠ [] ∧ x.takePorts.val 1 0 = va16 0x11000
    ∧ x.takePorts.s.checkAccess x.n.ctx (some x.n.launch) x.lvl { write := false, onlyN := true } (va16 0x11000) 64 = .ok headerPieces
    ∧ x.takePorts.reads 0 headerPieces / 2 ^ 192 % 2 ^ 64 = va16 0x11040 ∧ (∀ p ∈ headerPieces, x.takePorts.s.poisonedMem p.pa p.n = false)
    ∧ x.takePorts.s.checkAccess x.n.ctx (some x.n.launch) x.lvl { write := false, onlyN := true } (va16 0x11040) 2 = .ok [pieceAt 0x1040 2] := all_meet (by decide +kernel)
/-- Every check passes: the command enters its queue behind its acceptance store. -/
theorem test_commands : ((commands ++ colls).all fun i => lands engines i fun t w => t.cmds.length == 1 && t.held.length == 1 && (w.lane 0).pc == i.len) = true := by decide +kernel
/-- 12 R287, R292, R294: a count of 0; a block of 16 bytes too far; a completion word out of line. -/
theorem test_command_traps : let s := onWarp (fun w => { w with utvec := 256 }) engines
    lands s (.cpy { en with b := 60 }) (fun _ w => (w.lane 0).ucause == 6 + 3 * 256) && lands s (.attn { en with b := 48 }) (fun _ w => (w.lane 0).ucause == 2 + 4 * 256)
    && lands (withV [(30, 4)] s) (.gpool { en with a := 32, b := 34 }) (fun _ w => (w.lane 0).ucause == 2 + 256) = true := by decide +kernel

/-- The instructions without a command: code lengths that are a code, that are none, that are out of line; waits on a word of 0; forks; tasks. -/
theorem test_meets_ForksAndTasks_dtld : (∀ i ∈ [Instr.dtld { en with d := 6, a := 42 }, .dtld { en with d := 6, a := 44 }, .dtld { en with d := 6, a := 48 }], ∃ x, Issues engines i few x ∧ x.ex ≠ [])
    ∧ (let t := engines.spBytes 0 576 16; (∀ b ∈ t, b.toNat ≤ 16) ∧ ((t.filter (· ≠ 0)).map fun b => 2 ^ (16 - b.toNat)).sum ≤ 2 ^ 16)
    ∧ ¬(((engines.spBytes 0 592 16).filter (· ≠ 0)).map fun b => 2 ^ (16 - b.toNat)).sum ≤ 2 ^ 16 := ⟨all_meet (by decide +kernel), by decide +kernel, by decide +kernel⟩
theorem test_meets_ForksAndTasks_waits : ∀ i ∈ [Instr.cwait { en with d := 6, a := 30 }, .tjoin { en with a := 30 }], ∃ x, Issues engines i few x ∧ x.ex ≠ []
    ∧ (∀ l ∈ x.ex, x.takePorts.val 1 l = va16 0x10000) ∧ va16 0x10000 % 8 = 0
    ∧ x.takePorts.s.checkAccess x.n.ctx (some x.n.launch) x.lvl { write := false, onlyN := true } (va16 0x10000) 8 = .ok [pieceAt 0 8] := all_meet (by decide +kernel)
def forking : EngF := { p := few, x := 3, a := 9, b := 9 }
theorem test_meets_ForksAndTasks_fork : (∃ x, Issues engines (.efork forking) few x ∧ x.ex ≠ [] ∧ x.inRegion = false ∧ x.w.fork = none ∧ ∀ q ∈ seqEntries forking, x.w.sreg q.2 % 2 ^ 32 % 4 = 0)
    ∧ (∃ x, Issues engines (.erdv { p := few }) few x ∧ x.ex ≠ [] ∧ x.w.fork = none) := ⟨of_meets (by decide +kernel), of_meets (by decide +kernel)⟩
/-- A warp with a fork whose one sequencer runs, has reached its `ERDV`, or has been aborted. -/
def forked (idle : Bool) (fail : Option (Nat × Nat)) (reached : Option (Pred × Nat)) : State :=
  let s := onWarp (fun w => { w with fork := some { seqs := [2], lane := 0, flags := fNX, fail := fail, reached := reached } }) engines
  { s with warps := insert 2 { probeWarp with role := .seq 0 1, lanes := [{}], atErdv := idle } s.warps }
theorem test_meets_ForksAndTasks_erdv : (∃ x, Issues (forked true none none) (.erdv { p := few }) few x ∧ x.forkOpen = false ∧ x.w.isSeq = false ∧ x.w.fork ≠ none)
    ∧ (∃ x, Issues (forked true (some (3, 0)) none) (.erdv { p := few }) few x ∧ x.forkOpen = false)
    ∧ (∃ x, Issues { forked false none none with cur := some 2 } (.erdv { p := always }) always x ∧ x.w.isSeq = true ∧ x.ex ≠ [])
    ∧ (∃ x, meets (forked false none none) (.nop few) few (fun y => decide (y.forkOpen = x)) = true) ∧ (forked true none (some (few, 0))).mayMeet 1 = some (few, 0) :=
  ⟨of_meets (by decide +kernel), of_meets (by decide +kernel), of_meets (by decide +kernel), ⟨true, by decide +kernel⟩, by decide +kernel⟩
theorem test_meets_ForksAndTasks_tfork : ∃ x, Issues engines (.tfork { en with d := 6, a := 52, b := 56, imm := 8 }) few x ∧ x.ex ≠ [] ∧ x.w.sreg 8 % 8 = 0
    ∧ (∀ l ∈ x.ex, x.takePorts.val 2 l % 4 = 0) ∧ x.takePorts.s.checkAccess x.n.ctx (some x.n.launch) x.lvl { write := true, onlyN := true, atomic := true } (va16 0x10000) 8 = .ok [pieceAt 0 8] := of_meets (by decide +kernel)
/-- Lanes that wait at `CWAIT` and `TJOIN`; tasks for an empty slot of a node, on the core's own deque and on its neighbour's. -/
def joining (v : Nat) (wt : Wait) : State := poke 0x10000 8 v (onWarp (fun w => w.setLane 0 fun y => { y with st := .waiting, wait := wt }) data)
theorem test_meets_ForksAndTasks_release : ∃ w n, find 1 data.warps = some w ∧ find w.node data.nodes = some n ∧ n.desc.red = false ∧ w.isSeq = false ∧ w.lanes.length = 32
    ∧ ∀ v ∈ [0, 7], (joining v .none).reread 1 w 0 (va16 0x10000) 8 = some (v, false) := ⟨_, _, by rfl, by rfl, by decide +kernel⟩
def aTask : Task := { entry := 64, args := leBytes 16 5, node := 1, counter := 0x10000, tag := 0 }
def spare (ds : List (Nat × List Task)) : State := onNode (fun n => { n with desc := { n.desc with w := 2 } }) { data with deques := ds }
theorem test_meets_ForksAndTasks_tasks : getD [] (spare [(0, [aTask])]).deques 0 = aTask :: [] ∧ (spare []).emptySlot 1 0 = some 1 ∧ (find 1 (spare []).nodes).isSome = true
    ∧ getD [] (spare []).deques 0 = [] ∧ ((spare []).nodes.any fun e => ((spare []).emptySlot e.1 0).isSome) = true ∧ (getD [] (spare [(1, [aTask])]).deques 1).getLast? = some aTask
    ∧ find 0 ({ spare [] with probeDue := [(0, 0)] } : State).probeDue = some 0 := by decide +kernel

/-- 12 R291: the generation, and a set of lengths that is no code (ENGINE, TABLE). -/
theorem test_dtld : lands engines (.dtld { en with d := 6, a := 42 }) (fun _ w => w.vreg 6 0 == 1 && w.vreg 6 1 == 1)
    && lands (onWarp (fun w => { w with utvec := 256 }) engines) (.dtld { en with d := 6, a := 44 }) (fun _ w => (w.lane 0).ucause == 6 + 4 * 256) = true := by decide +kernel
theorem test_waits : lands engines (.cwait { en with d := 6, a := 30 }) (fun _ w => (w.lane 0).st == .waiting) && lands engines (.tjoin { en with a := 30 }) (fun _ w => (w.lane 0).st == .running) = true := by decide +kernel
/-- 01 R38: two sequencers start with the scalar registers of the warp; 01 R40: their flags reach the lane of the fork. -/
theorem test_efork : lands engines (.efork forking) (fun t w => t.warps.length == 3 && (w.fork.map (·.seqs)) == some [engines.nextId, engines.nextId + 1]
    && (find engines.nextId t.warps).any fun v => v.role == .seq 0 1 && (v.lane 0).pc == 64 && v.sreg 9 == 64) = true := by decide +kernel
theorem test_erdv : lands (forked true none none) (.erdv { p := few }) (fun t w => w.fork.isNone && (w.lane 0).fflags == fNX && t.warps.length == 1)
    && ends (forked true none (some (few, 0))) (.erdvRendezvous 1) (fun t => t.warps.length == 1) = true := by decide +kernel
theorem test_tfork : lands engines (.tfork { en with d := 6, a := 52, b := 56, imm := 8 }) (fun t w => t.held.length == 2 && w.vreg 6 0 == 0) = true := by decide +kernel
theorem test_releases : ends (joining 7 (.cwait (va16 0x10000) 6)) (.cwaitRelease 1 0) (fun t => (find 1 t.warps).any fun w => (w.lane 0).st == .running && w.vreg 6 0 == 7)
    && ends (joining 0 (.tjoin (va16 0x10000))) (.tjoinRelease 1 0) (fun t => (find 1 t.warps).any fun w => (w.lane 0).st == .running) = true := by decide +kernel
/-- 01 R36, R37: a task starts with its arguments in `s1` and `s2`; an idle core steals one from the core whose number differs in bit 0. -/
theorem test_task_start : ends (spare [(0, [aTask])]) (.taskStart 0) (fun t => t.warps.length == 2 && (getD [] t.deques 0).isEmpty && (find data.nextId t.warps).any fun v => v.sreg 1 == 5 && (v.lane 31).pc == 64)
    && ends (spare [(1, [aTask])]) (.taskStart 0) (fun t => t.warps.length == 2 && (getD [] t.deques 1).isEmpty) = true := by decide +kernel
theorem test_task_retry : ends (spare []) (.taskStart 0) (fun t => find 0 t.probeDue == some (t.now + 64))
    && ends { spare [(1, [aTask])] with probeDue := [(0, 0)] } (.taskStealRetry 0) (fun t => t.warps.length == 2) = true := by decide +kernel

/-! ### Engine commands under way -/

/-- A started command of unit 0, its completion word at 0x10000, and a device where it is the only one. -/
def aCmd (i : Instr) (d a b : Nat) : Cmd := { id := 9, instr := i, unit := 0, node := 1, ctx := 1, launch := 1, lvl := 2, warp := 1, widx := 0, lane := 0, lanes := [0, 1], at_ := 0, acq := false,
                                              started := true, ready := true, d := d, a := a, b := b, doneVa := va16 0x10000, donePa := 0x10000 }
def under (c : Cmd) : State := { data with cmds := [c] }
theorem working_under {c : Cmd} (h : c.started && c.ready && c.park.isNone && c.code.isNone && !c.aborted && decide (c.donePa + 8 ≤ linkBase) = true) : Working (under c) c := by
  simp only [Bool.and_eq_true, Option.isNone_iff_eq_none, Bool.not_eq_true', decide_eq_true_eq] at h
  obtain ⟨⟨⟨⟨⟨h1, h2⟩, h3⟩, h4⟩, h5⟩, h6⟩ := h
  exact ⟨List.mem_singleton.2 rfl, fun q hq _ => List.mem_singleton.1 hq, h1, h2, ⟨h3, h4, h5⟩, fun r hr => (by cases hr), h6⟩
theorem onNode_under (c : Cmd) (h : c.node = 1) (hu : c.unit = 0) : OnNode (under c) c probeNode := ⟨by rw [h]; rfl, by rfl, by rw [hu]; decide⟩

/-- 12 R289: copies to memory and to the partition, two that fail (a system table, a table that is not there), and one that is about to start. -/
def toMem : Cmd := { aCmd (.cpy en) (va16 0x11000) 0 4 with data := [1, 2, 3, 4] }
def toPart : Cmd := { aCmd (.cpy { en with x := 1 }) 48 0 4 with data := [1, 2, 3, 4] }
def wrong (t : Nat) : Cmd := { toMem with d := t * 2 ^ 50 }
def queued : Cmd := { aCmd (.cpy en) (va16 0x11000) (va16 0x10000) 4 with started := false, ready := false }
theorem test_meets_EngineResults_cpy : Working (under toMem) toMem ∧ Working (under toPart) toPart ∧ OnNode (under toPart) toPart probeNode ∧ toMem.data.length = toMem.b ∧ 48 + toPart.b ≤ probeNode.partSize :=
  ⟨working_under (by decide), working_under (by decide), onNode_under _ rfl rfl, by decide, by decide⟩
theorem test_meets_EngineResults_cpy_at : let ps := [pieceAt 0x1000 4]
    (under toMem).cmdCheck toMem true toMem.d 4 = .ok ps ∧ (piecesAddrs ps).length = 4 ∧ (piecesAddrs ps).Nodup
    ∧ (∀ a ∈ piecesAddrs ps, a.2 = toMem.doneTag ∧ a.1 < linkBase ∧ (a.1 < toMem.donePa ∨ toMem.donePa + 8 ≤ a.1))
    ∧ (under (wrong 2)).cmdCheck (wrong 2) true (wrong 2).d 4 = .trap 3 0x26 := by decide +kernel
theorem test_meets_EngineResults_cpy_fault : ∃ g, (under (wrong 30)).cmdCheck (wrong 30) true (wrong 30).d 4 = .fault g [] ∧ g.noRoute = false :=
  ⟨{ code := 0x14, level := 0, kind := 1, va := 30 * 2 ^ 50, page := 30 * 2 ^ 50, pageSize := 2 ^ 50 }, by decide +kernel⟩
theorem test_meets_EngineResults_start : (under queued).nextCmd 0 = some queued ∧ (under queued).cmdCheck queued false queued.a 4 = .ok [pieceAt 0 4]
    ∧ (under queued).poisonedMem 0x10000 4 = false := by decide +kernel
theorem test_meets_EngineResults_aborted : let c := { toMem with aborted := true }
    c ∈ (under c).cmds ∧ (∀ q ∈ (under c).cmds, q.id = c.id → q = c) ∧ c.started = true ∧ c.code = none ∧ (under c).held = [] := by decide +kernel

/-- 12 R291, R292: lengths 2, 2, 3, 3, 3, 3 and the bytes E4 75. -/
def lens : List Byte := [2, 2, 3, 3, 3, 3] ++ List.replicate 10 0
def coded : List Byte := [0xE4, 0x75]
theorem test_meets_EngineResults_codes : (∀ b ∈ lens, b.toNat ≤ 16) ∧ ((lens.filter (· ≠ 0)).map fun b => 2 ^ (16 - b.toNat)).sum ≤ 2 ^ 16
    ∧ ∀ k b, coded[k]? = some b → ∀ j, j < 8 → bitAt b.toNat (7 - j) = (fun i => bitAt (coded.getD (i / 8) 0).toNat (7 - i % 8)) (8 * k + j) := by
  refine ⟨by decide, by decide, fun k b h j hj => ?_⟩
  have h1 : (8 * k + j) / 8 = k := by omega
  have h2 : (8 * k + j) % 8 = j := by omega
  simp [h1, h2, List.getD, h]
theorem test_meets_EngineResults_match : (2, 1, 1) ∈ canonicalCodes (codedSymbols lens) 0 0 ∧ matchCode (canonicalCodes (codedSymbols lens) 0 0) (fun k => coded[k]?) 0 18 0 0 = .sym 5 3 := by decide +kernel
def decoding : Cmd := { aCmd (.dec en) 48 (va16 0x11000) 6 with table := lens }
theorem test_meets_EngineResults_dec : Working (under decoding) decoding ∧ OnNode (under decoding) decoding probeNode ∧ decoding.data = [] ∧ decoding.vals = []
    ∧ decodeStream (canonicalCodes (codedSymbols lens) 0 0) (fun k => coded[k]?) 6 0 = ([5, 0, 2, 1, 4, 3], 16, none)
    ∧ (decodeStream (canonicalCodes (codedSymbols [1]) 0 0) (fun k => coded[k]?) 6 0).2.2 = some .none ∧ OnNode (under { decoding with code := some 2, data := [5, 0] }) { decoding with code := some 2, data := [5, 0] } probeNode :=
  ⟨working_under (by decide), onNode_under _ rfl rfl, rfl, rfl, by decide +kernel, by decide +kernel, onNode_under _ rfl rfl⟩

/-- 12 R293: one key, 7, its row of table 18 in slot 1 with element 2.0 at column 8, and its weight 3.0; and a key that is missing. -/
def pooling (key : Nat) : Cmd := { aCmd (.gpool en) 0 18 0 with
  block := 2 ^ 128 + 2 ^ 112 + 8 * 2 ^ 96 + 128 * 2 ^ 224, data := leBytes 8 key ++ leBytes 4 0x40400000, vals := [0, 0, 0] }
def rows : State := poke 72 4 0x40000000 (under (pooling 7))
theorem test_meets_EngineResults_gpool : Working (under (pooling 7)) (pooling 7) ∧ OnNode (under (pooling 7)) (pooling 7) probeNode ∧ find 18 (rows.ctx 1).tables = some hashT ∧ hashT.desc.shard = 0
    ∧ rows.poison = [] ∧ rows.homeOf 1 18 7 = 18 ∧ hashT.lookup 7 = some ⟨7, 1⟩ ∧ hashT.lookup 8 = none
    ∧ rows.cmdCheck (pooling 7) false (hashT.rowAddr 18 1 + 8) 4 = .ok [{ va := 18 * 2 ^ 50 + 72, n := 4, pa := 72 }]
    ∧ words32 (rows.rdBytes 0 72 4) = [0x40000000] :=
  ⟨working_under (by decide), onNode_under _ rfl rfl, by decide +kernel⟩

/-- 12 R294, R295: position 0 of sequence 17, keys of two halves at column 0 and values at column 4, one head. -/
def attending : Cmd := { aCmd (.attn en) 0 0 0 with
  block := 17 + 2 ^ 48 + 2 ^ 52 + 2 * 2 ^ 56 + 4 * 2 ^ 240 + 1024 * 2 ^ 256 + 8192 * 2 ^ 288 + 2 ^ 448, data := List.replicate 8 0, vals := [0] }
def sequence : State := poke (slotsAt 0) 8 0x3C003C003C003C00 (under attending)
theorem test_meets_EngineResults_attn : Working (under attending) attending ∧ OnNode (under attending) attending probeNode
    ∧ (let b := AttnBlock.ofNat attending.block
       b.pbeg = 0 ∧ b.pend = 1 ∧ b.dim = 2 ∧ b.heads = 1 ∧ b.seq = 17 ∧ (sequence.opSqloc 1 { lane := 0, tbl := 17, a := 0 }).2.sr ≠ some 5
       ∧ b.ooff + 4096 * b.heads ≤ probeNode.partSize ∧ b.stoff + 32 * b.heads ≤ b.ooff) ∧ (List.replicate 64 0).length = 64 :=
  ⟨working_under (by decide), onNode_under _ rfl rfl, by decide +kernel, by decide⟩
theorem test_meets_EngineResults_attn_at : sequence.cmdCheck attending false (17 * 2 ^ 50) 4 = .ok [{ va := 17 * 2 ^ 50, n := 4, pa := slotsAt 0 }]
    ∧ sequence.cmdCheck attending false (17 * 2 ^ 50 + 4) 4 = .ok [{ va := 17 * 2 ^ 50 + 4, n := 4, pa := slotsAt 0 + 4 }] ∧ sequence.poisonedMem (slotsAt 0) 8 = false := by decide +kernel

theorem test_engine_start : ends (poke 0x10000 4 0x04030201 (under queued)) (.engineCommandStart 0) (fun t => t.cmds == [{ queued with started := true, ready := true, data := [1, 2, 3, 4] }]) = true := by decide +kernel
theorem test_cpy : ends (under toMem) (.cpyComplete 9) (fun t => t.rdBytes 0 0x11000 4 == [1, 2, 3, 4] && t.rdBytes 0 0x10000 2 == [1, 0] && t.cmds.isEmpty)
    && ends (under toPart) (.cpyComplete 9) (fun t => t.spBytes 0 48 4 == [1, 2, 3, 4] && t.feBit 0 63) = true := by decide +kernel
/-- 12 R287: the trap of a destination in a system table is code 3, an aborted command code 8. -/
theorem test_cpy_fails : ends (under (wrong 2)) (.cpyComplete 9) (fun t => t.rdBytes 0 0x10000 8 == leBytes 8 (2 ^ 31 + 3))
    && ends (under { toMem with aborted := true }) (.cpyComplete 9) (fun t => t.rdBytes 0 0x10000 8 == leBytes 8 (2 ^ 31 + 8)) = true := by decide +kernel
theorem test_dec : ends (poke 0x11000 2 0x75E4 (under decoding)) (.decComplete 9) (fun t => t.spBytes 0 48 3 == [0x05, 0x12, 0x34] && t.rdBytes 0 0x10000 1 == [1]) = true := by decide +kernel
theorem test_gpool : ends rows (.gpoolComplete 9) (fun t => t.spBytes 0 128 8 == [0, 0, 0xC0, 0x40, 0, 0, 0, 0])
    && ends (under (pooling 8)) (.gpoolComplete 9) (fun t => t.spBytes 0 128 8 == [0, 0, 0, 0, 1, 0, 0, 0]) = true := by decide +kernel
/-- One position with query 0: its score is 0 and its weight 1, so that A holds its value and L is 1. -/
theorem test_attn_step : (let t := (({} : Triple).step 0x3F800000 [0, 0] [0x3F800000, 0x3F800000] [0x3F800000, 0x40000000]); (t.m, t.l, t.a.take 3, t.bad)) = (0, 0x3F800000, [0x3F800000, 0x40000000, 0], false) := by decide +kernel

/-! ### The system class -/

/-- Context 1 with trap sequences 8 and 9, one record in each, and table 22, sharded over table 18 alone by the map at 0x14000; node 1 of launch 1 is REDUNDANT.
`v30` holds an address in table 16, `v32` a handle of table 22, `v34` the address of the record in table 8, `v36` a place that is none, `v38` node 1's selector. -/
def trapT (id : Nat) : Table := { desc := { kind := 4, valid := true, rowlg := 10, scope := 1, win := Config.trapWindow }, r := 1, blocks := [(0, id)] }
def shardT : Table := { hashT with desc := { hashT.desc with shard := va16 0x14000, scope := 1 } }
def redNode : Node := { probeNode with idx := 1, desc := { probeDesc with red := true }, pairs := [{ idx := 0, copies := [{ warp := 3 }, { warp := 4 }] }] }
def sys : State :=
  let s := onCtx (fun c => { c with grecs := 1, hrecs := 1, tables := c.tables ++ [(22, shardT)] ++ [] }) (onCtx (fun c => { c with tables := [(8, trapT 1), (9, trapT 2)] ++ c.tables })
    (withVp [(30, va16 0x10000), (32, 22 * 2 ^ 50), (34, 8 * 2 ^ 50), (36, 8 * 2 ^ 50 + 8), (38, 2 ^ 32 + 1)] data))
  poke 0x14000 48 (2 ^ 48 + 18 * 2 ^ 256) (onLaunch (fun l => { l with nodes := [1, 2] }) { s with
    nodes := insert 2 redNode s.nodes, warps := insert 3 { probeWarp with node := 2 } (insert 4 { probeWarp with node := 2, copy := 1 } s.warps), nextId := 50 })
def sf : SysF := { p := few, d := 40, a := 30, b := 12, c := 30 }

def drains : List Instr := [.tlbiCtx sf, .tlbiTbl sf, .tlbiVa sf, .tlbiS2 sf, .cinvLine8 sf, .cinvLine12 sf, .cinvAll sf, .cwbLine8 sf, .cwbLine12 sf, .cwbAll sf]
def privileged : List Instr := drains ++ [.eretRetry { sf with a := 36 }, .eretSkip { sf with a := 36 }, .eretKill { sf with a := 36 }, .smcall { sf with a := 12 }, .ctxs sf, .ctxl sf, .kmig { sf with a := 32 },
  .inj { sf with a := 12, b := 38 }]
theorem test_meets_SystemInstructions : (∀ i ∈ privileged, ∃ x, Issues sys i few x ∧ x.ex ≠ [] ∧ 2 ≤ x.lvl) ∧ (∀ i ∈ privileged, ∃ x, Issues (onNode (fun n => { n with desc := { n.desc with lvl := 0 } }) sys) i few x ∧ x.lvl < 1)
    ∧ ∃ x, Issues sys (.kmig { sf with a := 32, c := 12 }) few x ∧ x.takePorts.s.shardMap x.n.ctx shardT.desc.shard = some { headOk := true, range := false, ents := [⟨0, 0, 18, false⟩] } :=
  ⟨all_meet (by decide +kernel), all_meet (by decide +kernel), of_meets (by decide +kernel)⟩
/-- The only shard of table 22 is another device's, to which no route leads. -/
def strayed : State := poke 0x14000 48 (2 ^ 48 + (5 + 2 ^ 22) * 2 ^ 256) sys
theorem test_meets_TableRequests_away : (∃ x, Issues strayed (.kget { ft with tbl := 22 }) few x ∧ x.ex ≠ [] ∧ x.n.ctx = 1 ∧ x.w.frags = [] ∧ x.w.lanes.length = 32 ∧ x.w.isSeq = false ∧ ∀ l ∈ x.ex, x.takePorts.val 1 l = 0)
    ∧ strayed.reachable 1 (.kget { ft with tbl := 22 }) { lane := 0, tbl := 22, a := 0 } = false := ⟨of_meets (by decide +kernel), by decide +kernel⟩
/-- At level 0 a `GCALL` escalates to the guest supervisor; at level 2 it kills its node. -/
def guest : State := onNode (fun n => { n with desc := { n.desc with lvl := 0 } }) sys
theorem test_meets_SystemInstructions_gcall : (∃ x, Issues guest (.gcall sf) few x ∧ x.ex ≠ [] ∧ x.w.isSeq = false ∧ x.w.frags = [] ∧ x.w.lanes.length = 32 ∧ x.lvl < 2 ∧ ∀ l ∈ x.ex, (x.w.lane l).frag = 0)
    ∧ ∃ x, Issues sys (.gcall sf) few x ∧ x.lvl = 2 ∧ x.n.st.final = false ∧ find x.nk sys.nodes = some x.n := ⟨of_meets (by decide +kernel), of_meets (by decide +kernel)⟩

/-- A record goes into the next slot of table 8; into one that was resolved; and waits for one that was not. -/
theorem test_meets_TrapsEscalate_append : find 8 (sys.ctx 1).tables = some (trapT 1) ∧ sys.slotRuns (sys.ctx 1) (trapT 1) ((trapT 1).posOff 1) 1024 = some [(slotsAt 1 + 1024, 0, 1024)]
    ∧ (sys.ctx 1).grecs < Config.trapWindow ∧ (let t := { trapT 1 with r := 1025 }; Config.trapWindow ≤ t.r ∧ sys.slotPlace (sys.ctx 1) t (t.posOff t.r) = some (slotsAt 1 + 1024, 0)
      ∧ (sys.rdByte 0 (slotsAt 1 + 1064)).toNat % 4 = 0 ∧ ((poke (slotsAt 1 + 1064) 1 1 sys).rdByte 0 (slotsAt 1 + 1064)).toNat % 4 ≠ 0) := by decide +kernel
def wrapped (state : Nat) : State := poke (slotsAt 1 + 1064) 1 state (onCtx (fun c => { c with tables := insert 8 { trapT 1 with r := 1025 } c.tables }) sys)
/-- 16 R314: no record takes the slot of one that is not resolved. -/
theorem test_append_waits : let r : TrapRec := { launchId := 1, frag := 0, warp := 0, node := 0, lanes := 1, epc := 0, from_ := 0, sub := 0, cause := 9, args := [] }
    ((wrapped 0).appendTrap 1 8 r).isNone = true ∧ ((wrapped 1).appendTrap 1 8 r).isSome = true := by decide +kernel

theorem test_invalidations : (drains.all fun i => lands sys i fun _ w => (w.lane 0).pc == i.len && (w.lane 0).st == .running) = true := by decide +kernel
/-- 16 R320: below level 1 a privileged instruction traps PRIV, SYSINS. -/
theorem test_privilege : (privileged.all fun i => lands (onWarp (fun w => { w with utvec := 256 }) guest) i fun _ w => (w.lane 0).ucause == 0x0B + 3 * 256) = true := by decide +kernel
/-- 16 R326: a save and a load are commands of Saltern. -/
theorem test_ctxs_ctxl : lands sys (.ctxs sf) (fun t _ => t.cmds.length == 1) && lands sys (.ctxl sf) (fun t _ => t.cmds.length == 1) = true := by decide +kernel
/-- 16 R323: the record carries each lane's argument, and the registers of D wait. -/
theorem test_gcall : lands guest (.gcall sf) (fun t w => (w.lane 0).st == .parked && (w.lane 0).frag == 1 && w.pend.length == 2 && (t.tableOf 1 8).r == 2) = true := by decide +kernel

/-- Selectors of a V register, an S register and store data, and those that are not sound (16 R328). -/
def selV : Nat := 3 * 2 ^ 4 + 5 * 2 ^ 12 + 7 * 2 ^ 17
def selS : Nat := 4 + 3 * 2 ^ 4 + 7 * 2 ^ 17
def selD : Nat := 8 + 5 * 2 ^ 12
def injS : State := withV [(42, selV), (44, 3), (46, selV + 2), (48, selV + 2 ^ 23)] sys
theorem test_meets_Flips : ∀ a ∈ [42, 44, 46, 48], ∃ x, Issues injS (.inj { sf with a := a, b := 38 }) few x ∧ x.ex ≠ [] ∧ 2 ≤ x.lvl
    ∧ (x.s.setNode x.nk x.n).selNode x.n.ctx (x.val 2 x.elected) = some (2, redNode) := fun a h => of_meets (by revert a; decide +kernel)
/-- The node of the selector is saved, and its warp is there or has retired (16 R328). -/
def savedRed (left : Bool) : State := { injS with nodes := insert 2 { redNode with st := .saved } injS.nodes, warps := if left then injS.warps else erase 3 (erase 4 injS.warps) }
theorem test_meets_Flips_saved : ∀ left ∈ [true, false], ∃ x, Issues (savedRed left) (.inj { sf with a := 42, b := 38 }) few x ∧ x.ex ≠ [] ∧ 2 ≤ x.lvl
    ∧ (x.s.setNode x.nk x.n).selNode x.n.ctx (x.val 2 x.elected) = some (2, { redNode with st := .saved }) ∧ (x.s.warps.any fun e => e.2.node == 2 && e.2.idx == 0 && !e.2.isSeq) = left :=
  fun a h => of_meets (by revert a; decide +kernel)
theorem test_inj_retired : lands (savedRed true) (.inj { sf with a := 42, b := 38 }) (fun _ w => w.vreg 40 0 == 0) && lands (savedRed false) (.inj { sf with a := 42, b := 38 }) (fun _ w => w.vreg 40 0 == 2) = true := by decide +kernel
def struck (sel : Nat) (pending : Bool) : State := onNode (fun n => { n with flips := [{ warp := 0, copy := 0, sel := sel, pending := pending }] }) data
theorem test_meets_Flips_strike : (∀ sel ∈ [selV, selS, selD], ((struck sel false).start (.nop always) always).isSome = true) ∧ (∃ w n, find 1 (struck selV false).warps = some w ∧ find w.node (struck selV false).nodes = some n
      ∧ n.flips = [{ warp := w.idx, copy := w.copy, sel := selV, pending := false }]) ∧ (struck selV false).cur = some 1 := ⟨by decide +kernel, ⟨_, _, by rfl, by rfl, by rfl⟩, rfl⟩
theorem test_meets_Flips_store : meets (struck (8 + 2 ^ 12) true) (.st8 fm) few (fun y => decide (y.i = .st8 fm ∧ y.n.flips = [{ warp := y.w.idx, copy := y.w.copy, sel := 8 + 2 ^ 12, pending := true }])) = true := by decide +kernel
/-- Armed; out of its range; a third copy of a running node that has two; a warp that the node has not. -/
theorem test_inj : lands injS (.inj { sf with a := 42, b := 38 }) (fun t w => w.vreg 40 0 == 0 && (find 2 t.nodes).any fun n => n.flips.length == 1)
    && lands (onWarp (fun w => { w with utvec := 256 }) injS) (.inj { sf with a := 44, b := 38 }) (fun _ w => (w.lane 0).ucause == 6 + 3 * 256)
    && lands injS (.inj { sf with a := 46, b := 38 }) (fun _ w => w.vreg 40 0 == 2) && lands injS (.inj { sf with a := 48, b := 38 }) (fun _ w => w.vreg 40 0 == 2) = true := by decide +kernel
/-- A strike at the next issue: bit 7 of `v3` of lane 5, of `s3`; of store data at the store of lane 1 (bit 0). -/
theorem test_strikes : lands (struck selV false) (.nop always) (fun _ w => w.vreg 3 5 == 128) && lands (struck selS false) (.nop always) (fun _ w => w.sreg 3 == 128)
    && lands (withVp [(2, va16 0x10000)] (struck (8 + 2 ^ 12) true)) (.st8 { fm with p := few })
      (fun t _ => (t.held.map (·.kind)).contains (.store 0 [(0x10000, 1), (0x10001, 0), (0x10002, 0), (0x10003, 0)]) && (find 1 t.nodes).any fun n => n.flips.isEmpty) = true := by decide +kernel

/-- Warp 5 with lane 3 held in a fragment whose record is the one in table 8: an escalation, a `GCALL`, a fault; and a command whose fault it is. -/
def lone : Pred := ⟨6, false⟩
def fragW (g : Frag) : Warp := { probeWarp with lanes := (List.range 32).map fun k => if k = 3 then { st := .parked, frag := 1, pc := 16 } else {}, frags := [{ g with id := 1, parent := 0 }] }
def escOf (d : Option Nat) : Frag := { id := 1, parent := 0, esc := some { cause := 4, sub := 0, epc := 16, dbl := false, gcallD := d, args := [(3, 16)], ref := some ⟨8, 0⟩ } }
def parkOf (r : Option RecRef) : Park := { d := 128, due := 9, fault := { code := 0x14, level := 0, kind := 0, va := 30 * 2 ^ 50, page := 30 * 2 ^ 50, pageSize := 2 ^ 50 }, vas := [(3, 30 * 2 ^ 50)], open_ := r }
def parked : Frag := { id := 1, parent := 0, park := some (parkOf (some ⟨8, 0⟩)) }
def held (g : Frag) : State := onWarp (fun w => w.setM 6 1) { sys with warps := insert 5 (fragW g) sys.warps }
def stalledCmd : State := onWarp (fun w => w.setM 6 1) { sys with cmds := [{ aCmd (.cpy en) 0 0 4 with park := some (parkOf (some ⟨8, 0⟩)) }] }
def er : SysF := { p := lone, d := 40, a := 34 }
theorem fragsOk_of {w : Warp} (h1 : ∀ g ∈ w.frags, 1 ≤ g.id ∧ g.id ≤ 32) (h2 : (w.frags.map (·.id)).Nodup) (h3 : ∀ l, l < 32 → (w.lane l).frag = 0 ∨ ∃ g ∈ w.frags, g.id = (w.lane l).frag)
    (h4 : ∀ g ∈ w.frags, w.fragLanes g.id ≠ []) (h5 : w.lanes.length = 32) : FragsOk w := by
  refine ⟨h1, h2, fun l => ?_, h4, h5⟩
  by_cases h : l < 32
  · exact h3 l h
  · left
    simp [Warp.lane, List.getD, List.getElem?_eq_none (by omega : w.lanes.length ≤ l)]
theorem test_meets_ReturnFromException : ∀ g ∈ [escOf none, escOf (some 8), parked], (∀ i ∈ [Instr.eretRetry er, .eretSkip er, .eretKill er], ∃ x, Issues (held g) i lone x ∧ x.ex = [0] ∧ 1 ≤ x.lvl ∧ x.val 1 0 = 8 * 2 ^ 50
      ∧ ((find 8 x.ctx.tables).getD {}).r = 1 ∧ find 5 (insert x.wk x.w (held g).warps) = some (fragW g) ∧ x.wk ≠ 5) ∧ (held g).recPlace 1 ⟨8, 0⟩ = some (slotsAt 1, 0) ∧ (held g).rdByte 0 (slotsAt 1 + 40) = 0
    ∧ (fragW g).frags.map Frag.openRec = [some ⟨8, 0⟩] ∧ (fragW g).isSeq = false := fun g hg => ⟨fun i hi => of_meets (by revert i; revert g; decide +kernel), by revert g; decide +kernel⟩
theorem test_meets_ReturnFromException_frags : ∀ g ∈ [escOf none, escOf (some 8), parked], FragsOk (fragW g) := fun g hg =>
  fragsOk_of (by revert g; decide +kernel) (by revert g; decide +kernel) (by revert g; decide +kernel) (by revert g; decide +kernel) (by revert g; decide +kernel)
/-- A record of a command, one whose fragment is gone, an address that is none, and a slot without a record. -/
theorem test_meets_ReturnFromException_cmd : (∃ x, Issues stalledCmd (.eretRetry er) lone x ∧ x.ex = [0] ∧ stalledCmd.recPlace x.n.ctx ⟨8, 0⟩ = some (slotsAt 1, 0) ∧ (stalledCmd.cmds.map fun c => c.park.bind (·.open_)) = [some ⟨8, 0⟩])
    ∧ (∃ x, Issues (onWarp (fun w => w.setM 6 1) sys) (.eretSkip er) lone x ∧ x.ex = [0] ∧ sys.cmds = []) ∧ (∃ x, Issues (onWarp (fun w => w.setM 6 1) sys) (.eretKill { er with a := 36 }) lone x ∧ x.val 1 0 % 2 ^ 50 % 1024 ≠ 0)
    ∧ ∃ x, Issues (onCtx (fun c => { c with tables := insert 8 { trapT 1 with r := 0 } c.tables }) (onWarp (fun w => w.setM 6 1) sys)) (.eretRetry er) lone x ∧ ((find 8 x.ctx.tables).getD {}).r ≤ x.val 1 0 % 2 ^ 50 / 1024 :=
  ⟨of_meets (by decide +kernel), of_meets (by decide +kernel), of_meets (by decide +kernel), of_meets (by decide +kernel)⟩
theorem test_eret_retry : lands (held (escOf none)) (.eretRetry er) (fun t w => w.vreg 40 0 == 0 && (find 5 t.warps).any (fun v => (v.lane 3).st == .running && (v.lane 3).pc == 16 && (v.lane 3).frag == 0 && v.frags.isEmpty)
    && t.rdByte 0 (slotsAt 1 + 40) == 1 && (t.ctx 1).grecs == 0) = true := by decide +kernel
/-- `SKIP` of a `GCALL` (8 bytes) takes the results for the lanes from RES. -/
theorem test_eret_skip : lands { held (escOf (some 8)) with mem := memSet (held (escOf (some 8))).mem (slotsAt 1 + 344) 77 } (.eretSkip er) (fun t _ => (find 5 t.warps).any fun v => v.rdReg .vp 8 3 == 77 && (v.lane 3).st == .running) = true := by decide +kernel
theorem test_eret_kill : ends (held parked) (.eretKill er) (fun t => (find 1 t.nodes).any fun n => n.st == .failed) && lands (held parked) (.eretRetry { er with a := 36 }) (fun _ w => w.vreg 40 0 == 2) = true := by decide +kernel

/-! ### Security and power -/

/-- A caller with a service number in `v42` and an argument in `v44`. -/
def caller (n a : Nat) : State := withVp [(42, n), (44, a)] data
def smc : SysF := { p := few, d := 40, a := 42, b := 44 }
theorem test_meets_SmcServices : ∀ n ∈ [1, 0x12, 0x30, 0x31, 0x50, 0x51, 0x77], ∃ x, Issues (caller n 3) (.smcall smc) few x ∧ x.ex ≠ [] ∧ 2 ≤ x.lvl ∧ x.val 1 x.elected % 2 ^ 16 = n ∧ x.val 2 x.elected = 3 :=
  fun n h => of_meets (by revert n; decide +kernel)
/-- The block of `CTXCREATE`, its stage and numbers; the context to destroy; the blocks of `LOOKUPS` and `ATTEST`. -/
def creating : State := let s := poke 0x30000 17 (0x20000 + 0x2000 * 2 ^ 64) (caller 0x10 0x30000); { s with smc := { s.smc with stage := 6, measurements := List.replicate 4 (List.replicate 64 0) } }
theorem test_meets_SmcServices_ctxcreate : (let b := ofLe ((List.range 64).map fun k => memGet creating.mem (0x30000 + k)); b / 2 ^ 129 = 0 ∧ b / 2 ^ 64 % 2 ^ 64 % 8192 = 0 ∧ b % 2 ^ 64 % 131072 = 0 ∧ bitAt b 128 = false)
    ∧ creating.smc.stage = 6 ∧ (∀ e ∈ creating.ctxs, e.1 < 2) ∧ find 1 creating.ctxs = some (creating.ctx 1) ∧ (creating.ctx 1).dead = false ∧ ∀ e ∈ creating.ctxs, e.2.owner ≠ 1 := by decide +kernel
theorem test_meets_SmcServices_attest : creating.checkAccess 1 none 2 { write := false, onlyN := true } (va16 0x15000) 32 = .ok [pieceAt 0x5000 16, pieceAt 0x5010 16] ∧ creating.smc.measurements.length = 4
    ∧ (∀ m ∈ creating.smc.measurements, m.length = 64) ∧ creating.settings.devid < 4096 := by decide +kernel
theorem test_meets_SmcServices_lookups : let b := 22 * 2 ^ 50 + 4 * 2 ^ 224
    b / 2 ^ 224 % 2 ^ 32 = 4 ∧ b / 2 ^ 257 % 2 ^ 255 = 0 ∧ b / 2 ^ 192 % 2 ^ 32 = 0 ∧ b / 2 ^ 76 % 2 ^ 52 = 0 ∧ b % 2 ^ 50 = 0 ∧ b / 2 ^ 128 % 16 = 0 ∧ (sys.ctx 1).table (b / 2 ^ 50 % 2 ^ 14) = some shardT
    ∧ shardT.desc.kind = 2 ∧ shardT.desc.shard ≠ 0 := by decide +kernel

/-- 23 R428: below level 2 a setting is DENIED; settings, keys, the cap on power and a number that is no service. -/
theorem test_smcall : lands (onNode (fun n => { n with desc := { n.desc with lvl := 1 } }) (caller 0x50 400)) (.smcall smc) (fun _ w => w.vreg 40 0 == 1)
    && lands (caller 0x77 0) (.smcall smc) (fun _ w => w.rdReg .vp 40 0 == 2 ^ 64 - 1) = true := by decide +kernel
theorem test_settings : lands (caller 0 (2 ^ 48 + 1024)) (.setput smc) (fun t w => w.vreg 40 0 == 0 && t.settings.starve == 1024) && lands (caller 0 (2 ^ 48 + 1023)) (.setput smc) (fun _ w => w.vreg 40 0 == 2)
    && lands (caller 0 2) (.setget smc) (fun _ w => w.rdReg .vp 40 0 == 4096 * 256) && lands (caller 0 9) (.setget smc) (fun _ w => w.vreg 40 0 == 2) = true := by decide +kernel
theorem test_power : lands (caller 0 399) (.powercap smc) (fun _ w => w.vreg 40 0 == 2) && lands (caller 0 400) (.powercap smc) (fun t _ => t.smc.powercap == 400)
    && lands { caller 0 0 with smc := { temp := 60, throttle := 2 } } (.thermal smc) (fun _ w => w.vreg 40 0 == 60 * 2 ^ 8 + 2 * 2 ^ 16) = true := by decide +kernel
/-- 23 R422: a slot under whose key a store of another context is under way waits for it. -/
theorem test_meets_SmcServices_retire : (let r : Req := { id := 3, who := ⟨9, 0⟩, ctx := 2, node := 9, unit := 5, issued := 0, hold := 512, kind := .store 3 [(0x10000, 7)] }
    r.under (data.keyTag 3) = true ∧ lands { caller 0 3 with held := [r] } (.keyretire smc) (fun t w => t.retiring == [(3, [3])] && t.smc.keyGen == 256 && w.drain == [3]) = true) := by decide +kernel
theorem test_keys : lands (caller 0 255) (.keyretire smc) (fun t _ => t.smc.keyGen == 257 && find 255 t.smc.keySlots == some 256) && lands (caller 0 256) (.keyretire smc) (fun _ w => w.vreg 40 0 == 2)
    && lands { caller 0 0 with smc := { svn := 7 } } (.version smc) (fun _ w => w.vreg 40 0 == 7 * 256) = true := by decide +kernel
theorem test_ecc : lands { caller 0 (5 * 4096) with ecc := [(5 * 4096, 3, 1)] } (.ecccount smc) (fun t _ => (t.ecc.map fun e => (e.1, e.2.2)) == [(5 * 4096, 1)]) && lands (caller 0 (5 * 4096 + 1)) (.ecccount smc) (fun _ w => w.vreg 40 0 == 2) = true := by decide +kernel
theorem test_ctx_services : lands creating (.ctxcreate smc) (fun t w => w.rdReg .vp 40 0 == 2 * 2 ^ 8 + 1 * 2 ^ 24 && (t.ctx 2).s1root == 0x20000 && (t.ctx 2).owner == 1)
    && ends (caller 0 1) (.ctxdestroy smc) (fun t => (t.ctx 1).dead && t.warps.isEmpty) = true := by decide +kernel

/-! ### Redundant regions -/

/-- A copy (0) of a warp of a REDUNDANT node, its other copy, and what they have reached. -/
def copies (a b : CopySt) : State :=
  let s := onNode (fun n => { n with desc := { n.desc with red := true }, pairs := [{ idx := 0, copies := [a, b] }] }) data
  { s with warps := insert 2 { probeWarp with copy := 1, lanes := [{}, {}] ++ List.replicate 30 { st := .never } } s.warps }
def rg : EngF := { p := always }
def ck0 : Ckpt := { v := [], s := [], m := [], lanes := [{}, {}] ++ List.replicate 30 { st := .never }, frags := [], utvec := 0, taken := [], logLen := 0 }
def c1 : CopySt := { warp := 1 }
def c2 : CopySt := { warp := 2 }
def inRegion (c : CopySt) : CopySt := { c with open_ := true, ck := some ck0 }
def waiting : CopySt := { inRegion c2 with meet := .rchk, chunks := [(0, 0)] }
def atRchk : CopySt := { inRegion c1 with meet := .rchk, chunks := [(0, 0)] }
def regionOk (a b : CopySt) (i : Instr) (q : Issue → Bool) : Bool :=
  match (copies a b).start i always with
  | some x => !x.held && !x.readsPoison always && x.red && x.once && x.pair == some { idx := 0, copies := [a, b] } && x.w.copy == 0 && !x.w.isSeq && x.wk == 1 && q x
  | none => false
theorem test_meets_RedundantRegions : ∀ i ∈ [Instr.rbeg rg, .rchk rg, .rend rg], ∃ x, Issues data i always x := fun i h => (of_meets (P := fun _ => True) (by revert i; decide +kernel)).imp fun _ h => h.1
/-- `RBEG` outside and inside a region; `RCHK` and `REND` outside; inside as they come to it, wait there, and after they were let through. -/
theorem test_meets_RedundantRegions_copy : regionOk c1 c2 (.rbeg rg) (fun x => x.w.frags.isEmpty) && regionOk (inRegion c1) c2 (.rbeg rg) (fun x => x.w.frags.isEmpty) && regionOk c1 c2 (.rchk rg) (fun x => x.w.frags.isEmpty)
    && regionOk c1 c2 (.rend rg) (fun x => x.w.frags.isEmpty) && regionOk (inRegion c1) (inRegion c2) (.rchk rg) (fun x => x.w.frags.isEmpty) && regionOk atRchk waiting (.rchk rg) (fun _ => true)
    && regionOk { inRegion c1 with meet := .rend, pass := true } { inRegion c2 with pass := true } (.rend rg) (fun _ => true) = true := by decide +kernel
def copyAt (t : State) (k : Nat) : CopySt := ((t.pairAt 1 0).bind fun p => p.copies[k]?).getD { warp := 0 }
/-- A pair with chunks decided and mismatches behind it, and what its comparison leaves. -/
def paired (a b : CopySt) (decided mismatch : Nat) : State := onNode (fun n => { n with pairs := [{ idx := 0, copies := [a, b], decided := decided, mismatch := mismatch }] }) (copies a b)
def compares (s : State) (q : State → Bool) : Bool := match s.compare 1 0 with | some t => q t | none => false
def other : CopySt := { waiting with chunks := [(1, 1)] }
/-- Equal chunks, chunks that differ for the first time and again, and both copies at the end of their interval. -/
theorem test_meets_RedundantRegions_compare : ∀ s ∈ [paired atRchk waiting 0 0, paired atRchk other 0 0, paired atRchk other 0 1, paired atRchk waiting 1 0],
    (find 1 s.warps).any (fun w => w.copy == 0 && w.suspended.isNone && w.pend.isEmpty && w.issuePc == some 0) = true ∧ (find 2 s.warps).any (fun w => w.copy == 1 && w.suspended.isNone && w.pend.isEmpty && w.issuePc == some 0) = true ∧ s.pairMates 1 0 = [(1, 0)]
    ∧ s.redPairs = [(1, 0)] ∧ (s.pairAt 1 0).all (fun p => p.mismatch = 1 || (s.compare 1 0).isSome) = true ∧ s.inputs = [] ∧ s.memEvent.isNone = true := by decide +kernel
theorem test_meets_RedundantRegions_chunks : atRchk.chunks[0]? = waiting.chunks[0]? ∧ atRchk.chunks[0]? ≠ other.chunks[0]? ∧ atRchk.chunks.length ≤ 1 ∧ atRchk.ck = some ck0 ∧ other.ck = some ck0 ∧ atRchk.meet = .rchk ∧ other.meet = .rchk := by decide
theorem test_rbeg : lands (copies c1 c2) (.rbeg rg) (fun t w => (copyAt t 0).open_ && (copyAt t 0).ck.isSome && (w.lane 0).pc == 8)
    && lands (onWarp (fun w => { w with utvec := 256 }) (copies (inRegion c1) c2)) (.rbeg rg) (fun _ w => (w.lane 0).ucause == 0x0C + 2 * 256) = true := by decide +kernel
/-- 12 R303: a copy that comes to its `RCHK` ends its chunk and waits. 19 R385: equal chunks are decided; unequal ones take both copies back; at the end both may pass. -/
theorem test_rchk : lands (copies (inRegion c1) c2) (.rchk rg) (fun t w => (copyAt t 0).meet == .rchk && (copyAt t 0).chunks == [(0, 0)] && t.meets == 1 && (w.lane 0).pc == 0)
    && compares (paired atRchk waiting 0 0) (fun t => (t.pairAt 1 0).any fun p => p.decided == 1 && p.mismatch == 0) && compares (paired atRchk other 0 0) (fun t => (t.pairAt 1 0).any fun p => p.mismatch == 1)
    && compares (paired atRchk waiting 1 0) (fun t => (copyAt t 0).pass && (copyAt t 1).pass) = true := by decide +kernel
theorem test_rend : lands (copies { inRegion c1 with meet := .rend, pass := true } { inRegion c2 with pass := true }) (.rend rg) (fun t w => !(copyAt t 0).open_ && (w.lane 0).pc == 8)
    && lands (onWarp (fun w => { w with utvec := 256 }) (copies c1 c2)) (.rend rg) (fun _ w => (w.lane 0).ucause == 0x0C + 3 * 256) = true := by decide +kernel

/-! ### Collectives -/

/-- 21 R410, the worked example: four devices, fully connected, give two trees. -/
def mesh : List Edge := [(0, 0, 1, 0), (0, 1, 2, 0), (0, 2, 3, 0), (1, 1, 2, 1), (1, 2, 3, 1), (2, 2, 3, 2)]
theorem test_trees : (treesOf [0, 1, 2, 3] mesh).map (fun t => (t.root, t.kids.map (·.2.2))) = [(0, [(0, 0, 1, 0), (1, 1, 2, 1), (2, 2, 3, 2)]), (1, [(1, 2, 3, 1), (0, 2, 3, 0), (0, 1, 2, 0)])] := by decide +kernel
/-- A collective of devices 0 and 1 over one link, about to compare its parameters, running, or an exchange of blocks. -/
def link01 : Nat := 1 + 0 * 2 + 0 * 2 ^ 13 + 1 * 2 ^ 18 + 0 * 2 ^ 30 + 2 ^ 35
def coll0 : Coll := { comm := va16 0x11000, p := 2, rank := 0, marka := va16 0x12000, members := [0, 1], fn := 0, det := true, send := va16 0x13000, recv := va16 0x14000, cnta := 0, dlva := 0, chunk := 4096, count := 1, red := 0, dt := 5 }
def collRun : Coll := { coll0 with agreed := true, running := true, edges := [(0, 0, 1, 0)] }
def collAt (k : Coll) : Cmd := { aCmd (.collAllred en) 0 0 0 with coll := some k }
def joined (k : Coll) : State := { under (collAt k) with links := [(0, link01)] }
theorem working_joined {k : Coll} : Working (joined k) (collAt k) :=
  ⟨List.mem_singleton.2 rfl, fun _ hq _ => List.mem_singleton.1 hq, rfl, rfl, ⟨rfl, rfl, rfl⟩, fun r hr => (by cases hr), (by show 0x10000 + 8 ≤ linkBase; decide)⟩
def peer1 : CollParams := { coll0.params with rank := 1 }
theorem test_meets_Collectives_start : Working (joined coll0) (collAt coll0) ∧ (joined coll0).drainRound = 4 ∧ (joined coll0).commFree (collAt coll0) coll0 = true ∧ coll0.others = [1] ∧ { coll0.params with rank := 1 } ∈ [peer1]
    ∧ treesOf coll0.members ((joined coll0).memberEdges coll0.members) ≠ [] ∧ 0 < coll0.chunks ∧ coll0.chunks = 1 ∧ coll0.share 0 1 ≠ 0 ∧ treesOf coll0.members ((under (collAt coll0)).memberEdges coll0.members) = [] := ⟨working_joined, by decide +kernel⟩
theorem test_meets_Collectives_passes : (joined coll0).passes (collAt coll0) true coll0.marka 1 [pieceAt 0x2000 1] ∧ (joined coll0).passes (collAt coll0) true (coll0.comm + 16) 4 [pieceAt 0x1010 4] := by
  constructor <;> (unfold State.passes; decide +kernel)
theorem test_meets_Collectives_clear : Clear (collAt coll0) [pieceAt 0x2000 1] ∧ Clear (collAt coll0) [pieceAt 0x1010 4] := ⟨⟨by decide, by decide, by decide⟩, ⟨by decide, by decide, by decide⟩⟩
theorem test_meets_Collectives_chunk : Working (joined collRun) (collAt collRun) ∧ collRun.fn < 3 ∧ 0 < collRun.chunks ∧ 0 ∉ collRun.marks ∧ (collRun.tree 0).isSome = true ∧ ((collRun.tree 0).all fun t => t.kids.all fun e => ((joined collRun).memberEdges collRun.members).contains e.2.2) = true
    ∧ collRun.share 0 1 = 4 ∧ collRun.range 0 = (0, 4) ∧ collRun.members.Nodup ∧ collRun.chunks = 1 ∧ collRun.others = [1] ∧ collRun.adopt = none ∧ collRun.agreedSet = none ∧ (joined collRun).settlings ≤ collRun.seen := ⟨working_joined, by decide +kernel⟩
def collAtoa : Coll := { collRun with fn := 3, det := false, recv := 17 * 2 ^ 50, count := 0, rowlg := 4, marks := [0] }
theorem test_meets_Collectives_block : Working (joined collAtoa) (collAt collAtoa) ∧ 1 ∈ collAtoa.others ∧ 1 ∉ collAtoa.marks ∧ collAtoa.rank ∈ collAtoa.marks ∧ (List.replicate 32 (0 : Byte)).length % 2 ^ collAtoa.rowlg = 0
    ∧ ((joined collAtoa).reserveSeq 1 1 17 2).2 = some 2 ∧ (joined collAtoa).treeAlive collAtoa 1 = true ∧ collAtoa.shown = [] ∧ (joined collAtoa).settlings ≤ collAtoa.seen := ⟨working_joined, by decide +kernel⟩
/-- Both blocks are delivered, and the other member shows every mark. -/
def collEnd : Coll := { collAtoa with marks := [0, 1], delivered := [(1, 2)], dlva := va16 0x15000 }
theorem test_meets_Collectives_end : collEnd.showsAll ⟨1, 0, [0, 1], true⟩ 1 ∧ collEnd.others = [1] ∧ (∀ j, j < collEnd.chunks → j ∈ collEnd.marks) ∧ (joined collEnd).cmdCheck (collAt collEnd) true collEnd.dlva (4 * collEnd.p) = .ok [pieceAt 0x5000 8] := by
  refine ⟨⟨rfl, rfl, ?_⟩, ?_, ?_, ?_⟩ <;> decide +kernel
theorem test_meets_Collectives_places : (joined collAtoa).passes (collAt collAtoa) true ((collAtoa.marka + 1) % 2 ^ 64) 1 [pieceAt 0x2001 1]
    ∧ ∀ j, j < 2 → ((joined collAtoa).reserveSeq 1 1 17 2).1.passes (collAt collAtoa) true (17 * 2 ^ 50 + 16 * (2 + j)) 16 [{ va := 17 * 2 ^ 50 + 16 * (2 + j), n := 16, pa := slotsAt 0 + 16 * (2 + j) }] := by
  unfold State.passes; decide +kernel
def resettling (n : Nat) : State := { joined { collRun with silent := [(1, n)] } with settlings := 1 }
theorem test_meets_Collectives_settle : (resettling 0).drainRound = 4 ∧ collRun.seen < (resettling 0).settlings ∧ (∃ q ∈ [({ rank := 1, digest := (resettling 0).collDigest collRun, marks := [] } : PeerDigest)], q.rank = 1 ∧ q.digest = (resettling 0).collDigest collRun)
    ∧ getD 0 [(1, 15)] 1 + 1 = 16 ∧ collRun.shown = [] ∧ collRun.digests = [] ∧ collRun.adopt = none ∧ treesOf collRun.members ((resettling 0).memberEdges collRun.members) ≠ [] ∧ treesOf collRun.members [] = [] := by decide +kernel

theorem test_coll_start : ends (poke 0x12000 1 7 (joined coll0)) (.collStart 9 [peer1]) (fun t => t.rdByte 0 0x12000 == 0 && t.cmds.map (fun c => c.coll.elim false (·.running)) == [true])
    && ends (joined coll0) (.collStart 9 [{ peer1 with dt := 0 }]) (fun t => t.rdBytes 0 0x10000 8 == leBytes 8 (2 ^ 31 + 3)) = true := by decide +kernel
/-- 21 R411–R413: 5 and 7 add up, the chunk's mark is written and, as it was the only chunk, the command completes. -/
theorem test_coll_complete : ends (poke 0x13000 4 5 (joined collRun)) (.collComplete 9 [⟨1, 0, leBytes 4 7, 0⟩] [⟨1, 0, [0], false⟩]) (fun t => t.rdBytes 0 0x14000 4 == leBytes 4 12 && t.rdByte 0 0x12000 == 1 && t.rdByte 0 0x10000 == 1)
    && ends (joined collEnd) (.collComplete 9 [] [⟨1, 0, [0, 1], true⟩]) (fun t => t.rdBytes 0 0x15004 4 == leBytes 4 2 && t.rdBytes 0 0x10000 8 == leBytes 8 (2 ^ 31 + 7))
    && ends (joined collRun) (.collComplete 9 [⟨1, 0, leBytes 4 7, 1⟩] []) (fun t => t.rdByte 0 0x12000 == 0 && t.cmds.map (fun c => c.coll.elim 0 fun k => k.inbox.length) == [1]) = true := by decide +kernel
theorem test_atoa : ends (joined collAtoa) (.atoaBlockDelivery 9 1 ⟨List.replicate 32 0, 0⟩) (fun t => (t.tableOf 1 17).r == 4 && t.rdByte 0 0x12001 == 1) = true := by decide +kernel
theorem test_tree_recompute : ends (resettling 0) (.treeRecompute 9 [⟨1, (resettling 0).collDigest collRun, []⟩]) (fun t => t.rdBytes 0 0x11010 4 == [1, 0, 0, 0])
    && ends (resettling 15) (.treeRecompute 9 []) (fun t => t.rdBytes 0 0x10000 8 == leBytes 8 (2 ^ 31 + 5)) = true := by decide +kernel

/-! ### Launches and nodes -/

/-- Context 1 with a completion sequence (4), a submission sequence (3) whose one committed position holds a graph of one node, and the node's descriptor and code in table 17. -/
def sysT (rowlg id r c : Nat) : Table := { desc := { kind := 4, valid := true, rowlg := rowlg, scope := 1, win := 1024 }, r := r, c := c, blocks := [(0, id)] }
def submitted (graph desc : Nat) : State :=
  poke (slotsAt 0 + 1024) 32 0x3000 (poke (slotsAt 0) 24 desc (poke (slotsAt 5) 64 graph (onCtx (fun c => { c with tables := [(3, sysT 6 5 1 1), (4, sysT 6 6 0 0)] ++ c.tables }) { data with nextId := 50 })))
def graphOf (nnodes : Nat) : Nat := 17 * 2 ^ 50 * 2 ^ 448 + (17 * 2 ^ 50 + 1024) * 2 ^ 320 + 32 * 2 ^ 288 + 77 * 2 ^ 256 + nnodes * 2 ^ 192
def descOf : Nat := 2 ^ 16 + 2 ^ 24 + 16 * 2 ^ 32 + 32 * 2 ^ 64
def launching : State := submitted (graphOf 1) descOf
def oneNode : NodeIn := { desc := { c := 1, w := 1, l := 32, n := 16 }, limit := false, rsvd := false }
def launchIn (ns : List NodeIn) : LaunchIn := { g := Graph.ofNat (graphOf 1), nodes := ns, groups := [] }
/-- The places in the submission sequence: a committed position, none, a void one, and a stale one. -/
theorem test_meets_LaunchesAndNodes_submission : find 3 (launching.ctx 1).tables = some (sysT 6 5 1 1) ∧ (launching.ctx 1).subPos = 0 ∧ (sysT 6 5 1 1).posSt 0 ≠ some .void ∧ launching.slotRuns (launching.ctx 1) (sysT 6 5 1 1) ((sysT 6 5 1 1).posOff 0) 64 = some [(slotsAt 5, 0, 64)]
    ∧ (sysT 6 5 0 0).c ≤ 0 ∧ ({ sysT 6 5 1 1 with pos := [(0, .void)] } : Table).posSt 0 = some .void ∧ (let t := sysT 6 5 1030 1030; t.desc.win ≠ 0 ∧ t.desc.sink ≤ 0 ∧ 0 + t.desc.win < t.r) := by decide +kernel
/-- Launches that fail one check each, and one that passes all of them (17 R333). -/
theorem test_meets_LaunchesAndNodes_checks : launching.launchFault 1 (launchIn [oneNode]) 0 = none ∧ launching.launchFault 1 (launchIn [{ oneNode with limit := true }]) 0 = some (1, 0) ∧ launching.launchFault 1 (launchIn [{ oneNode with rsvd := true }]) 0 = some (2, 0)
    ∧ launching.launchFault 1 (launchIn [{ oneNode with desc := { oneNode.desc with lvl := 1 } }]) 0 = some (3, 0) ∧ launching.launchFault 1 (launchIn [{ oneNode with desc := { oneNode.desc with pred := 1 } }]) 0 = some (4, 0)
    ∧ launching.launchFault 1 (launchIn [{ oneNode with desc := { oneNode.desc with pred := 1, succ := [0] } }]) 0 = some (5, 0) := by decide +kernel
theorem test_launch_rejected : ends (submitted (graphOf 0) descOf) (.launchAccept 1) (fun t => (t.ctx 1).subPos == 1 && (t.ctx 1).nextLaunch == 2 && t.rdBytes 0 (slotsAt 6) 2 == [2, 1] && t.launches.length == 1 && t.interrupts == [(1, 0)]) = true := by decide +kernel

/-- The launch is read from the sequence in table 17, passes every check, and its node becomes ready. -/
theorem test_meets_LaunchesAndNodes_read : (match launching.readLaunch 1 (Graph.ofNat (graphOf 1)) with | .ok x => (launching.launchFault 1 x 0).isNone | _ => false) = true := by decide +kernel
theorem test_launch_accepted : ends launching (.launchAccept 1) (fun t => t.launches.length == 2 && (find 51 t.nodes).any fun n => n.st == .ready && n.desc.l == 32) = true := by decide +kernel

/-- A node that waits in the pool, alone on the device; and a running node without warps. -/
def pooled (st : NodeSt) (level : Nat) : State := { data with nodes := [(1, { probeNode with st := st, level := level, units := [], slots := [], desc := { probeDesc with c := 1, w := 1, lvl := 0, scr := 1 } })], warps := [], hub := 300000 }
def doneNode : State := onCtx (fun c => { c with tables := [(4, sysT 6 6 0 0)] ++ c.tables }) { data with warps := [] }
theorem test_meets_LaunchesAndNodes_pool : (pooled .ready 3).pool = [{ keys := [1], level := 3, entered := 0 }] ∧ ((pooled .ready 3).placeEntry true [] [1]).isSome = true ∧ (((pooled .ready 3).dispatchable false).bind fun e => find 1 e.2.nodes).any (fun m => m.units == [0] && m.banks == [(0, 0)] && m.allUnits == [0]) = true
    ∧ (pooled .ready 3).nextDispatch ≤ (pooled .ready 3).hub
    ∧ 0 + (pooled .ready 3).settings.starve ≤ (pooled .ready 3).hub := by decide +kernel
theorem test_meets_LaunchesAndNodes_retire : find 1 doneNode.nodes = some probeNode ∧ find probeNode.launch doneNode.launches = some probeLaunch ∧ probeNode.st = .running ∧ probeNode.pre = none ∧ doneNode.warps = [] ∧ doneNode.cmds = [] ∧ doneNode.deques = []
    ∧ doneNode.held ++ doneNode.atomQ ++ doneNode.rakeQ = [] ∧ probeLaunch.nodes.Nodup ∧ probeNode.st.final = false ∧ probeLaunch.firstFail = none ∧ probeLaunch.closed = false ∧ doneNode.launchOut 1 probeLaunch = false ∧ (onNode (fun n => { n with st := .done }) doneNode).closes 1 probeLaunch = true := by decide +kernel
/-- The head of the pool at level 7 that does not fit: no block is of its world; or one is, whose banks another node has. -/
def full : State := { pooled .ready 7 with world := [] }
def crowded : State := onLaunch (fun l => { l with nodes := [1, 2] }) { full with world := [(0, false)], nodes := full.nodes ++ [(2, { probeNode with idx := 1 })] }
theorem test_meets_LaunchesAndNodes_head : let h : PoolEntry := { keys := [1], level := 7, entered := 0 }
    full.headStarved = some h ∧ full.headVictims h = [] ∧ crowded.headStarved = some h ∧ crowded.headVictims h = [2] ∧ crowded.entryOf 2 = [2]
    ∧ (find 2 crowded.nodes).any (fun n => n.st == .running && n.pre.isNone) = true ∧ ({ crowded with nodes := full.nodes } : State).placeEntry true [] [1] ≠ none := by decide +kernel
theorem test_dispatch : ends (pooled .ready 3) (.nodeDispatch false) (fun t => t.warps.length == 1 && (find 1 t.nodes).any (fun n => n.st == .running && n.units == [0]) && (t.warps.all fun e => (e.2.lane 31).pc == 0 && (e.2.lane 31).st == .running)) = true := by decide +kernel
theorem test_starve : ends (pooled .ready 3) (.starvePromotion 1) (fun t => (find 1 t.nodes).any fun n => n.level == 4 && n.entered == 300000) && ends full .headBlocked (fun t => (find 1 t.nodes).any fun n => n.blocked) = true := by decide +kernel
/-- 17 R334: the launch's one node is done, and the completion record tells its number. -/
theorem test_retire : ends doneNode (.nodeRetire 1) (fun t => (find 1 t.nodes).any (fun n => n.st == .done) && t.interrupts == [(1, 0)] && t.rdBytes 0 (slotsAt 6 + 8) 1 == [1] && t.rdBytes 0 (slotsAt 6 + 20) 1 == [1]) = true := by decide +kernel
theorem test_report : ends (pooled .ready 3) (.resourceReport 0) (fun t => (find 0 t.views).isSome) = true := by decide +kernel

/-! ### Pre-emption and saving -/

def asking (p : Preempt) (f : Warp → Warp) : State := onNode (fun n => { n with pre := some p }) (onWarp f doneNode)
def stopped : State := onWarp (fun w => { w with stop := .forced, preq := true, pdleft := 0 }) (onNode (fun n => { n with pre := some {} }) (onCtx (fun c => { c with tables := [(4, sysT 6 6 0 0)] ++ c.tables }) data))
def written : State := onNode (fun n => { n with pre := some { written := true, forced := true } }) stopped
def saved : State := onNode (fun n => { n with st := .saved, pre := none, slots := [] }) stopped
def saving (i : Instr) (ready : Bool) : Cmd := { aCmd i 0 (va16 0x100000) (2 ^ 32) with ready := ready }
def asks (i : Instr) (ready : Bool) (s : State) : State := { s with cmds := [saving i ready] }
theorem served_asks (i : Instr) (r : Bool) (s : State) (h : s.held = []) : Served (asks i r s) (saving i r) :=
  ⟨List.mem_singleton.2 rfl, fun _ hq _ => List.mem_singleton.1 hq, fun _ hr => (by simp [asks, h] at hr), (by show 0x10000 + 8 ≤ linkBase; decide)⟩
theorem test_meets_PreemptionAndSaving_request : data.entryOf 1 = [1] ∧ saved.liveEntry 1 = [1] ∧ (find 1 data.nodes).any (fun n => n.st == .running && n.pre.isNone) = true ∧ (find 1 stopped.nodes).any (fun n => n.pre.isSome) = true := by decide +kernel
theorem test_meets_PreemptionAndSaving_ctxs : Served (asks (.ctxs sf) false data) (saving (.ctxs sf) false) ∧ (asks (.ctxs sf) false data).selNode 1 (2 ^ 32) = some (1, probeNode) ∧ (asks (.ctxs sf) false data).selNode 1 (2 ^ 32 + 1) = none :=
  ⟨served_asks _ _ _ (by decide +kernel), by decide +kernel⟩
def small : State := onNode (fun n => { n with desc := { l := 32 } }) (asks (.ctxs sf) false data)
theorem test_meets_PreemptionAndSaving_range : (small.selNode 1 (2 ^ 32)).any (fun e => small.rangeOk (saving (.ctxs sf) false) true (va16 0x100000) (areaSize e.2)) = true
    ∧ (find 1 small.nodes).any (fun n => !small.rangeOk (saving (.ctxs sf) false) true (2 * 2 ^ 50) (areaSize n)) = true := by decide +kernel
theorem test_meets_PreemptionAndSaving_stop : (data.warps.map (·.1)).Nodup ∧ (∀ e ∈ data.warps, data.copyPlaces e.2 = none) ∧ (find 1 (onWarp (fun w => { w with preq := true, pdleft := 0 }) data).warps).any (fun w => w.unit == 0 && w.preq && w.pdleft == 0 && w.stop == .running) = true := by decide +kernel
/-- A warp that stops with a load of lane 0 not served, and a sequencer whose warp has stopped. -/
def stopping : State := onWarp (fun w => { w with preq := true, pdleft := 0 }) { data with
  fePend := [{ id := 1, who := ⟨1, 0⟩, unit := 0, off := 32, size := 4, sx := false, consume := false, d := 6, at_ := 24, grp := 1 }] }
def halting : State := onWarp (fun w => { w with stop := .forced }) { data with warps := insert 2 { probeWarp with role := .seq 0 1, lanes := [{}], preq := true, pdleft := 9 } data.warps }
theorem test_meets_PreemptionAndSaving_loads : (find 1 stopping.warps).any (fun w => w.lanes.length == 32 && (w.lane 0).st == .running && w.stop == .running) = true ∧ (stopping.fePend.map fun p => (p.who.lane, p.got)) = [(0, none)]
    ∧ (find 2 halting.warps).any (fun w => w.role == .seq 0 1 && w.preq && w.stop == .running) = true ∧ (find 1 halting.warps).any (fun w => w.stop != .running) = true := by decide +kernel
theorem test_stop_load : ends stopping (.forcedStop 0) (fun t => t.fePend.isEmpty && (find 1 t.warps).any fun w => w.stop == .forced && (w.lane 0).pc == 24 && (w.lane 1).pc == 0)
    && ends halting (.forcedStop 0) (fun t => (find 2 t.warps).any fun w => w.stop == .forced) = true := by decide +kernel
theorem test_meets_PreemptionAndSaving_save : stopped.stoppedNode 1 = true ∧ data.stoppedNode 1 = false ∧ (find 1 stopped.nodes).any (fun n => n.pre == some {} && n.st == .running && !n.desc.red && n.units.length == n.desc.c) = true
    ∧ (stopped.warpsOf 1).map (·.2.idx) = [0] ∧ 0 < probeNode.desc.c * probeNode.desc.w ∧ written.entryOf 1 = [1] ∧ (find 1 written.nodes).any (fun n => n.pre.any fun p => p.written && p.done.isNone) = true := by decide +kernel
theorem test_meets_PreemptionAndSaving_poison : ({ stopped with poison := [.reg 1 0 3 1] } : State).savesPoison 1 = true ∧ stopped.savesPoison 1 = false ∧ ends { stopped with poison := [.reg 1 0 3 1] } (.sumpSave 1) (fun t => t.warps.isEmpty && (find 1 t.launches).any fun l => l.reason == 0x12) = true := by decide +kernel
theorem test_meets_PreemptionAndSaving_ctxs_done : let s := onNode (fun n => { n with pre := some { written := true, done := some 0x10000 } }) (asks (.ctxs sf) true stopped)
    Served s (saving (.ctxs sf) true) ∧ (saving (.ctxs sf) true).ready = true ∧ (find 1 s.nodes).any (fun n => n.pre.any fun p => p.done == some (saving (.ctxs sf) true).donePa) = true :=
  ⟨⟨List.mem_singleton.2 rfl, fun _ hq _ => List.mem_singleton.1 hq, fun _ hr => (by cases hr), (by show 0x10000 + 8 ≤ linkBase; decide)⟩, rfl, by decide +kernel⟩
theorem test_meets_PreemptionAndSaving_resume : saved.pool.map (·.keys) = [[1]] ∧ saved.nextDispatch ≤ saved.hub ∧ (saved.dispatchable false).any (fun e => e.1.keys == [1]) = true ∧ saved.roomOn probeNode 0 = true ∧ saved.worldOk 1 0 = true ∧ saved.cmds = [] ∧ (find 1 saved.nodes).any (fun n => n.st == .saved) = true ∧ ∀ e ∈ saved.warpsOf 1, e.2.frags = [] := by decide +kernel
theorem test_meets_PreemptionAndSaving_ctxl : Served (asks (.ctxl sf) true data) (saving (.ctxl sf) true) ∧ (asks (.ctxl sf) true data).selNode 1 (2 ^ 32) = some (1, probeNode) ∧ probeNode.st ≠ .saved
    ∧ (asks (.ctxl sf) false saved).selNode 1 (2 ^ 32) = some (1, { probeNode with st := .saved, slots := [] }) := ⟨served_asks _ _ _ (by decide +kernel), by decide +kernel⟩
def moving : State := { onNode (fun n => { n with desc := { n.desc with scr := 1 } }) saved with world := [(0, false), (1, false)] }
theorem test_meets_PreemptionAndSaving_move : (let n : Node := { probeNode with st := .saved, slots := [], desc := { probeDesc with scr := 1 } }
    find 1 moving.nodes = some n ∧ moving.movers 1 = [1] ∧ n.units = [0] ∧ moving.worldOk n.ctx 1 = true ∧ (moving.forMove [1]).runsFree 1 0 n.desc.scr = true ∧ (moving.forMove [1]).partReady (n.movedTo [(1, 0)]) = true
      ∧ n.bankOn 0 + n.desc.scr ≤ 16 ∧ moving.cmds = []) := by decide +kernel

/-- 17 R342: the warps see the request, with the limit of the launch; R343: a warp whose count is 0 stops. -/
theorem test_preempt : ends data (.preemptRequest 1 none) (fun t => (find 1 t.nodes).any (fun n => n.pre == some {}) && (find 1 t.warps).any fun w => w.preq && w.pdleft == 65536)
    && ends (onWarp (fun w => { w with preq := true, pdleft := 0 }) data) (.forcedStop 0) (fun t => (find 1 t.warps).any fun w => w.stop == .forced) = true := by decide +kernel
/-- 17 R344: the save is committed, with a record of kind 4 (a warp was stopped by force); R345: the node runs on. -/
theorem test_save_resume : ends written (.saveCommit 1) (fun t => (find 1 t.nodes).any (fun n => n.st == .saved && n.pre.isNone) && t.rdBytes 0 (slotsAt 6) 1 == [4])
    && ends saved (.nodeResume 1) (fun t => (find 1 t.nodes).any (fun n => n.st == .running) && (find 1 t.warps).any fun w => w.stop == .running && !w.preq) = true := by decide +kernel
theorem test_ctxs_gone : ends { asks (.ctxs sf) false data with cmds := [{ saving (.ctxs sf) false with b := 2 ^ 33 }] } (.preemptRequest 1 (some (va16 0x100000))) (fun t => t.cmds.isEmpty && t.rdBytes 0 0x10000 8 == leBytes 8 (2 ^ 31 + 3))
    && ends (asks (.ctxl sf) true data) (.nodeResume 1) (fun t => t.cmds.isEmpty && t.rdBytes 0 0x10000 8 == leBytes 8 1) = true := by decide +kernel

/-! ### Faults and recovery -/

/-- Warp 1 with lane 1 in a fragment; a stalled copy; a second-stage fault. -/
def inFrag (g : Frag) : State := onWarp (fun w => { w.setLane 1 fun y => { y with st := .parked, frag := 1 } with frags := [g] }) { sys with now := 100 }
def second (code : Nat) : Park := { d := 64, due := 9, fault := { code := code, level := 3, kind := 1, va := va16 0, page := va16 0, pageSize := 8192, ipa := 0x2000 }, vas := [(1, va16 0)] }
def stalled (d : Nat) (p : Park) : Cmd := { aCmd (.cpy en) d 0 4 with data := [1, 2, 3, 4], park := some p }
def stall (d : Nat) (p : Park) : State := { under (stalled d p) with now := 100 }
theorem served_stall (d : Nat) (p : Park) : Served (stall d p) (stalled d p) :=
  ⟨List.mem_singleton.2 rfl, fun _ hq _ => List.mem_singleton.1 hq, fun _ hr => (by cases hr), (by show 0x10000 + 8 ≤ linkBase; decide)⟩
def escQ : Frag := { id := 1, parent := 0, esc := some { cause := 4, sub := 0, epc := 16, dbl := false, gcallD := none, args := [(1, 16)], ref := none } }
theorem test_meets_FaultsAndRecovery_retry : ∀ g ∈ [{ parked with park := some (parkOf none) }, escQ], (find 1 (inFrag g).warps).any (fun w => w.frag 1 == some g && w.stop == .running && w.fragLanes 1 == [1] && (w.lane 1).st == .parked) = true
    ∧ (find 1 (inFrag g).nodes).any (fun n => n.st == .running) = true := by decide +kernel
theorem test_meets_FaultsAndRecovery_command : Served (stall (va16 0x11000) (parkOf none)) (stalled (va16 0x11000) (parkOf none)) ∧ (parkOf none).due ≤ (stall 0 (parkOf none)).now
    ∧ (stall 0 (parkOf none)).cmdCheck (stalled 0 (parkOf none)) true (va16 0x11000) 4 = .ok [pieceAt 0x1000 4] ∧ (stall 0 (parkOf none)).cmdCheck (stalled 0 (parkOf none)) true (2 * 2 ^ 50) 4 = .trap 3 0x26
    ∧ Clear (stalled (va16 0x11000) (parkOf none)) [pieceAt 0x1000 4] := ⟨served_stall _ _, by decide +kernel, by decide +kernel, by decide +kernel, ⟨by decide, by decide, by decide⟩⟩
theorem test_meets_FaultsAndRecovery_smc : (∀ c ∈ [0x18, 0x1C], (inFrag { parked with park := some (second c) }).faultOf (.frag 1 1) = some (1, second c)) ∧ (inFrag { parked with park := some (parkOf none) }).faultOf (.frag 1 1) = none
    ∧ (stall 0 (second 0x18)).faultOf (.command 9) = some (1, second 0x18) ∧ (stall 0 (second 0x18)).leafEntry 0x2000 4 ((stall 0 (second 0x18)).ctx 1).s2root 0 = some (8192, 1) := by decide +kernel
/-- The second stage of the small device is one leaf of 1 GiB; here its first page of 8 KiB stands alone. -/
def paged : State := poke 0x50000 8 (3 + 2 ^ 8 + 0x60000) (poke 0x48000 8 (1 + 0x50000) (poke 0x40000 8 (1 + 0x48000) { data with mem := memSet data.mem 0x60005 9, ctxs := [(1, { s2root := 0x70000 })] } |> poke 0x70000 8 (1 + 0x40000)))
/-- The same page, read-duplicate, with a route to device 9. -/
def duplicate : State := poke 0x50000 8 (3 + 2 ^ 8 + 2 ^ 10 + 0x60000) { paged with links := [(0, 1 + 9 * 2 ^ 18 + 2 ^ 35)] }
theorem test_meets_FaultsAndRecovery_surrender : duplicate.leafEntry 0 4 (duplicate.ctx 1).s2root 0 = some (0x50000, 3) ∧ (Pte.ofNat (duplicate.rdEntry 0x50000)).rd = true ∧ duplicate.routed 9 = true ∧ 9 ≠ duplicate.settings.devid := by decide +kernel
/-- 18 R373: another device is the owner of the page, whose entry leads there without RD. -/
theorem test_surrender : ends duplicate (.smcFaultService (.page 1 0) (.surrender (9 * 2 ^ 40 + 0x10000) 0)) (fun t => (fun p : Pte => p.oa == 9 * 2 ^ 40 + 0x10000 && !p.rd && p.v) (Pte.ofNat (t.rdEntry 0x50000))) = true := by decide +kernel
theorem test_meets_FaultsAndRecovery_move : paged.leafEntry 0 4 (paged.ctx 1).s2root 0 = some (0x50000, 3) ∧ (Pte.ofNat (paged.rdEntry 0x50000)).oa = 0x60000 ∧ paged.absentPa 0x80000 = false ∧ paged.routed 0 = true ∧ paged.cmds = []
    ∧ paged.held ++ paged.atomQ ++ paged.rakeQ = [] ∧ Canonical 0 paged.mem ∧ Canonical 0 paged.keys ∧ 0x80000 % 8192 = 0 := by
  refine ⟨by decide +kernel, by decide +kernel, by decide +kernel, by decide +kernel, by decide +kernel, by decide +kernel, ?_, ?_, by decide⟩ <;> (unfold Canonical; decide +kernel)
def idleDev (dog : Bool) : State := { onCtx (fun c => { c with wdlim := 10, extlim := 20, dispatched := true }) data with idle := if dog then [(idleKey 1 0, 10)] else [], ext := if dog then [] else [(idleKey 1 0, 20)] }
theorem test_meets_FaultsAndRecovery_dogs : (∀ b ∈ [true, false], ((idleDev b).ctx 1).dispatched = true ∧ (∀ e ∈ (idleDev b).nodes, e.2.st ≠ .ready ∧ e.2.pre = none ∧ 0 ∈ e.2.allUnits)) ∧ ((idleDev true).ctx 1).wdlim ≤ getD 0 (idleDev true).idle (idleKey 1 0)
    ∧ ((idleDev false).ctx 1).extlim ≤ getD 0 (idleDev false).ext (idleKey 1 0) := by decide +kernel
def exposedDev (cs : List Cmd) : State := { onCtx (fun c => { c with hold := false }) data with lastOut := [(1024, 90)], lastServed := [(128, 90)], now := 100, cmds := cs }
theorem test_meets_FaultsAndRecovery_strike : ((exposedDev []).ctx 1).hold = false ∧ find (1 * 1024 + 0) (exposedDev []).lastOut = some 90 ∧ find (1 * 128 + (896 - 896)) (exposedDev []).lastServed = some 90 ∧ (∀ e ∈ (exposedDev []).nodes, e.2.st = .running ∧ 0 ∈ e.2.allUnits ∧ e.2.desc.red = false ∧ e.2.pre = none)
    ∧ (aCmd (.cpy en) 0 0 4).started = true ∧ (under (aCmd (.cpy en) 0 0 4)).engineIn (aCmd (.cpy en) 0 0 4) 0 = true ∧ ((find 0 (exposedDev []).ckpts).bind fun k => k.snaps[k.ends]?) = none ∧ (under (aCmd (.cpy en) 0 0 4)).lastOut = [] := by decide +kernel
/-- A unit with one state to come back to, from which a byte of its scratchpad differs now. -/
def earlier : State := { data with now := 80 }
def zone (log : List Arrival) : ZoneCk := { newer := 80, older := 7, snaps := [earlier.snap 0 0], log := log }
def recorded (t : Nat) : State := { data with now := t, ckpts := [(0, zone [])] }
def changed : State := (recorded 600).spWrite 0 5 [9]
theorem test_meets_FaultsAndRecovery_restore : (∀ l, (zone l).snaps[(zone l).ends]? = some (earlier.snap 0 0)) ∧ (zone []).log.drop 0 = [] ∧ earlier.copiesOn 0 = [] ∧ changed.cmds = [] ∧ (∀ e ∈ changed.nodes, (changed.ctx e.2.ctx).hold = true)
    ∧ (earlier.warps.map (·.1)).Nodup ∧ (changed.warps.map (·.1)).Nodup ∧ Canonical 0 earlier.scratch ∧ Canonical false earlier.fe := by
  refine ⟨fun _ => rfl, by decide +kernel, by decide +kernel, by decide +kernel, by decide +kernel, by decide +kernel, by decide +kernel, ?_, ?_⟩ <;> (unfold Canonical; decide +kernel)
/-- 19 R378: the byte is as it was. -/
theorem test_strike_restore : ends changed (.strikeReport 0) (fun t => t.spByte 0 5 == 0 && t.warps.length == 1 && t.now == 600)
    && lands { changed with ckpts := [(0, zone [.atom 1 0 (earlier.nextId - 1) 6 4 77 0])], warps := adjust 1 (fun w => w.setV 6 0 5) changed.warps } (.strikeReport 0) (fun _ w => w.vreg 6 0 == 0) = true := by decide +kernel
theorem test_meets_FaultsAndRecovery_poison : data.absentPa 0x60000 = false ∧ encrypted 0x60000 = true ∧ 0x60000 / 2 ^ 40 = data.settings.devid ∧ (data.ctx 1).table 18 = some hashT ∧ (find 1 data.warps).any (fun w => decide (w.unit < Config.cores)) = true ∧ probeNode.units[0]? = some 0 := by decide +kernel

theorem test_park_retry : lands (inFrag { parked with park := some (parkOf none) }) (.parkRetry 1 1) (fun _ w => (w.lane 1).st == .running && (w.lane 1).frag == 1)
    && lands (inFrag escQ) (.parkRetry 1 1) (fun t w => (t.tableOf 1 9).r == 2 && (w.frag 1).any fun g => g.openRec == some ⟨9, 1⟩) = true := by decide +kernel
theorem test_command_retry : ends (stall (va16 0x11000) (parkOf none)) (.commandFaultRetry 9) (fun t => t.rdBytes 0 0x11000 4 == [1, 2, 3, 4] && t.cmds.isEmpty)
    && ends { stall (va16 0x11000) (parkOf none) with now := 8 } (.commandFaultRetry 9) (fun t => t.cmds.length == 1) = true := by decide +kernel
theorem test_smc_service : ends (inFrag { parked with park := some (second 0x18) }) (.smcFaultService (.frag 1 1) (.repair [(0x50000, 7)])) (fun t => t.rdEntry 0x50000 == 7)
    && ends (inFrag { parked with park := some (second 0x18) }) (.smcFaultService (.frag 1 1) .kill) (fun t => t.warps.length == 2 && (find 1 t.nodes).any fun n => n.st == .failed) = true := by decide +kernel
/-- 18 R372: the page's one byte is found at its new place. -/
theorem test_page_move_busy : ends { paged with cmds := [stalled 0 (parkOf none)] } (.pageMove 1 0 0x80000) (fun t => t.rdEntry 0x50000 == 3 + 2 ^ 8 + 0x60000) = true := by decide +kernel
theorem test_dogs : ends (idleDev true) (.watchdogExpiry 0 1) (fun t => t.warps.isEmpty && (find 1 t.launches).any fun l => l.reason == 0x13) && ends (idleDev false) (.extwaitExpiry 0 1) (fun t => t.warps.isEmpty && (find 1 t.launches).any fun l => l.reason == 0x14)
    && ends data (.watchdogExpiry 0 1) (fun t => t.warps.length == 1) = true := by decide +kernel
theorem test_checkpoint : ends (recorded 600) (.checkpoint 0) (fun t => (find 0 t.ckpts).any fun k => k.newer == 600 && k.older == 80 && k.snaps.length == 2 && k.gen == 1) && ends (recorded 591) (.checkpoint 0) (fun t => t == recorded 591) = true := by decide +kernel
/-- 19 R379–R381: an exposed node dies; held accesses and a command that has written nothing are replayed; one that has written fails with code 4. -/
theorem test_strike : ends (exposedDev []) (.strikeReport 0) (fun t => t.warps.isEmpty) && ends data (.strikeReport 0) (fun t => t.warps.length == 1)
    && ends (under { aCmd (.cpy en) 0 0 4 with wrote := true }) (.strikeReport 0) (fun t => t.rdBytes 0 0x10000 8 == leBytes 8 (2 ^ 31 + 4)) = true := by decide +kernel
theorem test_uncorrectable : ends data (.uncorrectableError (.word 0x60007)) (fun t => t.poison == [.word 0x60000] && t.interrupts == [(0, 3)] && find (3 * 4096) t.ecc == some (0, 1)) = true := by decide +kernel

/-! ### The fabric and the platform -/

def linked : State := { data with ports := [(2, { up := true, peer := 5, peerPort := 7, heard := 0, lastSent := 0 })], hub := 70000 }
def entry5 (ver : Nat) (up : Bool) : LinkEntry := ⟨ver, up, 0, 2, 5, 7⟩
def ready : State := { data with smc := { data.smc with stage := 6 } }
theorem test_meets_FabricEvents : 5 ≤ ready.smc.stage ∧ ready.smc.off = false ∧ (data.port 2).up = false ∧ 5 ≠ data.settings.devid ∧ linked.port 2 = { up := true, peer := 5, peerPort := 7, heard := 0, lastSent := 0 } ∧ 0 + 65536 ≤ linked.hub ∧ linked.stored (entry5 1 false) < (entry5 1 false).ver
    ∧ linked.linkEntry 2 5 7 1 false = entry5 1 false ∧ ({ linked with drainRound := 3, drainDue := 0 } : State).drainDue ≤ linked.hub := by decide +kernel
def read8 (num : Nat) : RemoteReq := ⟨9, num, .read 0x60000 8 0⟩
theorem test_meets_FabricEvents_remote : getD 0 data.remoteNext 9 = 0 ∧ data.remoteWait = [] ∧ ({ data with remoteWait := [read8 1] } : State).remoteWait.map (·.num) = [0 + 1] ∧ (0x60000 / 2 ^ 40 = data.settings.devid ∧ data.absentPa 0x60000 = false ∧ data.absentPa 0x60007 = false)
    ∧ (data.ctx 1).table 18 = some hashT ∧ (data.ctx 1).table 30 = none ∧ hashT.lookup 7 = some ⟨7, 1⟩ ∧ hashT.freeSlot = some 0 := by decide +kernel
theorem test_link_up : ends data (.linkUp 2 5 7) (fun t => !(t.port 2).up) && ends ready (.linkUp 2 5 7) (fun t => (t.port 2).up && t.drainRound == 0 && getD 0 t.links 2 == 1 + 2 * 2 ^ 13 + 5 * 2 ^ 18 + 7 * 2 ^ 30 + 2 ^ 35 + 2 ^ 96) = true := by decide +kernel
theorem test_link_down : ([Instr.linkRetransmitFail 2, .linkIdleTimeout 2, .portTakenDown 2].all fun i => ends linked i fun t => !(t.port 2).up && t.interrupts == [(0, 3)])
    && ends { linked with hub := 65535 } (.linkIdleTimeout 2) (fun t => (t.port 2).up) = true := by decide +kernel
theorem test_idle_flit : ends linked (.idleFlit 2) (fun t => (t.port 2).lastSent == 70000) && ends { linked with hub := 511 } (.idleFlit 2) (fun t => (t.port 2).lastSent == 0) = true := by decide +kernel
theorem test_link_update : ends linked (.linkStateUpdate 2 (entry5 1 false)) (fun t => !(t.port 2).up) && ends linked (.linkStateUpdate 2 (entry5 0 true)) (fun t => (t.port 2).up && (t.port 2).heard == 70000 && t.links.isEmpty)
    && ends { linked with drainRound := 3, drainDue := 0 } .drainRound (fun t => t.drainRound == 4 && t.settlings == 1) = true := by decide +kernel
theorem test_remote : ends { data with remoteWait := [read8 1] } (.remoteRequest (read8 0)) (fun t => getD 0 t.remoteNext 9 == 2 && t.remoteWait.isEmpty) && ends data (.remoteRequest (read8 1)) (fun t => t.remoteWait.length == 1)
    && ends data (.remoteRequest ⟨9, 0, .lookup 1 18 7⟩) (fun t => find 25 t.replies == some { code := 0, data := leBytes 8 (18 * 2 ^ 50 + 64) }) = true := by decide +kernel

def hosted : State := { data with smc := { data.smc with stage := 6, svn := 3 } }
def req (op : HostOp) : HostReq := ⟨0, 1, .rlx, op⟩
theorem test_meets_PlatformEvents : hosted.smc.stage = 6 ∧ hosted.smc.off = false ∧ (find 1 hosted.ctxs).any (fun c => !c.dead) = true ∧ find 9 hosted.ctxs = none ∧ (hosted.tableOf 1 17).desc.kind = 4 ∧ (hosted.ctx 1).descOk (hosted.tableOf 1 17).desc = true
    ∧ (hosted.setCtx 1 { hosted.ctx 1 with sec := false }).checkAccess 1 none 2 { write := true } (va16 0x10000) 4 = .ok [pieceAt 0 4] ∧ (hosted.tableOf 1 17).markTrap 1 1 = none ∧ (serviceOf 1 { ck := 1, lvl := 2, sec := false } 0 hosted).kills = [] := by decide +kernel
theorem test_meets_PlatformEvents_run : find (0 * 16 + 3) data.runOwner ≠ some 1 ∧ data.cmds = [] ∧ (∀ e ∈ data.nodes, 0 ∈ e.2.allUnits ∧ e.2.desc.scr = 16) ∧ find (5 * 16 + 3) data.runOwner = none := by decide +kernel
theorem test_message : ends { data with interrupts := [(1, 0), (1, 2)] } (.interruptMessage 1 0) (fun t => t.interrupts == [(1, 2)]) = true := by decide +kernel
theorem test_run : ends (data.spWrite 5 0x30001 [7]) (.runReassign 5 3 (some 1)) (fun t => t.spByte 5 0x30001 == 0 && find 83 t.runOwner == some 1) && ends data (.runReassign 0 3 (some 1)) (fun t => (find 3 t.runOwner).isNone && t.reassign == [(3, some 1)]) = true := by decide +kernel
theorem test_host : ends (poke 0x10000 4 0x04030201 hosted) (.hostRequest (req (.read (va16 0x10000) 4))) (fun t => find 0 t.replies == some { code := 0, data := [1, 2, 3, 4] })
    && ends hosted (.hostRequest (req (.reserve 17 2))) (fun t => find 0 t.replies == some { code := 0, data := leBytes 8 2 } && (t.tableOf 1 17).r == 4)
    && ends hosted (.hostRequest { req (.read (va16 0) 4) with ctx := 9 }) (fun t => find 0 t.replies == some { code := 8 + 3 * 256, data := [] }) = true := by decide +kernel
theorem test_host_smc : ends hosted (.hostRequest (req (.smc 1 0))) (fun t => find 0 t.replies == some { code := 0, data := leBytes 8 (3 * 256) }) && ends data (.hostRequest (req (.smc 1 0))) (fun t => t.replies.isEmpty) = true := by decide +kernel
theorem test_throttle : ends data (.throttleChange 2 90) (fun t => t.smc.throttle == 2 && t.smc.temp == 90 && t.interrupts == [(0, 3)]) && ends data (.throttleChange 0 60) (fun t => t.interrupts.isEmpty) && ends data (.throttleChange 0 115) (fun t => t.smc.off && t.warps.isEmpty) = true := by decide +kernel
theorem test_thermal : ends data (.thermalTrip 115) (fun t => t.warps.isEmpty && t.smc.off) && ends data (.thermalTrip 114) (fun t => t.warps.length == 1) = true := by decide +kernel
/-- 23 R425: an image without the magic number leaves the device as it is without images. -/
theorem test_reset_bad : ends data (.reset { smcImage := [1, 2, 3], images := [], badStacks := [], devid := 5, hostSec := false, worlds := [], stage4 := true }) (fun t => t.smc.stage == 0 && t.ctxs.isEmpty && t.warps.isEmpty) = true := by decide +kernel

/-! ### The step -/

/-- A device that is about to issue `NOP` at address 0, one with a word that decodes to nothing and a handler, and one with an input. -/
def fetching (w : Nat) : State := onWarp (fun v => { v with utvec := 256 }) (State.reset.withFetchWord 64 w)
theorem chosen_of {s : State} {wk : Nat} {rest : List Nat} {w : Warp} {n : Node} {pc : Nat} (h : decide (s.inputs = []) && (s.dueEvent.isNone) && decide (s.order = wk :: rest) && decide (find wk s.warps = some w)
    && decide (find w.node s.nodes = some n) && decide (w.issuePc = some pc) && decide (w.suspended = none) = true) : Chosen s wk rest w n pc := by
  simp only [Bool.and_eq_true, decide_eq_true_eq, Option.isNone_iff_eq_none] at h
  obtain ⟨⟨⟨⟨⟨⟨h1, h2⟩, h3⟩, h4⟩, h5⟩, h6⟩, h7⟩ := h
  exact ⟨h1, h2, h3, h4, h5, h6, h7⟩
theorem test_meets_StepRunsDecoded : ∀ w ∈ [0x00003004, 0xFFFFFFFFFFFFFFFF], Chosen (fetching w) 1 [] { probeWarp with utvec := 256 } probeNode 0 := fun w hw => chosen_of (by revert w; decide +kernel)
theorem test_meets_StepRunsDecoded_fetch : (fetching 0x00003004).fetchable probeNode 0 8 := by
  rintro o (rfl | rfl) <;> exact ⟨_, _, by rfl⟩
theorem test_meets_StepRunsDecoded_bits : decodeBytes false 0 ((fetching 0x00003004).rdBytes 0 (codeBase 1 + 0) 16) = .ok (.nop always) ∧ declCheck 224 16 false (.nop always) = none
    ∧ (match decodeBytes false 0 ((fetching 0xFFFFFFFFFFFFFFFF).rdBytes 0 (codeBase 1 + 0) 16) with | .illegal _ => true | _ => false) = true := by decide +kernel
theorem test_meets_StepRunsDecoded_inputs : ({ data with inputs := [.idleFlit 2] } : State).inputs = [Instr.idleFlit 2] ∧ State.reset.inputs = [] ∧ State.reset.order = [] ∧ State.reset.dueEvent.isNone = true := by decide +kernel
/-- A comparison that waits for a register, so that the step is one of the clocks. -/
def blockedStep : State := onWarp (fun v => { v with pend := [⟨0, 4, [0], 9⟩] }) (State.reset.withFetchWord 64 0x00000605040204C8)
theorem test_meets_StepRunsDecoded_stall : Chosen blockedStep 1 [] { probeWarp with pend := [⟨0, 4, [0], 9⟩] } probeNode 0 ∧ blockedStep.issues = 0
    ∧ ends { blockedStep with cur := some 1 } (.icmp8 { p := ⟨1, false⟩, d := 2, a := 4, b := 5, fn := 6 }) (fun t => t.issues == 0) = true := ⟨chosen_of (by decide +kernel), by decide +kernel, by decide +kernel⟩
def stepEnds (s : State) (q : State → Bool) : Bool := match step s with | .next t => q t | _ => false
theorem test_step_nop : stepEnds (fetching 0x00003004) (fun t => t.now == 0 && t.issues == 1 && (find 1 t.warps).any fun w => (w.lane 0).pc == 8) = true := by decide +kernel
theorem test_step_stall : stepEnds blockedStep (fun t => t.now == 1 && (find 1 t.warps).any fun w => (w.lane 0).pc == 0) = true := by decide +kernel
/-- 02 R61: bits that decode to nothing trap ILLEGAL. -/
theorem test_step_illegal : stepEnds (fetching 0xFFFFFFFFFFFFFFFF) (fun t => (find 1 t.warps).any fun w => (w.lane 0).pc == 256 && (w.lane 0).ucause % 256 == 1 && (w.lane 0).inHandler) = true := by decide +kernel
theorem test_reset_inv : Inv State.reset := by
  show Memory.wf _
  decide
theorem test_reset_step : stepEnds State.reset (fun t => t == { State.reset with now := 1, hub := 1, pan := 1 }) = true := by decide +kernel
theorem test_meets_DecodeEncode : (Instr.nop always).wellFormed = true ∧ dispOk 0 (.nop always) = true ∧ decode false 0 0x00003004 = .ok (.nop always) := by decide +kernel

end Sys2Proof.Tests
end

section
/-! PROOF. The integer class and the control class (chapter 07): the rows of the statements that write operand 0, and the ends of the
no-operations and branches. -/

namespace Sys2Proof.Machine

open Issue

/-! ### Instructions that no privilege level restricts -/

/-- An instruction that neither needs a level nor names a CSR passes the privilege check at its issue. -/
theorem Issues.denied {s : State} {i : Instr} {p : Pred} {x : Issue} (h : Issues s i p x) (hl : levelOf i = 0) (hc : csrOf i = none) :
    x.denied = none := by
  have hi : x.i = i := (start_facts h.starts).2.2.1
  exact denied_none (hi ▸ hl) (hi ▸ hc)

/-! ### Rows that write operand 0 -/

/-- An operand that `eachLane` writes as one register of each lane, or under U = 1 once. -/
structure WritesDest (u : Bool) (o : Opnd) : Prop where
  uniform : u = true → o.cls = .s
  narrow : o.cls ≠ .vq ∧ o.cls ≠ .t
  written : o.wr = true

/-- `exec` of `i` writes its operand 0, `o`, in the executing lanes with `op`, and the instruction needs no privilege. -/
structure WritesRow (s : State) (p : Pred) (u : Bool) (o : Opnd) (i : Instr) (op : Issue → Nat → Nat × Nat) : Prop where
  level : levelOf i = 0
  csr : csrOf i = none
  dest : i.opnds.getD 0 ⟨.none, 0, .n⟩ = o
  effect : exec i s = s.issue i p fun x => x.eachLane u x.ex (op x)

theorem WritesRow.ends {s : State} {p : Pred} {u : Bool} {o : Opnd} {i : Instr} {op : Issue → Nat → Nat × Nat} {x : Issue}
    (r : WritesRow s p u o i op) (hd : WritesDest u o) (h : Issues s i p x) : Ends s i x (Wrote x (writers u x) (op x.takePorts)) :=
  ends_writers h (h.denied r.level r.csr) r.effect r.dest hd.uniform hd.narrow hd.written

/-- A list of such rows. -/
theorem writesAll_of_rows {s : State} {p : Pred} {u : Bool} {rows : List (Instr × (Issue → Nat → Nat × Nat))}
    (h : ∀ e ∈ rows, ∃ o, WritesDest u o ∧ WritesRow s p u o e.1 e.2) : WritesAll s p u rows := fun _ _ _ hm hi =>
  let ⟨_, hd, r⟩ := h _ hm
  r.ends hd hi

/-- D of the integer class: a scalar register under U = 1, otherwise a vector register or pair. -/
theorem writesDest_wide (f : IntF) : WritesDest f.u ⟨f.wide, f.d, .w⟩ := by
  refine ⟨fun hu => by simp [IntF.wide, hu], ?_, rfl⟩
  unfold IntF.wide
  cases f.u <;> cases f.w <;> simp

theorem WritesDest.perLane {u : Bool} {o : Opnd} (h : WritesDest u o) : WritesDest false o := ⟨by simp, h.narrow, h.written⟩

theorem writesDest_v (d : Nat) : WritesDest false ⟨.v, d, .w⟩ := ⟨by simp, by simp, rfl⟩
theorem writesDest_s (u : Bool) (d : Nat) : WritesDest u ⟨.s, d, .w⟩ := ⟨fun _ => rfl, by simp, rfl⟩

/-! ### Program counters -/

/-- The lanes of the active path begin with the successor of the instruction as their PC (01 R25). -/
theorem start_pc {s : State} {i : Instr} {p : Pred} {x : Issue} (h : s.start i p = some x) {l : Nat} (hl : l ∈ x.act) :
    (x.w.lane l).pc = x.at_ + i.len := by
  have hn := ((start_lanes h).1 l hl).2
  unfold State.start at h
  simp only [Option.bind_eq_some_iff, Option.map_eq_some_iff] at h
  obtain ⟨wk, _, w, _, n, _, pc, _, rfl⟩ := h
  obtain ⟨hrun, hpc⟩ : (((applyFlips w n).1.lane l).st == .running) = true ∧ ((applyFlips w n).1.lane l).pc = pc := by
    simpa [Warp.activeAt, Warp.eligible, List.mem_filter, mem_allLanes, and_assoc] using (List.mem_filter.1 hl).imp_left fun h => (List.mem_filter.1 h).2
  dsimp only [Warp.advance] at hn ⊢
  rw [Warp.length_onLanes] at hn
  rw [Warp.lane_onLanes, if_pos ⟨hn, hrun⟩, if_pos hpc]

/-- Setting the PC of lanes in `ms` touches no more than their PCs. -/
theorem Touches.setPc {x y : Issue} {regs : List (Nat × Nat)} {ls ms : List Nat} (h : Touches x y regs ls ms) {l : Nat} (hl : l ∈ ms) (t : Nat) :
    Touches x (y.setPc l t) regs ls ms := by
  have lane (k : Nat) : (y.setPc l t).w.lane k = { y.w.lane k with pc := ((y.setPc l t).w.lane k).pc } := by
    unfold Issue.setPc; rw [Warp.lane_setLane]; split <;> rfl
  refine ⟨?_, ?_, fun k => ?_, fun k hk => ?_, fun k hk => ?_, h.vregs, h.sregs, h.mregs, h.outs⟩
  · conv_lhs => unfold Issue.setPc
    rw [h.rest]; rfl
  · conv_lhs => unfold Issue.setPc Warp.setLane Warp.onLanes
    dsimp only
    rw [h.warp]; rfl
  · rw [lane k, h.lanes k]
  · rw [← h.pcs k hk]
    unfold Issue.setPc
    rw [Warp.lane_setLane, if_neg (by rintro ⟨-, rfl⟩; exact hk hl)]
  · rw [lane k]; exact h.flags k hk

/-- Lanes sent to one target. -/
theorem touches_foldl_setPc (x : Issue) (ls : List Nat) (t : Nat) : Touches x (ls.foldl (fun y l => y.setPc l t) x) [] [] ls := by
  suffices ∀ (k : List Nat) (y : Issue), Touches x y [] [] ls → (∀ l ∈ k, l ∈ ls) → Touches x (k.foldl (fun y l => y.setPc l t) y) [] [] ls from
    this ls x (.refl ..) fun _ h => h
  intro k
  induction k with
  | nil => exact fun _ h _ => h
  | cons a k ih => exact fun y h hk => ih _ (h.setPc (hk a (by simp)) t) fun l hl => hk l (by simp [hl])

theorem pc_foldl_setPc (x : Issue) (ls : List Nat) (t : Nat) {l : Nat} (hl : l < x.w.lanes.length) :
    ((ls.foldl (fun y l => y.setPc l t) x).w.lane l).pc = if l ∈ ls then t else (x.w.lane l).pc := by
  induction ls generalizing x with
  | nil => simp
  | cons a k ih =>
    have hn : (x.setPc a t).w.lanes.length = x.w.lanes.length := Warp.length_onLanes ..
    rw [List.foldl_cons, ih _ (hn ▸ hl)]
    unfold Issue.setPc
    rw [Warp.lane_setLane]
    by_cases ha : l = a
    · subst ha; simp [hl]
    · simp [ha]

/-- An instruction whose effect is to send some lanes to one target ends so; the rest of the active path goes on at the successor. -/
theorem ends_setPc {s : State} {i : Instr} {p : Pred} {x : Issue} (h : Issues s i p x) (hl : levelOf i = 0) (hc : csrOf i = none)
    {body : Issue → Issue} (he : exec i s = s.issue i p body) {ls ms : List Nat} {t : Nat} (hls : ∀ l ∈ ls, l ∈ ms)
    (hb : body x.takePorts = ls.foldl (fun y l => y.setPc l t) x.takePorts) :
    Ends s i x fun u w => FrameOf x [] [] ms u w ∧ ∀ l ∈ x.act, (w.lane l).pc = if l ∈ ls then t else x.at_ + i.len := by
  have touch : Touches x.takePorts (body x.takePorts) [] [] ms := by
    have ht := touches_foldl_setPc x.takePorts ls t
    rw [hb]
    exact { ht with pcs := fun l hn => ht.pcs l fun hin => hn (hls l hin) }
  obtain ⟨u, w, h1, h2, fr, sr⟩ := ends_touches h (h.denied hl hc) he touch
  refine ⟨u, w, h1, h2, fr, fun l hact => ?_⟩
  have lanes : x.takePorts.w.lanes = x.w.lanes := by rw [takePorts_rest]
  have lane : x.takePorts.w.lane l = x.w.lane l := by unfold Warp.lane; rw [lanes]
  rw [sr.pc, hb, pc_foldl_setPc _ _ _ (lanes ▸ ((start_lanes h.starts).1 l hact).2), lane, start_pc h.starts hact]

/-- An instruction without an effect of its own ends with the active path at the successor. -/
theorem ends_nothing {s : State} {i : Instr} {p : Pred} {x : Issue} (h : Issues s i p x) (hl : levelOf i = 0) (hc : csrOf i = none)
    (he : exec i s = s.issue i p fun x => x) : Ends s i x fun u w => FrameOf x [] [] [] u w ∧ ∀ l ∈ x.act, (w.lane l).pc = x.at_ + i.len := by
  simpa using ends_setPc (ls := []) (t := 0) h hl hc he (fun _ h => h) rfl

@[simp] theorem takePorts_dispTarget (x : Issue) (d : W32) : dispTarget x.takePorts d = dispTarget x d := by rw [takePorts_rest]; rfl

/-- For every instruction but `SEL`, it executes when some lane's predicate holds. -/
theorem doers_of_not_sel {x : Issue} (h : ∀ f, x.i ≠ .sel f) : x.doers = x.ex := by
  unfold Issue.doers
  split
  · next f hf => exact absurd hf (h f)
  · rfl

/-- A uniform branch sends the whole active path to its target if some lane executes and the condition `take` holds, else nowhere (07 R166). -/
theorem ends_braUniform {s : State} {i : Instr} {p : Pred} {x : Issue} {disp : W32} {take : Issue → Bool} (h : Issues s i p x)
    (hl : levelOf i = 0) (hc : csrOf i = none) (hsel : ∀ f, i ≠ .sel f)
    (he : exec i s = s.issue i p fun x => braUniform x (take x) disp) :
    Ends s i x fun u w => FrameOf x [] [] x.act u w
      ∧ ∀ l ∈ x.act, (w.lane l).pc = if x.ex ≠ [] ∧ take x.takePorts = true then dispTarget x disp else x.at_ + i.len := by
  have hi : x.i = i := (start_facts h.starts).2.2.1
  have ho : x.once = true ↔ x.ex ≠ [] := by
    unfold Issue.once
    rw [doers_of_not_sel (hi ▸ hsel)]
    simp
  by_cases hgo : x.ex ≠ [] ∧ take x.takePorts = true
  · have hb : braUniform x.takePorts (take x.takePorts) disp = x.act.foldl (fun y l => y.setPc l (dispTarget x disp)) x.takePorts := by
      simp [braUniform, ho.2 hgo.1, hgo.2]
    obtain ⟨u, w, h1, h2, fr, hpc⟩ := ends_setPc h hl hc he (fun _ h => h) hb
    exact ⟨u, w, h1, h2, fr, fun l hact => by rw [hpc l hact, if_pos hact, if_pos hgo]⟩
  · have hb : braUniform x.takePorts (take x.takePorts) disp = [].foldl (fun y l => y.setPc l 0) x.takePorts := by
      unfold braUniform
      rw [if_neg (by simpa [ho] using hgo)]
      rfl
    obtain ⟨u, w, h1, h2, fr, hpc⟩ := ends_setPc (ms := x.act) h hl hc he (by simp) hb
    exact ⟨u, w, h1, h2, fr, fun l hact => by rw [hpc l hact, if_neg (by simp), if_neg hgo]⟩

/-! ### Lengths (02 R46, R47) -/

theorem len_pad : Instr.pad.len = 4 := rfl
theorem len_nop (p : Pred) : (Instr.nop p).len = 8 := rfl
theorem len_bra (p : Pred) (disp : W32) : (Instr.bra p disp).len = 12 := rfl
theorem len_braNz (p : Pred) (a : Nat) (disp : W32) : (Instr.braNz p a disp).len = 12 := rfl
theorem len_braZ (p : Pred) (a : Nat) (disp : W32) : (Instr.braZ p a disp).len = 12 := rfl

/-- Settles O8: `PAD` and `NOP` have no effect of their own, and a branch is a change of PCs alone. -/
theorem noOperationsAndBranches : Obligations.NoOperationsAndBranches := by
  refine ⟨fun s p x => ⟨fun h => ?_, fun h => ?_⟩, fun s p a disp x => ⟨fun h => ?_, fun h => ?_, fun h => ?_⟩⟩
  · simpa only [len_pad] using ends_nothing h rfl rfl rfl
  · simpa only [len_nop] using ends_nothing h rfl rfl rfl
  · have he : exec (.bra p disp) s = execBra p disp s := rfl
    simpa only [len_bra, dispTarget] using ends_setPc (t := dispTarget x disp) h rfl rfl he (fun _ h => h) (by simp)
  · have he : exec (.braNz p a disp) s = execBraNz p a disp s := rfl
    simpa [len_braNz, dispTarget] using ends_braUniform (take := fun x => x.w.sreg a != 0) h rfl rfl (by simp) he
  · have he : exec (.braZ p a disp) s = execBraZ p a disp s := rfl
    simpa [len_braZ, dispTarget] using ends_braUniform (take := fun x => x.w.sreg a == 0) h rfl rfl (by simp) he

end Sys2Proof.Machine
end

section
/-! PROOF. Arithmetic, extremes, shifts and rotation of the integer class (07 R181–R184). -/

namespace Sys2Proof.Machine

open Issue

/-! ### Two's complement -/

theorem wrapInt_eq (w : Nat) (t : Int) : wrapInt w t = (t % 2 ^ w).toNat := by simp [wrapInt]

theorem wrapInt_cast (w : Nat) (t : Int) : (wrapInt w t : Int) = t % 2 ^ w := by
  rw [wrapInt_eq, Int.toNat_of_nonneg (Int.emod_nonneg _ (by positivity))]

theorem two_pow_pred {w : Nat} (hw : 0 < w) : 2 ^ w = 2 * 2 ^ (w - 1) := by
  rw [← pow_succ', Nat.sub_add_cancel hw]

/-- The two's complement value of a word that fits its width. -/
theorem sxInt_of_lt {w a : Nat} (ha : a < 2 ^ w) : sxInt w a = if a < 2 ^ (w - 1) then (a : Int) else a - 2 ^ w := by
  simp [sxInt, Nat.mod_eq_of_lt ha]

/-- 07 R181: what fitting is. -/
theorem fit_eq (ov : Ov) {w : Nat} (hw : 0 < w) (t : Int) :
    let lo : Int := if ov = .usat then 0 else -2 ^ (w - 1)
    let hi : Int := if ov = .usat then 2 ^ w - 1 else 2 ^ (w - 1) - 1
    fit ov w t = if ov = .wrap then ((t % 2 ^ w).toNat, 0)
      else if t < lo then ((lo % 2 ^ w).toNat, fSAT) else if hi < t then ((hi % 2 ^ w).toNat, fSAT) else ((t % 2 ^ w).toNat, 0) := by
  have hp : (0 : Int) < 2 ^ (w - 1) := by positivity
  have hw2 : (2 : Int) ^ w = 2 * 2 ^ (w - 1) := mod_cast two_pow_pred hw
  cases ov with
  | wrap => simp [fit, wrapInt_eq]
  | sat =>
    have hhi : (((2 : Int) ^ (w - 1) - 1) % 2 ^ w).toNat = 2 ^ (w - 1) - 1 := by
      rw [Int.emod_eq_of_lt (by omega) (by omega)]
      have : ((2 : Int) ^ (w - 1)) = ((2 ^ (w - 1) : Nat) : Int) := by simp
      omega
    simp [fit, wrapInt_eq, hhi]
  | usat =>
    have hhi : (((2 : Int) ^ w - 1) % 2 ^ w).toNat = 2 ^ w - 1 := by
      rw [Int.emod_eq_of_lt (by omega) (by omega)]
      have : ((2 : Int) ^ w) = ((2 ^ w : Nat) : Int) := by simp
      omega
    simp only [fit, wrapInt_eq, reduceCtorEq, if_true, if_false, hhi]
    simp

/-- 07 R182: the high half of a product is its quotient by `2 ^ w`, rounded down. -/
theorem mulHigh_cast (uns : Bool) (w a b : Nat) : (mulHigh uns w a b : Int) = (unsVal uns w a * unsVal uns w b) / 2 ^ w % 2 ^ w := by
  unfold mulHigh
  rw [wrapInt_cast, Int.fdiv_eq_ediv_of_nonneg _ (by positivity)]
  simp

theorem divQuot_zero (uns : Bool) (w a : Nat) : divQuot uns w a 0 = (2 ^ w - 1, fDZ) := by simp [divQuot]
theorem divRem_zero (uns : Bool) (w a : Nat) : divRem uns w a 0 = (a, fDZ) := by simp [divRem]

theorem divQuot_of_ne {b : Nat} (hb : b ≠ 0) (uns : Bool) (w a : Nat) :
    divQuot uns w a b = (((unsVal uns w a).tdiv (unsVal uns w b) % 2 ^ w).toNat, 0) := by simp [divQuot, hb, wrapInt_eq]
theorem divRem_of_ne {b : Nat} (hb : b ≠ 0) (uns : Bool) (w a : Nat) :
    divRem uns w a b = (((unsVal uns w a).tmod (unsVal uns w b) % 2 ^ w).toNat, 0) := by simp [divRem, hb, wrapInt_eq]

/-- The most negative word. -/
theorem sxInt_least {w : Nat} (hw : 0 < w) : sxInt w (2 ^ (w - 1)) = -2 ^ (w - 1) := by
  have hw2 := two_pow_pred hw
  have hp : 0 < 2 ^ (w - 1) := by positivity
  rw [sxInt_of_lt (by omega), if_neg (by omega)]
  push_cast [hw2]
  have hz : (2 : Int) ^ w = 2 * 2 ^ (w - 1) := mod_cast hw2
  rw [hz]; ring

theorem sxInt_allOnes {w : Nat} (hw : 0 < w) : sxInt w (2 ^ w - 1) = -1 := by
  have hw2 := two_pow_pred hw
  have hp : 0 < 2 ^ (w - 1) := by positivity
  rw [sxInt_of_lt (by omega), if_neg (by omega)]
  push_cast [Nat.cast_sub (show 1 ≤ 2 ^ w by omega)]
  ring

/-- 07 R182: the most negative word divided by −1 wraps to itself. -/
theorem div_least_neg_one {w : Nat} (hw : 1 < w) :
    divQuot false w (2 ^ (w - 1)) (2 ^ w - 1) = (2 ^ (w - 1), 0) ∧ divRem false w (2 ^ (w - 1)) (2 ^ w - 1) = (0, 0) := by
  have h0 : 0 < w := by omega
  have hw2 : (2 : Int) ^ w = 2 * 2 ^ (w - 1) := mod_cast two_pow_pred h0
  have hp : (0 : Int) < 2 ^ (w - 1) := by positivity
  have hb : 2 ^ w - 1 ≠ 0 := by have := Nat.one_lt_two_pow (show w ≠ 0 by omega); omega
  rw [divQuot_of_ne hb, divRem_of_ne hb]
  simp only [unsVal, Bool.false_eq_true, if_false, sxInt_least h0, sxInt_allOnes h0, Int.tdiv_neg, Int.tdiv_one, neg_neg, Int.tmod_neg, Int.tmod_one]
  rw [Int.emod_eq_of_lt hp.le (by omega)]
  refine ⟨Prod.ext ?_ rfl, by simp⟩
  have : ((2 : Int) ^ (w - 1)) = ((2 ^ (w - 1) : Nat) : Int) := by simp
  simp only [this, Int.toNat_natCast]

/-- Settles O1: each form writes operand 0 with its formula, and the formulas are those of R181 and R182. -/
theorem integerArithmetic : Obligations.IntegerArithmetic := by
  refine ⟨⟨fun s f => writesAll_of_rows ?_, fun ov w t hw => fit_eq ov hw t⟩, fun s f => writesAll_of_rows ?_, fun uns w a b _ _ _ => ?_⟩
  · simp only [List.forall_mem_cons]
    refine ⟨?_, ?_, ?_, ?_, ?_, ?_, ?_, by simp⟩ <;> exact ⟨_, writesDest_wide f, rfl, rfl, rfl, rfl⟩
  · simp only [List.forall_mem_cons]
    refine ⟨?_, ?_, ?_, ?_, ?_, ?_, by simp⟩ <;> exact ⟨_, writesDest_wide f, rfl, rfl, rfl, rfl⟩
  · refine ⟨mulHigh_cast .., divQuot_zero .., divRem_zero .., fun hb => ⟨divQuot_of_ne hb .., divRem_of_ne hb ..⟩, ?_⟩
    rintro rfl hw
    exact div_least_neg_one hw

/-! ### Extremes and the absolute value -/

/-- The lesser of two operands in the order of their values. -/
theorem unsVal_minOf (uns : Bool) (w a b : Nat) : unsVal uns w (minOf uns w a b) = min (unsVal uns w a) (unsVal uns w b) := by
  rw [minOf, apply_ite (unsVal uns w), min_def]

theorem unsVal_maxOf (uns : Bool) (w a b : Nat) : unsVal uns w (maxOf uns w a b) = max (unsVal uns w a) (unsVal uns w b) := by
  rw [maxOf, apply_ite (unsVal uns w), max_def]

/-- The absolute value of a word fits the width. -/
theorem natAbs_sxInt_lt {w a : Nat} (hw : 0 < w) (ha : a < 2 ^ w) : (sxInt w a).natAbs < 2 ^ w := by
  have hw2 := two_pow_pred hw
  have hc : ((2 ^ w : Nat) : Int) = 2 ^ w := by simp
  rw [sxInt_of_lt ha]
  split <;> omega

/-- 07 R183. -/
theorem absOf_eq {sat : Bool} {w a : Nat} (hw : 0 < w) (ha : a < 2 ^ w) :
    absOf sat w a = if a = 2 ^ (w - 1) then (if sat then (2 ^ (w - 1) - 1, fSAT) else (2 ^ (w - 1), 0)) else ((sxInt w a).natAbs % 2 ^ w, 0) := by
  rw [Nat.mod_eq_of_lt (natAbs_sxInt_lt hw ha)]
  unfold absOf
  by_cases h : a = 2 ^ (w - 1) <;> simp [h]

/-! ### Shifts and rotation -/

theorem shiftR_eq {w a : Nat} (b : Nat) (ha : a < 2 ^ w) : shiftR w a b = a / 2 ^ (b % 256) := by
  simp only [shiftR]
  split
  · next h => exact (Nat.div_eq_of_lt (ha.trans_le (Nat.pow_le_pow_right (by simp) h))).symm
  · rfl

theorem shiftRA_cast (w a b : Nat) : (shiftRA w a b : Int) = sxInt w a / 2 ^ (b % 256) % 2 ^ w := by
  unfold shiftRA
  rw [wrapInt_cast, Int.fdiv_eq_ediv_of_nonneg _ (by positivity)]
  simp

/-- A rotation by `r < w` splits the word into two fields that change places. -/
theorem rotL_eq (w a b : Nat) : rotL w a b = (2 ^ (b % 256 % w) * a + a / 2 ^ (w - b % 256 % w)) % 2 ^ w := by
  simp only [rotL, Nat.mul_comm]

/-- 07 R184: bit `k` goes to bit `k + n` modulo the width. -/
theorem bitAt_rotL {w a b k : Nat} (ha : a < 2 ^ w) (hk : k < w) : bitAt (rotL w a b) ((k + b % 256) % w) = bitAt a k := by
  have hw : 0 < w := by omega
  have hr : b % 256 % w < w := Nat.mod_lt _ hw
  rw [rotL_eq, show (k + b % 256) % w = (k + b % 256 % w) % w from (Nat.add_mod_mod ..).symm]
  generalize b % 256 % w = r at hr
  have hlow : a / 2 ^ (w - r) < 2 ^ r := by
    rw [Nat.div_lt_iff_lt_mul (by positivity), ← pow_add]
    rwa [show r + (w - r) = w by omega]
  have hj := Nat.mod_lt (k + r) hw
  simp only [bitAt_eq_testBit, Nat.testBit_mod_two_pow, hj, decide_true, Bool.true_and]
  rw [Nat.testBit_two_pow_mul_add _ hlow]
  by_cases h : k + r < w
  · rw [Nat.mod_eq_of_lt h, if_neg (by omega), Nat.add_sub_cancel]
  · rw [Nat.mod_eq_sub_mod (by omega), Nat.mod_eq_of_lt (by omega), if_pos (by omega), Nat.testBit_div_two_pow]
    congr 1; omega

/-- Settles O2: the forms write operand 0 with their formulas, and the formulas are those of R183 and R184. -/
theorem integerExtremesAndShifts : Obligations.IntegerExtremesAndShifts := by
  refine ⟨⟨fun s f => writesAll_of_rows ?_, fun uns sat w a b hw ha _ => ?_⟩, fun s f => writesAll_of_rows ?_, fun w a b _ ha => ?_⟩
  · simp only [List.forall_mem_cons]
    refine ⟨?_, ?_, ?_, ?_, ?_, by simp⟩ <;> exact ⟨_, writesDest_wide f, rfl, rfl, rfl, rfl⟩
  · exact ⟨unsVal_minOf .., unsVal_maxOf .., absOf_eq hw ha⟩
  · simp only [List.forall_mem_cons]
    refine ⟨?_, ?_, ?_, ?_, ?_, ?_, ?_, ?_, by simp⟩ <;> exact ⟨_, writesDest_wide f, rfl, rfl, rfl, rfl⟩
  · exact ⟨rfl, shiftR_eq b ha, shiftRA_cast .., fun k hk => bitAt_rotL ha hk⟩

end Sys2Proof.Machine
end

section
/-! PROOF. Bits, bit fields, moves, reductions and lane exchanges of the integer class (07 R185–R194). -/

namespace Sys2Proof.Machine

open Issue

/-! ### Bits -/

theorem bitAt_succ (m i : Nat) : bitAt m (i + 1) = bitAt (m / 2) i := by
  simp only [bitAt_eq_testBit, Nat.testBit_add_one]

theorem flagNat_bitAt_zero (m : Nat) : flagNat (bitAt m 0) = m % 2 := by
  have := Nat.mod_two_eq_zero_or_one m
  rcases this with h | h <;> simp [bitAt, flagNat, h]

/-- A bit in front of a number. -/
theorem bitAt_zero_cons (b : Bool) (m : Nat) : bitAt (flagNat b + 2 * m) 0 = b := by
  cases b <;> simp [bitAt, flagNat, Nat.add_mod]

theorem bitAt_succ_cons (b : Bool) (m i : Nat) : bitAt (flagNat b + 2 * m) (i + 1) = bitAt m i := by
  rw [bitAt_succ]
  congr 1
  cases b <;> simp [flagNat]; omega

/-- 07 R185: each bit of the result is the bit of FN that the bits of the operands select. -/
theorem bitAt_boolFn (fn : Nat) {w i : Nat} (a b c : Nat) (hi : i < w) :
    bitAt (boolFn fn w a b c) i = bitAt fn (flagNat (bitAt a i) + 2 * flagNat (bitAt b i) + 4 * flagNat (bitAt c i)) := by
  induction w generalizing a b c i with
  | zero => omega
  | succ w ih =>
    rw [boolFn]
    cases i with
    | zero => simp only [bitAt_zero_cons, flagNat_bitAt_zero]
    | succ i => rw [bitAt_succ_cons, ih _ _ _ (show i < w by omega), bitAt_succ a, bitAt_succ b, bitAt_succ c]

/-- The count of bits is the number of positions that hold one. -/
theorem popCount_eq (w a : Nat) : popCount w a = ((List.range w).filter fun k => bitAt a k).length := by
  induction w generalizing a with
  | zero => rfl
  | succ w ih =>
    rw [popCount, ih, List.range_succ_eq_map, List.filter_cons, List.filter_map, ← flagNat_bitAt_zero]
    have hs : ((fun k => bitAt a k) ∘ Nat.succ) = fun k => bitAt (a / 2) k := funext fun k => bitAt_succ a k
    rw [hs]
    cases bitAt a 0 <;> simp [flagNat, Nat.add_comm]

/-- 07 R186: the leading zeros of a word that is not 0 stand above its highest one. -/
theorem leadZeros_spec {w a : Nat} (ha : a < 2 ^ w) (h0 : a ≠ 0) :
    bitAt a (w - 1 - leadZeros w a) = true ∧ leadZeros w a < w ∧ a < 2 ^ (w - leadZeros w a) := by
  have hlog : a.log2 < w := (Nat.log2_lt h0).2 ha
  have hz : leadZeros w a = w - (a.log2 + 1) := by simp [leadZeros, h0]
  rw [hz, show w - 1 - (w - (a.log2 + 1)) = a.log2 by omega, show w - (w - (a.log2 + 1)) = a.log2 + 1 by omega, bitAt_eq_testBit]
  exact ⟨Nat.testBit_log2 h0, by omega, Nat.lt_log2_self⟩

theorem revBits_lt (w a : Nat) : revBits w a < 2 ^ w := by
  induction w generalizing a with
  | zero => simp [revBits]
  | succ w ih =>
    have := ih (a / 2)
    rw [revBits, pow_succ]
    rcases Nat.mod_two_eq_zero_or_one a with h | h <;> rw [h] <;> omega

/-- 07 R186: reversing the bits of a word. -/
theorem bitAt_revBits {w a i : Nat} (hi : i < w) : bitAt (revBits w a) i = bitAt a (w - 1 - i) := by
  induction w generalizing a i with
  | zero => omega
  | succ w ih =>
    rw [revBits, Nat.mul_comm, bitAt_eq_testBit, Nat.testBit_two_pow_mul_add _ (revBits_lt ..)]
    by_cases h : i < w
    · rw [if_pos h, ← bitAt_eq_testBit, ih h, ← bitAt_succ]
      congr 1; omega
    · obtain rfl : i = w := by omega
      simp [bitAt_eq_testBit, Nat.testBit_zero]

/-- 07 R186: a field extracted with its sign above it. -/
theorem bitExtract_signed (w a b : Nat) :
    bitExtract false w a b = if fieldLen w b = 0 then 0 else (sxInt (fieldLen w b) (a / 2 ^ fieldPos b % 2 ^ fieldLen w b) % 2 ^ w).toNat := by
  simp only [bitExtract, wrapInt_eq, Bool.false_eq_true, if_false]

/-- The three parts of a word with a field of `n` bits at `p` replaced. -/
theorem testBit_replace (a c p n i : Nat) :
    (c % 2 ^ p + a % 2 ^ n * 2 ^ p + c / 2 ^ (p + n) * 2 ^ (p + n)).testBit i = if p ≤ i ∧ i < p + n then a.testBit (i - p) else c.testBit i := by
  have hc : c % 2 ^ p < 2 ^ p := Nat.mod_lt _ (by positivity)
  have hin : 2 ^ p * (a % 2 ^ n) + c % 2 ^ p < 2 ^ (p + n) := by
    have ha : a % 2 ^ n + 1 ≤ 2 ^ n := Nat.mod_lt _ (by positivity)
    calc 2 ^ p * (a % 2 ^ n) + c % 2 ^ p < 2 ^ p * (a % 2 ^ n) + 2 ^ p := by omega
      _ = 2 ^ p * (a % 2 ^ n + 1) := by ring
      _ ≤ 2 ^ p * 2 ^ n := Nat.mul_le_mul_left _ ha
      _ = 2 ^ (p + n) := (pow_add ..).symm
  rw [show c % 2 ^ p + a % 2 ^ n * 2 ^ p + c / 2 ^ (p + n) * 2 ^ (p + n)
      = 2 ^ (p + n) * (c / 2 ^ (p + n)) + (2 ^ p * (a % 2 ^ n) + c % 2 ^ p) by ring]
  rw [Nat.testBit_two_pow_mul_add _ hin, Nat.testBit_two_pow_mul_add _ hc, Nat.testBit_mod_two_pow, Nat.testBit_mod_two_pow,
    Nat.testBit_div_two_pow]
  by_cases h1 : i < p
  · rw [if_pos (by omega), if_pos h1, if_neg (by omega)]; simp [h1]
  · by_cases h2 : i < p + n
    · rw [if_pos h2, if_neg h1, if_pos (by omega)]; simp [show i - p < n by omega]
    · rw [if_neg h2, if_neg (by omega), show i - (p + n) + (p + n) = i by omega]

/-- 07 R186: the field comes from A, the rest from C. -/
theorem bitAt_bitInsert (w a b c i : Nat) :
    bitAt (bitInsert w a b c) i = if fieldPos b ≤ i ∧ i < fieldPos b + fieldLen w b then bitAt a (i - fieldPos b) else bitAt c i := by
  simp only [bitInsert, bitAt_eq_testBit]
  by_cases h : fieldLen w b = 0
  · rw [if_pos h, if_neg (by omega)]
  · rw [if_neg h, testBit_replace]

/-! ### Moves -/

/-- `SEL` is executed by every lane of the active path (07 R187). -/
theorem ends_sel {s : State} {f : IntF} {x : Issue} (h : Issues s (.sel f) f.p x) : Ends s (.sel f) x
    (Wrote x (if f.u then x.act.take 1 else x.act) fun l =>
      (if (if f.u then !x.ex.isEmpty else x.ex.contains l) then x.takePorts.intVal f 1 l else x.takePorts.intVal f 2 l, 0)) := by
  have he : exec (.sel f) s = execSel f s := rfl
  have hd := writesDest_wide f
  simpa only [takePorts_act, takePorts_ex] using
    ends_eachLane h (h.denied rfl rfl) f.u _ _ he (.inr (takePorts_act x)) rfl hd.uniform hd.narrow hd.written

/-- Settles O3: the forms write operand 0 with their formulas, and the formulas are those of R185 and R186. -/
theorem integerBitsAndMoves : Obligations.IntegerBitsAndMoves := by
  refine ⟨⟨fun s f => writesAll_of_rows ?_, fun fn w a b c i hi ha _ => ?_⟩, fun s f =>
    ⟨writesAll_of_rows ?_, writesAll_of_rows ?_, writesAll_of_rows ?_, fun x h => ends_sel h⟩⟩
  · simp only [List.forall_mem_cons]
    refine ⟨?_, ?_, ?_, ?_, ?_, ?_, ?_, ?_, ?_, by simp⟩ <;> exact ⟨_, writesDest_wide f, rfl, rfl, rfl, rfl⟩
  · exact ⟨bitAt_boolFn fn a b c hi, popCount_eq w a, fun h0 => by simp [leadZeros, h0], leadZeros_spec ha, bitAt_revBits hi,
      rfl, bitExtract_signed w a b, bitAt_bitInsert w a b c i⟩
  · simp only [List.forall_mem_cons]
    refine ⟨?_, ?_, by simp⟩ <;> exact ⟨_, writesDest_wide f, rfl, rfl, rfl, rfl⟩
  · simp only [List.forall_mem_cons]
    refine ⟨⟨_, (writesDest_wide f).perLane, rfl, rfl, rfl, rfl⟩, ?_, ?_, by simp⟩ <;> exact ⟨_, writesDest_v f.d, rfl, rfl, rfl, rfl⟩
  · simp only [List.forall_mem_cons]
    exact ⟨⟨_, writesDest_s true f.d, rfl, rfl, rfl, rfl⟩, by simp⟩

/-! ### Reductions -/

theorem reduceOp_lt {fn w a b : Nat} (ha : a < 2 ^ w) (hb : b < 2 ^ w) (hfn : fn < 8) : reduceOp fn w a b < 2 ^ w := by
  have hmin (uns : Bool) : minOf uns w a b < 2 ^ w := by unfold minOf; split <;> assumption
  have hmax (uns : Bool) : maxOf uns w a b < 2 ^ w := by unfold maxOf; split <;> assumption
  match fn, hfn with
  | 0, _ => exact Nat.mod_lt _ (by positivity)
  | 1, _ => exact hmin false
  | 2, _ => exact hmax false
  | 3, _ => exact hmin true
  | 4, _ => exact hmax true
  | 5, _ => exact Nat.and_lt_two_pow _ hb
  | 6, _ => exact Nat.or_lt_two_pow ha hb
  | 7, _ => exact Nat.xor_lt_two_pow ha hb

/-- 07 R194: a reduction folds A over the executing lanes; this part of O6 holds. -/
theorem reduceLanes_cons {x : Issue} {l : Nat} {ls : List Nat} (f : IntF) (h : x.ex = l :: ls) :
    reduceLanes x f = ls.foldl (fun a k => reduceOp f.fn (IntF.width f) a (x.intVal f 1 k)) (x.intVal f 1 l) := by
  rw [reduceLanes, h]

/-- 07 R194: what the eight operators of `REDW` are; this part of O6 holds. -/
theorem reduceOp_spec {w a b : Nat} (ha : a < 2 ^ w) (hb : b < 2 ^ w) :
    let r := fun fn => reduceOp fn w a b
    r 0 = (a + b) % 2 ^ w
    ∧ sxInt w (r 1) = min (sxInt w a) (sxInt w b) ∧ sxInt w (r 2) = max (sxInt w a) (sxInt w b) ∧ r 3 = min a b ∧ r 4 = max a b
    ∧ (∀ fn, fn < 8 → r fn < 2 ^ w)
    ∧ ∀ k, k < w → bitAt (r 5) k = (bitAt a k && bitAt b k) ∧ bitAt (r 6) k = (bitAt a k || bitAt b k) ∧ bitAt (r 7) k = (bitAt a k != bitAt b k) := by
  refine ⟨rfl, unsVal_minOf false w a b, unsVal_maxOf false w a b, Int.ofNat_inj.1 ?_, Int.ofNat_inj.1 ?_, fun _ => reduceOp_lt ha hb, fun k _ => ?_⟩
  · exact (unsVal_minOf true w a b).trans (Nat.cast_min ..).symm
  · exact (unsVal_maxOf true w a b).trans (Nat.cast_max ..).symm
  · simp only [reduceOp, bitAt_eq_testBit, Nat.testBit_and, Nat.testBit_or, Nat.testBit_xor, Bool.bne_eq_xor, and_self]

/-! ### Lane exchanges -/

theorem takePorts_laneGone (x : Issue) (l : Nat) : laneGone x.takePorts l = laneGone x l := by rw [takePorts_rest]; rfl

/-- A vector register or pair holds all of a result of the width. -/
theorem kept_wide {f : IntF} (hu : f.u = false) (r : Nat) {v : Nat} (hv : v < 2 ^ IntF.width f) : kept false f.wide r v = v := by
  unfold IntF.width at hv
  unfold kept IntF.wide
  cases hw : f.w <;> simp [hw, hu] at hv ⊢ <;> omega

theorem perLane_wide {f : IntF} (hu : f.u = false) : perLane f.wide = true := by
  unfold IntF.wide; cases hw : f.w <;> simp [hu, perLane]

theorem mask_notMem_regsOf_wide (f : IntF) (seq : Bool) (d r : Nat) : (2, r) ∉ regsOf seq ⟨f.wide, d, .w⟩ := by
  unfold regsOf IntF.wide
  cases seq <;> cases f.u <;> cases f.w <;> simp [Opnd.vregs]

theorem Touches.mono {x y : Issue} {regs regs' : List (Nat × Nat)} {ls ms : List Nat} (h : Touches x y regs ls ms) (hr : ∀ r ∈ regs, r ∈ regs') :
    Touches x y regs' ls ms :=
  { h with
    vregs := fun r l hl ho => h.vregs r l hl (ho.imp_left fun hn hin => hn (hr _ hin))
    sregs := fun r hn => h.sregs r fun hin => hn (hr _ hin)
    mregs := fun r hn => h.mregs r fun hin => hn (hr _ hin) }

theorem Touches.setM {x y : Issue} {regs : List (Nat × Nat)} {ls ms : List Nat} (h : Touches x y regs ls ms) {d : Nat} (hd : (2, d) ∈ regs) (v : Nat) :
    Touches x { y with w := y.w.setM d v } regs ls ms := by
  refine ⟨?_, ?_, h.lanes, h.pcs, h.flags, h.vregs, h.sregs, fun r hr => ?_, h.outs⟩
  · rw [h.rest]
  · dsimp only [Warp.setM]; rw [h.warp]
  · rw [Warp.mreg_setM, if_neg (by rintro rfl; exact hr hd)]
    exact h.mregs r hr

/-- The mask bits of a lane exchange are no vector register. -/
theorem rdReg_wide_setM {f : IntF} (hu : f.u = false) {w : Warp} (hs : w.isSeq = false) (d v r l : Nat) :
    (w.setM d v).rdReg f.wide r l = w.rdReg f.wide r l := by
  have hs' : (w.setM d v).isSeq = false := hs
  unfold Warp.rdReg IntF.wide
  cases hw : f.w <;> simp [hs, hs', hu]

/-- What a lane exchange writes to D in each lane: A of the source lane, or 0 where that lane is gone (07 R190). -/
def fromLanes (x : Issue) (f : IntF) (source : Nat → Nat) (l : Nat) : Nat × Nat :=
  (if laneGone x (source l) then 0 else x.takePorts.intVal f 1 (source l), 0)

theorem fromLanes_lt (x : Issue) (f : IntF) (source : Nat → Nat) (l : Nat) : (fromLanes x f source l).1 < 2 ^ IntF.width f := by
  unfold fromLanes
  split
  · positivity
  · exact Nat.mod_lt _ (by positivity)

theorem shuffle_takePorts (x : Issue) (f : IntF) (b : Nat → Nat) (src : Nat → Nat → Nat) :
    let source := fun l => src l (b l)
    let y := x.takePorts.eachLane false x.ex (fromLanes x f source)
    shuffle x.takePorts f b src = if f.x = 0 then y else y.setMaskBits (f.x - 1) x.ex fun l => !laneGone x (source l) := by
  simp only [shuffle, takePorts_laneGone, takePorts_ex]
  rfl

/-- With U = 0 a lane exchange ends as 07 R190 says: A of each source lane in D, and with VM the validity of the source in a mask. -/
theorem ends_shuffle {s : State} {i : Instr} {x : Issue} {f : IntF} {b : Issue → Nat → Nat} {src : Nat → Nat → Nat} (hu : f.u = false)
    (h : Issues s i f.p x) (hl : levelOf i = 0) (hc : csrOf i = none) (ho : i.opnds.getD 0 ⟨.none, 0, .n⟩ = ⟨f.wide, f.d, .w⟩)
    (he : exec i s = s.issue i f.p fun x => shuffle x f (b x) src) :
    let source := fun l => src l (b x.takePorts l)
    Ends s i x fun t w =>
      FrameOf x (regsOf x.w.isSeq (x.opnd 0) ++ if f.x = 0 then [] else [(2, f.x - 1)]) x.ex [] t w
      ∧ (x.isPort 0 = false → x.w.isSeq = false → ∀ l ∈ x.ex, w.rdReg (x.opnd 0).cls (x.opnd 0).num l =
          if laneGone x (source l) then 0 else x.takePorts.intVal f 1 (source l))
      ∧ (f.x ≠ 0 → ∀ l, l < 32 → bitAt (w.mreg (f.x - 1)) l = if l ∈ x.ex then !laneGone x (source l) else bitAt (x.w.mreg (f.x - 1)) l) := by
  intro source
  have hop : x.opnd 0 = ⟨f.wide, f.d, .w⟩ := by unfold Issue.opnd; rw [(start_facts h.starts).2.2.1, ho]
  have hop' : x.takePorts.opnd 0 = x.opnd 0 := by rw [takePorts_rest]; rfl
  have hseq : x.takePorts.w.isSeq = x.w.isSeq := by rw [takePorts_rest]; rfl
  have hport : x.takePorts.isPort 0 = x.isPort 0 := by unfold Issue.isPort; rw [hop', hseq]
  have hd := (writesDest_wide f).perLane
  have fl := start_lanes h.starts
  have hb := shuffle_takePorts x f (b x.takePorts) src
  have sl := eachLane_setLanes x.takePorts false x.ex (fromLanes x f source) (fun l hl => (fl.1 l (fl.2.2.1 l hl)).1) fl.2.2.2 (by simp)
  dsimp only at hb
  rw [if_neg (by simp)] at sl
  generalize x.takePorts.eachLane false x.ex (fromLanes x f source) = y at sl hb
  have touch := sl.touches (hop' ▸ hop ▸ hd.written)
  rw [hop', hseq] at touch
  have yseq : y.w.isSeq = x.w.isSeq := (Warp.isSeq_eq (by rw [sl.warp])).trans hseq
  have value (hp : x.isPort 0 = false) (hs : x.w.isSeq = false) : ∀ l ∈ x.ex, y.w.rdReg f.wide f.d l = (fromLanes x f source l).1 := by
    intro l hl
    have v := sl.value (hport.trans hp) (by rw [hop', hop]; exact hd.narrow) l hl (.inl ⟨hseq.trans hs, by rw [hop', hop]; exact perLane_wide hu⟩)
    rw [hop', hop, hseq, hs] at v
    exact v.trans (kept_wide hu _ (fromLanes_lt ..))
  by_cases hx : f.x = 0
  · rw [if_pos hx] at hb
    obtain ⟨t, w, h1, h2, fr, sr⟩ := ends_effect h (h.denied hl hc) he hb touch
    refine ⟨t, w, h1, h2, by simpa [hx] using fr, fun hp hs l hl => ?_, fun hn => absurd hx hn⟩
    rw [hop, sr.rdReg, value hp hs l hl]; rfl
  · rw [if_neg hx] at hb ⊢
    have touch' := (touch.mono fun r hr => List.mem_append_left [(2, f.x - 1)] hr).setM (d := f.x - 1) (by simp)
    obtain ⟨t, w, h1, h2, fr, sr⟩ := ends_effect h (h.denied hl hc) he hb (touch' _)
    refine ⟨t, w, h1, h2, fr, fun hp hs l hl => ?_, fun _ l hl => ?_⟩
    · rw [hop, sr.rdReg]
      exact (rdReg_wide_setM hu (yseq.trans hs) ..).trans (value hp hs l hl)
    · have hm := sl.mregs (f.x - 1) (.inl (by rw [hop', hop]; exact mask_notMem_regsOf_wide f _ _ _))
      rw [takePorts_mreg] at hm
      rw [sr.mreg, bitAt_setMaskBits _ _ _ _ hl, hm]

/-- 07 R191: what O6 says of `SHFL` holds with U = 0, the only U that an encoding of `SHFL` has (02 R53). -/
theorem shufflesAll_of_perLane (s : State) {f : IntF} (hu : f.u = false) :
    ShufflesAll s f
      [(.shflIdx8 f, fun x l => x.narrowVal l % 32), (.shflIdx12 f, fun _ _ => f.imm.toNat % 32),
       (.shflUp8 f, fun x l => if 32 ≤ x.narrowVal l ∨ l < x.narrowVal l then l else l - x.narrowVal l),
       (.shflUp12 f, fun _ l => if 32 ≤ f.imm.toNat ∨ l < f.imm.toNat then l else l - f.imm.toNat),
       (.shflDown8 f, fun x l => if 32 ≤ x.narrowVal l ∨ 31 < l + x.narrowVal l then l else l + x.narrowVal l),
       (.shflDown12 f, fun _ l => if 32 ≤ f.imm.toNat ∨ 31 < l + f.imm.toNat then l else l + f.imm.toNat),
       (.shflXor8 f, fun x l => l ^^^ (x.narrowVal l % 32)), (.shflXor12 f, fun _ l => l ^^^ (f.imm.toNat % 32))] := by
  intro x i src hm h
  simp only [List.mem_cons, Prod.mk.injEq, List.not_mem_nil, or_false] at hm
  rcases hm with ⟨rfl, rfl⟩ | ⟨rfl, rfl⟩ | ⟨rfl, rfl⟩ | ⟨rfl, rfl⟩ | ⟨rfl, rfl⟩ | ⟨rfl, rfl⟩ | ⟨rfl, rfl⟩ | ⟨rfl, rfl⟩
  · exact ends_shuffle (b := fun x l => x.narrowVal l) (src := srcIdx) hu h rfl rfl rfl rfl
  · exact ends_shuffle (b := fun _ _ => f.imm.toNat) (src := srcIdx) hu h rfl rfl rfl rfl
  · exact ends_shuffle (b := fun x l => x.narrowVal l) (src := srcUp) hu h rfl rfl rfl rfl
  · exact ends_shuffle (b := fun _ _ => f.imm.toNat) (src := srcUp) hu h rfl rfl rfl rfl
  · exact ends_shuffle (b := fun x l => x.narrowVal l) (src := srcDown) hu h rfl rfl rfl rfl
  · exact ends_shuffle (b := fun _ _ => f.imm.toNat) (src := srcDown) hu h rfl rfl rfl rfl
  · exact ends_shuffle (b := fun x l => x.narrowVal l) (src := srcXor) hu h rfl rfl rfl rfl
  · exact ends_shuffle (b := fun _ _ => f.imm.toNat) (src := srcXor) hu h rfl rfl rfl rfl

/-- 07 R193, R194: what O6 says of `MATCH` and `REDW`, which holds. -/
theorem writesAll_matches (s : State) (f : IntF) :
    WritesAll s f.p false
      [(.matchAny f, fun x l => (maskOf (x.ex.filter fun k => x.intVal f 1 k == x.intVal f 1 l), 0)),
       (.matchAll f, fun x _ => (if x.ex.all fun l => x.intVal f 1 l == x.intVal f 1 x.lowest then maskOf x.ex else 0, 0)),
       (.redw f, fun x _ => (reduceLanes x f, 0))] := by
  refine writesAll_of_rows ?_
  simp only [List.forall_mem_cons]
  exact ⟨⟨_, writesDest_v f.d, rfl, rfl, rfl, rfl⟩, ⟨_, writesDest_v f.d, rfl, rfl, rfl, rfl⟩, ⟨_, (writesDest_wide f).perLane, rfl, rfl, rfl, rfl⟩, by simp⟩

/-- Scalar register 0 reads as 0, whatever is written to it. -/
theorem rdReg_s_zero (w : Warp) (l : Nat) : w.rdReg .s 0 l = 0 := by
  unfold Warp.rdReg Warp.sreg
  split <;> simp

/-- `SHFL.IDX` of lane 0 with U = 1, `s0` as its D and `s2` as its A: a form that no encoding has (02 R53), but that the statement admits. -/
def scalarShuffle : IntF := { p := ⟨12, false⟩, u := true, d := 0, a := 2 }

/-- The device after reset about to issue, with 5 in `s2` of its warp. -/
def scalarDevice : State :=
  let s := State.reset.withFetchWord 64 0
  { s with cur := some 1, warps := adjust 1 (fun w => w.setS 2 5) s.warps }

/-- The device issues that exchange, and lane 0 reads 5 of its source lane. -/
theorem scalarShuffle_issues : ∃ x, Issues scalarDevice (.shflIdx12 scalarShuffle) scalarShuffle.p x ∧ x.isPort 0 = false ∧ x.w.isSeq = false
    ∧ 0 ∈ x.ex ∧ laneGone x 0 = false ∧ x.takePorts.intVal scalarShuffle 1 0 = 5 := by
  have run : (scalarDevice.start (.shflIdx12 scalarShuffle) scalarShuffle.p).any (fun x =>
      decide ((x.held = false ∧ (x.once && x.unbound) = false ∧ x.readsPoison scalarShuffle.p = false ∧ x.red = false ∧ x.forkAlive = true)
      ∧ x.isPort 0 = false ∧ x.w.isSeq = false ∧ 0 ∈ x.ex ∧ laneGone x 0 = false ∧ x.takePorts.intVal scalarShuffle 1 0 = 5)) = true := by
    decide +kernel
  obtain ⟨x, hx, hq⟩ := (Option.any_eq_true _ _).1 run
  obtain ⟨⟨held, bound, clean, single, alive⟩, rest⟩ := of_decide_eq_true hq
  exact ⟨x, ⟨hx, held, bound, clean, single, alive⟩, rest⟩

/-- Refutes O6: the statement ranges over every `f`, and with U = 1 a lane exchange writes D to a scalar register; with D = `s0` that reads 0
after the exchange, where the statement asks for A of the source lane. -/
theorem not_laneExchanges : ¬ Obligations.LaneExchanges := by
  intro h
  obtain ⟨x, hx, hport, hseq, hex, hgone, hval⟩ := scalarShuffle_issues
  obtain ⟨shuffles, -⟩ := h.1 scalarDevice scalarShuffle
  obtain ⟨t, w, -, -, -, value, -⟩ := shuffles x _ _ (.tail _ (.head _)) hx
  have hop : x.opnd 0 = ⟨.s, 0, .w⟩ := by unfold Issue.opnd; rw [(start_facts hx.starts).2.2.1]; rfl
  have hsrc : scalarShuffle.imm.toNat % 32 = 0 := rfl
  have := value hport hseq 0 hex
  rw [hsrc, hgone, hval, hop, rdReg_s_zero] at this
  simp at this

end Sys2Proof.Machine
end

section
/-! PROOF. Minimum, maximum, comparison and class of the floating-point class (08 R204–R206). -/

namespace Sys2Proof.Machine

open Issue

/-! ### The rows -/

/-- D of the floating-point class: a scalar register under U = 1, otherwise a vector register. -/
theorem writesDest_f (f : FpF) : WritesDest f.u ⟨f.f, f.d, .w⟩ := by
  refine ⟨fun hu => by simp [FpF.f, hu], ?_, rfl⟩
  unfold FpF.f
  cases f.u <;> simp

/-- A list of instructions that need no privilege and whose effect is a comparison. -/
theorem comparesAll_of_rows {s : State} {p : Pred} {u : Bool} {d : Nat} {rows : List (Instr × (Issue → Nat → Bool))}
    (h : ∀ e ∈ rows, levelOf e.1 = 0 ∧ csrOf e.1 = none ∧ exec e.1 s = s.issue e.1 p fun x => x.compareOut u d (e.2 x)) :
    ComparesAll s p u d rows := fun _ _ _ hm hi =>
  let ⟨level, csr, effect⟩ := h _ hm
  ends_compare hi (hi.denied level csr) u d _ effect

/-! ### The order of the values -/

/-- A finite value as its multiple of a power of two at most its own. -/
theorem rat_fin_eq_scaled {lo e : Int} (h : lo ≤ e) (s : Bool) (m : Nat) :
    (Num.fin s m e).rat = (Num.scaled lo (.fin s m e) : ℚ) * 2 ^ lo := by
  have hp : (2 : ℚ) ^ e = 2 ^ (e - lo).toNat * 2 ^ lo := by
    rw [← zpow_natCast, Int.toNat_of_nonneg (sub_nonneg.2 h), ← zpow_add₀ two_ne_zero, sub_add_cancel]
  cases s <;> simp [Num.rat, Num.scaled, hp, mul_assoc]

/-- The order of finite values is that of the rationals they are. -/
theorem lt_iff_rat_lt {x y : Num} (hx : x.isFinite = true) (hy : y.isFinite = true) : x.lt y = true ↔ x.rat < y.rat := by
  match x, y with
  | .fin s m e, .fin t n f =>
    rw [rat_fin_eq_scaled (min_le_left e f), rat_fin_eq_scaled (min_le_right e f), mul_lt_mul_iff_of_pos_right (by positivity), Int.cast_lt]
    exact decide_eq_true_iff

theorem lt_asymm {x y : Num} (h : x.lt y = true) : y.lt x = false := by
  match x, y with
  | .fin s m e, .fin t n f =>
    have hlt := (lt_iff_rat_lt rfl rfl).1 h
    exact Bool.eq_false_iff.2 fun hgt => hlt.asymm ((lt_iff_rat_lt rfl rfl).1 hgt)
  | .inf s, .inf t => revert h; cases s <;> cases t <;> decide
  | .inf s, .fin .. => simpa [Num.lt] using h
  | .fin .., .inf t => simpa [Num.lt] using h

theorem lt_irrefl (x : Num) : x.lt x = false :=
  Bool.eq_false_iff.2 fun h => by simp [lt_asymm h] at h

/-- A NaN is less than nothing, and nothing is less than it. -/
theorem lt_nan {x y : Num} (h : x.isNan = true ∨ y.isNan = true) : x.lt y = false := by
  match x, y with
  | .nan _, _ => rfl
  | .inf _, .nan _ => rfl
  | .fin .., .nan _ => rfl
  | .inf _, .inf _ | .inf _, .fin .. | .fin .., .inf _ | .fin .., .fin .. => simp [Num.isNan] at h

theorem isNan_of_isFinite {x : Num} (h : x.isFinite = true) : x.isNan = false := by
  match x with
  | .fin .. => rfl

theorem eqv_iff_rat_eq {x y : Num} (hx : x.isFinite = true) (hy : y.isFinite = true) : x.eqv y = true ↔ x.rat = y.rat := by
  have hxy := lt_iff_rat_lt hx hy
  have hyx := lt_iff_rat_lt hy hx
  rw [Num.eqv, isNan_of_isFinite hx, isNan_of_isFinite hy]
  simp only [Bool.not_false, Bool.true_and, Bool.and_eq_true, Bool.not_eq_true', ← Bool.not_eq_true, hxy, hyx, not_lt]
  rw [and_comm, le_antisymm_iff]

/-! ### Minimum and maximum -/

/-- 08 R204: `u` is at most `v` in the order of the values in which −0 is less than +0. -/
def AtMost (u v : Num) : Prop := u.lt v = true ∨ v.lt u = false ∧ (u.signOf = true ∨ v.signOf = false ∨ u.isZero = false)

theorem atMost_refl (u : Num) : AtMost u u := .inr ⟨lt_irrefl u, by cases u.signOf <;> simp⟩

/-- 08 R204: of two NaNs the canonical one results, and of a NaN and a number the number. -/
theorem fpMinMax_nan (mx : Bool) (a b : Nat) :
    ((num32 a).isNan = true → (num32 b).isNan = true → fpMinMax mx a b = 0x7FC00000)
    ∧ ((num32 a).isNan = true → (num32 b).isNan = false → fpMinMax mx a b = b)
    ∧ ((num32 a).isNan = false → (num32 b).isNan = true → fpMinMax mx a b = a) := by
  unfold num32
  refine ⟨fun ha hb => ?_, fun ha hb => ?_, fun ha hb => ?_⟩ <;> simp only [fpMinMax, ha, hb] <;> rfl

/-- 08 R204: of two numbers one is at most the other; `FMIN` gives that one and `FMAX` the other. -/
theorem fpMinMax_numbers (mx : Bool) {a b : Nat} (ha : (num32 a).isNan = false) (hb : (num32 b).isNan = false) :
    (AtMost (num32 a) (num32 b) ∧ fpMinMax mx a b = if mx then b else a)
    ∨ (AtMost (num32 b) (num32 a) ∧ fpMinMax mx a b = if mx then a else b) := by
  have hr : fpMinMax mx a b
      = if ((num32 a).lt (num32 b) || (!(num32 b).lt (num32 a) && (num32 a).signOf && !(num32 b).signOf)) != mx then a else b := by
    unfold num32 at ha hb
    simp only [fpMinMax, ha, hb]; rfl
  rw [hr]
  unfold AtMost
  cases hab : (num32 a).lt (num32 b) with
  | true => left; cases mx <;> simp
  | false =>
    cases hba : (num32 b).lt (num32 a) with
    | true => right; cases mx <;> simp
    | false =>
      cases (num32 a).signOf with
      | false => right; cases mx <;> simp
      | true =>
        cases (num32 b).signOf with
        | false => left; cases mx <;> simp
        | true => right; cases mx <;> simp

/-- 08 R204: the result is one of two numbers, and the least or the greatest of them. -/
theorem fpMinMax_extreme (mx : Bool) {a b : Nat} (ha : (num32 a).isNan = false) (hb : (num32 b).isNan = false) :
    (fpMinMax mx a b = a ∨ fpMinMax mx a b = b)
    ∧ ∀ z, z = num32 a ∨ z = num32 b → if mx then AtMost z (num32 (fpMinMax mx a b)) else AtMost (num32 (fpMinMax mx a b)) z := by
  have ra := atMost_refl (num32 a)
  have rb := atMost_refl (num32 b)
  obtain ⟨hle, hr⟩ | ⟨hle, hr⟩ := fpMinMax_numbers mx ha hb <;> rw [hr] <;> cases mx <;> simp [hle, ra, rb]

/-! ### Comparison -/

/-- 08 R205: on numbers `not less` is `equal or greater`; with a NaN no ordered comparison holds. -/
theorem ordered_not_lt (x y : Num) : (!(x.isNan || y.isNan) && !y.lt x) = (x.eqv y || x.lt y) := by
  by_cases hn : x.isNan = true ∨ y.isNan = true
  · have hl := lt_nan hn
    rcases hn with hn | hn <;> simp [Num.eqv, hn, hl]
  · obtain ⟨hx, hy⟩ : x.isNan = false ∧ y.isNan = false := by simpa using hn
    cases hxy : x.lt y with
    | true => simp [hx, hy, lt_asymm hxy]
    | false => simp [Num.eqv, hx, hy, hxy]

theorem eqv_comm (x y : Num) : x.eqv y = y.eqv x := by
  simp only [Num.eqv, Bool.and_comm, Bool.and_left_comm, Bool.and_assoc]

/-- 08 R205: the ordered comparisons from `equal`, `less`, `greater` and `ordered`. -/
theorem fpCompare_ordered (a b : Nat) :
    fpCompare 1 a b = (fpCompare 6 a b && !fpCompare 0 a b) ∧ fpCompare 3 a b = (fpCompare 0 a b || fpCompare 2 a b)
    ∧ fpCompare 5 a b = (fpCompare 0 a b || fpCompare 4 a b) := by
  refine ⟨rfl, ordered_not_lt .., ?_⟩
  have h := ordered_not_lt (lay32.value b) (lay32.value a)
  rw [Bool.or_comm (Num.isNan _), eqv_comm] at h
  exact h

/-- 08 R205: an unordered comparison holds with a NaN and where its ordered one does. -/
theorem fpCompare_unordered {fn : Nat} (a b : Nat) (h7 : 7 ≤ fn) (h14 : fn < 14) :
    fpCompare fn a b = (!fpCompare 6 a b || decide (7 < fn) && fpCompare (fn - 8) a b) := by
  interval_cases fn <;> simp only [fpCompare] <;> cases (lay32.value a).isNan || (lay32.value b).isNan <;> simp

/-! ### Class -/

/-- 04 R88: the value of an FP32 word by its fields. -/
theorem num32_eq {a : Nat} (ha : a < 2 ^ 32) :
    num32 a = if a / 2 ^ 23 % 256 = 255 then (if a % 2 ^ 23 = 0 then .inf (decide (2 ^ 31 ≤ a)) else .nan false)
      else if a / 2 ^ 23 % 256 = 0 then .fin (decide (2 ^ 31 ≤ a)) (a % 2 ^ 23) lay32.qmin
      else .fin (decide (2 ^ 31 ≤ a)) (a % 2 ^ 23 + 2 ^ 23) (lay32.qmin + (a / 2 ^ 23 % 256 - 1 : Nat)) := by
  have sign : bitAt a 31 = decide (2 ^ 31 ≤ a) := by
    rw [Bool.eq_iff_iff]
    simp only [bitAt, beq_iff_eq, decide_eq_true_eq]
    omega
  rw [← sign]
  simp [num32, Layout.value, lay32, bitsAt]

/-- 08 R206: the class from the fields of the word. -/
theorem fpClass_eq {a : Nat} (ha : a < 2 ^ 32) :
    fpClass a = if a / 2 ^ 23 % 256 = 255 then (if a % 2 ^ 23 = 0 then (if decide (2 ^ 31 ≤ a) then 0 else 7) else 8)
      else if a / 2 ^ 23 % 256 = 0 then (if a % 2 ^ 23 = 0 then (if decide (2 ^ 31 ≤ a) then 3 else 4) else if decide (2 ^ 31 ≤ a) then 2 else 5)
      else if decide (2 ^ 31 ≤ a) then 1 else 6 := by
  have hv : lay32.value a = _ := num32_eq ha
  have hf : a % 2 ^ 23 < 2 ^ 23 := Nat.mod_lt _ (by positivity)
  unfold fpClass
  rw [hv]
  by_cases h255 : a / 2 ^ 23 % 256 = 255
  · by_cases h0 : a % 2 ^ 23 = 0 <;> simp only [if_pos h255, h0, if_true, if_false]
  · by_cases hsub : a / 2 ^ 23 % 256 = 0
    · simp only [if_neg h255, if_pos hsub, hf, if_true]
    · have hm : a % 2 ^ 23 + 2 ^ 23 ≠ 0 := by omega
      have hn : ¬a % 2 ^ 23 + 2 ^ 23 < 2 ^ 23 := by omega
      simp only [if_neg h255, if_neg hsub, hm, hn, if_false]

/-- Settles O19: the forms write operand 0 or compare with their formulas, and the formulas are those of R204, R205 and R206. -/
theorem floatSelections : Obligations.FloatSelections := by
  refine ⟨fun s f => ⟨writesAll_of_rows ?_, comparesAll_of_rows ?_⟩, fun mx a b fn ha _ => ?_⟩
  · simp only [List.forall_mem_cons]
    refine ⟨?_, ?_, ?_, ?_, ?_, by simp⟩ <;> exact ⟨_, writesDest_f f, rfl, rfl, rfl, rfl⟩
  · simp only [List.forall_mem_cons]
    exact ⟨⟨rfl, rfl, rfl⟩, ⟨rfl, rfl, rfl⟩, by simp⟩
  · obtain ⟨canonical, right, left⟩ := fpMinMax_nan mx a b
    obtain ⟨ne, le, ge⟩ := fpCompare_ordered a b
    exact ⟨canonical, right, left, fpMinMax_extreme mx, fun hx hy => ⟨lt_iff_rat_lt hx hy, eqv_iff_rat_eq hx hy⟩,
      rfl, rfl, rfl, Bool.not_or .., ne, le, ge, fpCompare_unordered a b, fpClass_eq ha⟩

end Sys2Proof.Machine
end
